-- ==== Sys2Proof/Word.lean ====
section
/-! DEFINITION. The widths of Silerori's data and the sparse table that holds anything indexed by a number. -/
namespace Sys2Proof

/-- A 64-bit scalar register, address register, witness or slot word (R31, R39). -/
abbrev Word := BitVec 64

/-- A byte of memory (R5). -/
abbrev Byte := BitVec 8

/-- A vector register, an accumulator row or the latch `mrow` (R77, R213, R230). -/
abbrev VReg := BitVec 2048

/-- A 64-byte sector (R267). -/
abbrev Sector := BitVec 512

/-- Entries by number, numbers strictly rising; a number that is not listed holds the table's default value. -/
abbrev Tbl (α : Type) := List (Nat × α)

end Sys2Proof
end

