-- ==== Sys2Proof/Config.lean ====
section
/-! DEFINITION. What an implementation fixes and the values the manual leaves free: opaque constants, of which no proof
can see a value. -/
namespace Sys2Proof.Config

/-- The L1 set (0–63, taken modulo 64) that an implementation maps a line number to (R268: not architectural). Log entry 9. -/
opaque l1Set : Nat → Nat

/-- The result bits an implementation proposes for a transcendental of function number `f` (0 exp2, 1 log2, 2 rcp,
3 rsqrt, 4 tanh), format code `fmt` and input bits `x`. It counts only inside the bounds of R100. Log entry 8. -/
opaque transc : (f fmt x : Nat) → Nat

/-- The old-or-new choice of a sector that is read in the view it was not written in (R251), by a fresh counter. Log entry 11. -/
opaque viewOld : Nat → Bool

/-- The hash of a line address by which requests spread over ports and links (R347, R349). Log entry 23. -/
opaque lineHash : Nat → Nat

/-- The bytes of the identity certificate chain and of the signatures of the part (R441, R443); the manual gives none. Log entry 10. -/
opaque identity : Nat → Byte

/-- A budget register after an emergency grant that its width cannot hold (R119, R124). Log entry 24. -/
opaque overGrant : (width b : Nat) → Nat

end Sys2Proof.Config
end

