-- ==== Sys2Proof/Format.lean ====
section
/-! DEFINITION. The slots, the shapes of slot words (R31, R40–R47) as typed records, and the records that messages from
outside the part carry. -/
namespace Sys2Proof

/-- The six issue slots, in PRES order (R31). -/
inductive Slot where
  | s | v0 | v1 | m | c0 | c1
  deriving DecidableEq, Repr

/-- A witness field: `none` is V = 0 with a zero index, `some x` names wx (R40). -/
abbrev WF := Option (BitVec 5)

/-- Format S.R (R45). `kneg` and `k` are KP. -/
structure SR where
  stk : Bool
  ty : BitVec 3
  kneg : Bool
  k : BitVec 3
  d : BitVec 6
  a : BitVec 6
  b : BitVec 6
  c : BitVec 6
  wi1 : WF
  wi2 : WF
  wo : WF
  fn : BitVec 6
  deriving DecidableEq, Repr

/-- Format S.I (R45). -/
structure SI where
  stk : Bool
  ty : BitVec 3
  kneg : Bool
  k : BitVec 3
  d : BitVec 6
  a : BitVec 6
  imm : BitVec 36
  deriving DecidableEq, Repr

/-- Format S.M (R45); `addr` is the address part [17:0]. -/
structure SM where
  stk : Bool
  ty : BitVec 3
  kneg : Bool
  k : BitVec 3
  d : BitVec 6
  base : BitVec 6
  wi1 : WF
  wi2 : WF
  wo : WF
  addr : BitVec 18
  deriving DecidableEq, Repr

/-- The vector format (R41); `file` is false in slot V0 and true in slot V1. -/
structure VO where
  file : Bool
  stk : Bool
  fmt : BitVec 4
  qp : BitVec 4
  d : BitVec 11
  a : BitVec 11
  b : BitVec 11
  c : BitVec 11
  e : Bool
  pn : Bool
  sat : Bool
  deriving DecidableEq, Repr

/-- The matrix format (R46). -/
structure MO where
  stk : Bool
  acc : BitVec 3
  tda : BitVec 4
  tdb : BitVec 4
  ea : BitVec 3
  eb : BitVec 3
  fa : BitVec 4
  fb : BitVec 4
  wi1 : WF
  wi2 : WF
  wi3 : WF
  wo : WF
  fn : BitVec 3
  kstep : BitVec 3
  deriving DecidableEq, Repr

/-- The copy format (R47); `file` is false in slot C0 and true in slot C1. -/
structure CO where
  file : Bool
  stk : Bool
  ch : BitVec 3
  d : BitVec 5
  a : BitVec 5
  b : BitVec 5
  wi1 : WF
  wi2 : WF
  wi3 : WF
  wo : WF
  step : BitVec 13
  deriving DecidableEq, Repr

/-- The kinds of fabric request (R357, R367); `pull` is a pull's read at the producer. -/
inductive FabKind where
  | load | store | atomic | pull
  deriving DecidableEq, Repr

/-- A fabric request as it reaches its target port (R347–R348, R357–R358). `op` is the atomic's opcode low nibble, `ty` its
TYP with the float flag in bit 3; a pull's read holds the producer core and slot in `op` (core · 64 + slot) and the
generation in `ty`. `opId` and `piece` are the source's own numbers, which its reply brings back. -/
structure FabReq where
  kind : FabKind := .load
  src : Nat := 0
  srcPort : Nat := 0
  port : Nat := 0
  seq : Nat := 0
  tag : Nat := 0
  off : Nat := 0
  len : Nat := 0
  data : List Byte := []
  op : Nat := 0
  ty : Nat := 0
  v : Word := 0
  cmp : Word := 0
  ff : Bool := false
  wit : Word := 0
  opId : Nat := 0
  piece : Nat := 0
  deriving DecidableEq, Repr

/-- The outcome of a fabric request (R358). -/
inductive FabOutcome where
  | performed | refused | atstale | memfault (code : Nat)
  deriving DecidableEq, Repr

/-- A reply as it reaches the source (R358): `id` is the source's operation, `tick` the remote perform tick. -/
structure FabReply where
  id : Nat := 0
  piece : Nat := 0
  outcome : FabOutcome := .performed
  val : Word := 0
  data : List Byte := []
  tick : Nat := 0
  deriving DecidableEq, Repr

end Sys2Proof
end

