-- ==== Sys2Proof/Syntax.lean ====
section
/-! DEFINITION. The instructions of Silerori: one constructor for each row of the opcode table. Rows that are slot words
carry the fields of their format. Rows that are steps of the part's engines or acts of outside agents carry nothing: what they
act on is named by the field `arg` of the state (`Operands:` below gives its use). -/
namespace Sys2Proof

/-- A row of the opcode table. -/
inductive Instr where
  /-- R49: Opcode 0x00 of any map does nothing. -/
  | nop (sl : Slot) (stk : Bool)
  /-- R137: Integer add, with optional saturation. -/
  | add (f : SR)
  /-- R137: Integer subtract, with optional saturation. -/
  | sub (f : SR)
  /-- R137: Integer multiply, the low w bits or saturated. -/
  | mul (f : SR)
  /-- R137: The high half of the exact integer product. -/
  | mulh (f : SR)
  /-- R137: Integer divide truncated toward zero, with defined results for a zero divisor and overflow. -/
  | div (f : SR)
  /-- R137: Integer remainder with the sign of the dividend. -/
  | rem (f : SR)
  /-- R137: Integer minimum, by the signedness of TYP. -/
  | min (f : SR)
  /-- R137: Integer maximum, by the signedness of TYP. -/
  | max (f : SR)
  /-- R137: Bitwise and over w bits. -/
  | and (f : SR)
  /-- R137: Bitwise or over w bits. -/
  | or (f : SR)
  /-- R137: Bitwise exclusive or over w bits. -/
  | xor (f : SR)
  /-- R137: Shift left by a register count taken modulo w. -/
  | shl (f : SR)
  /-- R137: Shift right, arithmetic or logical by TYP. -/
  | shr (f : SR)
  /-- R137: Rotate left by a register count taken modulo w. -/
  | rot (f : SR)
  /-- R137: Select sA or sB by the predicate kC. -/
  | sel (f : SR)
  /-- R138: Add a sign-extended immediate. -/
  | addi (f : SI)
  /-- R138: Multiply by an immediate, keeping the low w bits. -/
  | muli (f : SI)
  /-- R138: Bitwise and with an immediate. -/
  | andi (f : SI)
  /-- R138: Bitwise or with an immediate. -/
  | ori (f : SI)
  /-- R138: Bitwise exclusive or with an immediate. -/
  | xori (f : SI)
  /-- R138: Shift left by an immediate count. -/
  | shli (f : SI)
  /-- R138: Shift right by an immediate count. -/
  | shri (f : SI)
  /-- R139: Load an extended immediate. -/
  | li (f : SI)
  /-- R139: Set bits [63:36] from the immediate above bits [35:0] of sA. -/
  | lih (f : SI)
  /-- R140: Write kD := (sA = sB). -/
  | cmpeq (f : SR)
  /-- R140: Write kD := (sA ≠ sB). -/
  | cmpne (f : SR)
  /-- R140: Write kD := (sA < sB), signed or unsigned. -/
  | cmplt (f : SR)
  /-- R140: Write kD := (sA ≤ sB), signed or unsigned. -/
  | cmple (f : SR)
  /-- R140: Compare equal with an immediate. -/
  | cmpeqi (f : SI)
  /-- R140: Compare not-equal with an immediate. -/
  | cmpnei (f : SI)
  /-- R140: Compare less-than with an immediate. -/
  | cmplti (f : SI)
  /-- R140: Compare less-or-equal with an immediate. -/
  | cmplei (f : SI)
  /-- R141: Predicate and. -/
  | kand (f : SR)
  /-- R141: Predicate or. -/
  | kor (f : SR)
  /-- R141: Predicate exclusive or. -/
  | kxor (f : SR)
  /-- R141: Predicate not. -/
  | knot (f : SR)
  /-- R141: Copy one predicate to another (FN 0). -/
  | kmovK (f : SR)
  /-- R141: Write a predicate into a scalar register as 0 or 1 (FN 1). -/
  | kmovToS (f : SR)
  /-- R141: Set a predicate from a scalar register being non-zero (FN 2). -/
  | kmovFromS (f : SR)
  /-- R142: Extract a bit field, sign- or zero-extended. -/
  | bfx (f : SR)
  /-- R142: Insert a bit field. -/
  | bfi (f : SR)
  /-- R143: Count leading zero bits. -/
  | clz (f : SR)
  /-- R143: Count trailing zero bits. -/
  | ctz (f : SR)
  /-- R143: Count one bits. -/
  | popc (f : SR)
  /-- R143: Reverse the byte order within w. -/
  | bswap (f : SR)
  /-- R145: Branch to a label at commit. -/
  | br (f : SI)
  /-- R145: Write the link and branch to a label. -/
  | call (f : SI)
  /-- R145: Branch to the address in a register. -/
  | brr (f : SR)
  /-- R145: Write the link and branch to the address in a register. -/
  | callr (f : SR)
  /-- R145: Return to the address in a register. -/
  | ret (f : SR)
  /-- R146: Decrement a counter and branch while it is non-zero. -/
  | loop (f : SI)
  /-- R147: Commit, then enter the handler with SWTRAP and the immediate as cause. -/
  | trap (f : SI)
  /-- R148: Read a special register after the witness inputs are satisfied. -/
  | mfsr (f : SI)
  /-- R148: Write a special register at commit, clearing W1C fields, or fault PRIV. -/
  | mtsr (f : SI)
  /-- R154: Arm a barrier with an expected count, or empty it. -/
  | bari (f : SI)
  /-- R155: Arrive on the context's own barrier with witnesses. -/
  | barl (f : SR)
  /-- R156: Send an arrival to a named barrier of the interface, and get its counted or poisoned witness. -/
  | barv (f : SR)
  /-- R158: Wait until a barrier is complete or empty, returning its control word and witness. -/
  | barw (f : SR)
  /-- R158: Wait as barw, then re-arm a complete barrier at commit. -/
  | barwRearm (f : SR)
  /-- R158: Read a barrier's control word and witness without stalling. -/
  | barwTest (f : SR)
  /-- R160: Land the handler's results, end the handler and resume the context at its resume point. -/
  | tret (f : SR)
  /-- R160: Kill the task from its handler, with a cause. -/
  | tkill (f : SR)
  /-- R276: Scalar load after the witness inputs, extended by TYP. -/
  | ld (f : SM)
  /-- R276: Scalar store that performs at its home after commit, with an optional witness. -/
  | st (f : SM)
  /-- R278: Prefetch a line into L1, or do nothing when it cannot. -/
  | pref (f : SM)
  /-- R278: Write a line's dirty sectors from the home slice to memory. -/
  | wb (f : SM)
  /-- R278: Invalidate a line in the core's L1 at commit. -/
  | inv (f : SM)
  /-- R280: Atomic add, integer or .f32, returning the old value. -/
  | aadd (f : SM)
  /-- R280: Atomic minimum. -/
  | amin (f : SM)
  /-- R280: Atomic maximum. -/
  | amax (f : SM)
  /-- R280: Atomic and. -/
  | aand (f : SM)
  /-- R280: Atomic or. -/
  | aor (f : SM)
  /-- R280: Atomic exclusive or. -/
  | axor (f : SM)
  /-- R280: Atomic swap. -/
  | aswp (f : SM)
  /-- R281: Atomic compare-and-swap, returning the old value. -/
  | acas (f : SR)
  /-- R252: Wait until the context's scratchpad writes have performed in both views, and return a witness that spans both. -/
  | vjoin (f : SR)
  /-- R302: Merge witnesses into a register at commit. -/
  | wmrg (f : SR)
  /-- R303: Collect the witnesses of the context's stores, and optionally its copies. -/
  | wall (f : SR)
  /-- R304: Test whether a witness is satisfied (FN 0). -/
  | wtst (f : SR)
  /-- R304: Test a witness's poison bit (FN 1). -/
  | wtstPoisoned (f : SR)
  /-- R304: Test whether a witness register is no longer pending (FN 2). -/
  | wtstLanded (f : SR)
  /-- R305: Stall until the witnesses are satisfied at the core. -/
  | wwait (f : SR)
  /-- R306: Read a witness into a scalar register. -/
  | wrd (f : SR)
  /-- R307: Write a normalized scalar value into a witness register. -/
  | wset (f : SR)
  /-- R127: End the task, enqueue up to four successors with merged start witnesses and inherited budgets. -/
  | exit (f : SR)
  /-- R128: Set ctx.cont to a label at commit (TYP 0). -/
  | contLabel (f : SI)
  /-- R128: Set ctx.cont to a register plus offset (TYP 1). -/
  | contReg (f : SI)
  /-- R129: Read BI, BM or ctx.st of the context, or of a task handle on a stream core. -/
  | budrd (f : SR)
  /-- R130: A stream core tops up a task's budgets and clears EXH. -/
  | budadd (f : SR)
  /-- R131: Join a group under an enrolment index, with a status. -/
  | gjoin (f : SI)
  /-- R131: Leave the group of an enrolment index. -/
  | gleave (f : SI)
  /-- R414: Read a launch block and enter the task, or return a failure status or freeze. -/
  | launch (f : SR)
  /-- R415: Stall the stream until an event count, a witness or a tick condition holds. -/
  | cwait (f : SR)
  /-- R416: Send a message to the host mailbox and interrupt, or report it full. -/
  | hsig (f : SR)
  /-- R417: Invalidate the interface's translations over a range, advance GEN and produce an invalidation witness. -/
  | xinv (f : SR)
  /-- R418: Set the translation word (item 0). -/
  | cslotXlat (f : SR)
  /-- R418: Set the instruction quantum QI (item 1). -/
  | cslotQi (f : SR)
  /-- R418: Set the memory quantum QM (item 2). -/
  | cslotQm (f : SR)
  /-- R418: Set the core, cluster and interface containment policies (item 3). -/
  | cslotPolicy (f : SR)
  /-- R418: Set the dump area and reset its pointers (item 4). -/
  | cslotDump (f : SR)
  /-- R418: Advance the dump acknowledge pointer (item 5). -/
  | cslotDumpack (f : SR)
  /-- R418: Set the event ring base EVB (item 6). -/
  | cslotEvents (f : SR)
  /-- R418: Write V and IN of an owned Thyme slot entry (item 7). -/
  | cslotThyme (f : SR)
  /-- R418: Set the hold time of an allotted group (item 8). -/
  | cslotGroup (f : SR)
  /-- R418: Stage one circuit schedule entry (item 9, FOWN). -/
  | cslotSched (f : SR)
  /-- R418: Stage a port's schedule start tick (item 10, FOWN). -/
  | cslotT0 (f : SR)
  /-- R418: Stage one part's route entry (item 11, FOWN). -/
  | cslotRoute (f : SR)
  /-- R418: Stage the visibility window length (item 12, FOWN). -/
  | cslotWindow (f : SR)
  /-- R418: Stage a port's ticket call limit (item 13, FOWN). -/
  | cslotCallmax (f : SR)
  /-- R422: Thaw a frozen interface once its dumps are written (item 14). -/
  | cslotThaw (f : SR)
  /-- R420: Start the fabric drain toward a named next group. -/
  | fdrain (f : SR)
  /-- R420: Declare staging complete and wait for relock. -/
  | fdrainLock (f : SR)
  /-- R427: Arm a snapshot for step S from a snapshot record. -/
  | snapAt (f : SR)
  /-- R428: Advance the step counter, and mark the armed snapshot's regions when its step is reached. -/
  | snapAtStep (f : SR)
  /-- R433: Drop an armed snapshot, or abandon a draining one. -/
  | snapDis (f : SR)
  /-- R175: Floating add, rounded once by mode. -/
  | vadd (f : VO)
  /-- R175: Floating subtract. -/
  | vsub (f : VO)
  /-- R175: Floating multiply. -/
  | vmul (f : VO)
  /-- R176: Fused a × b + c, rounded once. -/
  | vfma (f : VO)
  /-- R176: Fused a × b − c. -/
  | vfms (f : VO)
  /-- R176: Fused c − a × b. -/
  | vfnma (f : VO)
  /-- R177: Floating maximum, propagating NaN. -/
  | vmax (f : VO)
  /-- R177: Floating minimum, propagating NaN. -/
  | vmin (f : VO)
  /-- R177: Clear the sign bit. -/
  | vabs (f : VO)
  /-- R177: Invert the sign bit. -/
  | vneg (f : VO)
  /-- R177: Copy the sign of b onto a. -/
  | vcpsg (f : VO)
  /-- R178: 2^a. -/
  | vexp2 (f : VO)
  /-- R178: log2 a. -/
  | vlog2 (f : VO)
  /-- R178: Reciprocal. -/
  | vrcp (f : VO)
  /-- R178: Reciprocal square root. -/
  | vrsqrt (f : VO)
  /-- R178: Hyperbolic tangent. -/
  | vtanh (f : VO)
  /-- R179: Integer add per element. -/
  | viadd (f : VO)
  /-- R179: Integer subtract per element. -/
  | visub (f : VO)
  /-- R179: Integer multiply per element. -/
  | vimul (f : VO)
  /-- R179: Integer multiply-add per element. -/
  | vimad (f : VO)
  /-- R179: Integer maximum per element. -/
  | vimax (f : VO)
  /-- R179: Integer minimum per element. -/
  | vimin (f : VO)
  /-- R179: Integer absolute value per element. -/
  | viabs (f : VO)
  /-- R180: Vector bitwise and. -/
  | vand (f : VO)
  /-- R180: Vector bitwise or. -/
  | vor (f : VO)
  /-- R180: Vector bitwise exclusive or. -/
  | vxor (f : VO)
  /-- R180: Vector bitwise not. -/
  | vnot (f : VO)
  /-- R181: Per-element shift left, with optional saturation. -/
  | vshl (f : VO)
  /-- R181: Per-element shift right. -/
  | vshr (f : VO)
  /-- R197: Compare equal into a predicate. -/
  | vcmpEq (f : VO)
  /-- R197: Compare not-equal into a predicate. -/
  | vcmpNe (f : VO)
  /-- R197: Compare less-than into a predicate. -/
  | vcmpLt (f : VO)
  /-- R197: Compare less-or-equal into a predicate. -/
  | vcmpLe (f : VO)
  /-- R197: Compare under the total order into a predicate. -/
  | vcmpTord (f : VO)
  /-- R197: Test for an unordered (NaN) pair into a predicate. -/
  | vcmpUn (f : VO)
  /-- R198: Select elements by a predicate. -/
  | vsel (f : VO)
  /-- R199: Compare-exchange (key, index) pairs, keeping the higher or lower. -/
  | vcxc (f : VO)
  /-- R200: Convert elements between formats, by part. -/
  | vcvt (f : VO)
  /-- R201: Pack FP6 elements densely. -/
  | vpack (f : VO)
  /-- R201: Unpack dense FP6 elements. -/
  | vunpk (f : VO)
  /-- R202: Derive E8M0 block scales from lane maxima. -/
  | vscl (f : VO)
  /-- R203: Quantize FP32 values to an MX format with given scales. -/
  | vqmx (f : VO)
  /-- R204: Seed the stochastic generators. -/
  | vseed (f : VO)
  /-- R205: Permute elements by index. -/
  | vperm (f : VO)
  /-- R205: Broadcast one element. -/
  | vbcast (f : VO)
  /-- R205: Interleave halves of two registers. -/
  | vzip (f : VO)
  /-- R205: De-interleave two registers. -/
  | vuzp (f : VO)
  /-- R206: Segmented floating sum reduction. -/
  | vrsum (f : VO)
  /-- R206: Segmented maximum reduction. -/
  | vrmax (f : VO)
  /-- R206: Segmented minimum reduction. -/
  | vrmin (f : VO)
  /-- R206: Segmented largest-magnitude reduction. -/
  | vramax (f : VO)
  /-- R206: Segmented integer sum reduction. -/
  | virsum (f : VO)
  /-- R207: Copy the active elements. -/
  | vmov (f : VO)
  /-- R208: Move a whole vector register to the other vector file (kind 0). -/
  | xmvVec (f : VO)
  /-- R208: Move a predicate to the other vector file (kind 1). -/
  | xmvPred (f : VO)
  /-- R208: Move a 64-bit piece of a vector register to a scalar register (kind 2). -/
  | xmvToS (f : VO)
  /-- R209: Broadcast a scalar register into a vector register (kind 3). -/
  | xmvFromS (f : VO)
  /-- R208: Move a 64-bit piece of a vector register to a C address register (kind 4). -/
  | xmvToC (f : VO)
  /-- R208: Move a predicate to a scalar register (kind 5). -/
  | xmvPredToS (f : VO)
  /-- R210: Load a whole vector register. -/
  | vld (f : VO)
  /-- R210: Store the active lanes of a register at commit. -/
  | vst (f : VO)
  /-- R211: Gather 32-bit elements. -/
  | vgth (f : VO)
  /-- R211: Scatter 32-bit elements at commit. -/
  | vsct (f : VO)
  /-- R191: Configure an operand port from a parameter record. -/
  | pcfg (f : VO)
  /-- R192: Advance a port's position without fetching. -/
  | pskip (f : VO)
  /-- R196: Vector predicate and. -/
  | qand (f : VO)
  /-- R196: Vector predicate or. -/
  | qor (f : VO)
  /-- R196: Vector predicate exclusive or. -/
  | qxor (f : VO)
  /-- R196: Vector predicate not. -/
  | qnot (f : VO)
  /-- R196: Set every lane of a predicate false (mode 0). -/
  | qsetNone (f : VO)
  /-- R196: Set every lane of a predicate true (mode 1). -/
  | qsetAll (f : VO)
  /-- R196: Set the first n lanes true from BIMM (mode 2). -/
  | qsetFirst (f : VO)
  /-- R196: Set each lane to whether its 32 bits of vA are non-zero (mode 3). -/
  | qsetNz (f : VO)
  /-- R226: Check and issue a matrix multiply-accumulate of two descriptor tiles into a tile. -/
  | mma (f : MO)
  /-- R226: As mma, zeroing the tile first. -/
  | mmaz (f : MO)
  /-- R221: Load a tile descriptor from memory. -/
  | tdld (f : MO)
  /-- R222: Add BIMM to a descriptor's BASE. -/
  | tdsetAdd (f : MO)
  /-- R222: Set BASE[31:0]. -/
  | tdsetLo (f : MO)
  /-- R222: Set BASE[63:32]. -/
  | tdsetHi (f : MO)
  /-- R222: Set KORG. -/
  | tdsetKorg (f : MO)
  /-- R222: Set LINES and NBLK. -/
  | tdsetShape (f : MO)
  /-- R222: Set STRIDE. -/
  | tdsetStride (f : MO)
  /-- R222: Set VIEW. -/
  | tdsetView (f : MO)
  /-- R224: Start a load of 1,024 block scales without interlock. -/
  | mscl (f : MO)
  /-- R231: Issue a drain of a tile row into mrow, optionally clearing it. -/
  | mdrn (f : MO)
  /-- R232: Issue a store of a tile to memory. -/
  | mst (f : MO)
  /-- R232: Issue a load of a tile from memory. -/
  | mld (f : MO)
  /-- R233: Zero a tile. -/
  | mzero (f : MO)
  /-- R233: Copy one tile to another. -/
  | mmov (f : MO)
  /-- R256: Check a linear copy and start it at commit on a channel. -/
  | cp (f : CO)
  /-- R257: Check a strided copy with a shape word and start it at commit. -/
  | cps (f : CO)
  /-- R263: Multicast a source to the receivers of a list. -/
  | mcst (f : CO)
  /-- R285: Issue a group load under an enrolment, taking a sequence at commit. -/
  | gld (f : CO)
  /-- R264: Set bits of the retain mask. -/
  | pgret (f : CO)
  /-- R264: Clear bits of the retain mask. -/
  | pgrel (f : CO)
  /-- R264: Write a logical page back to its backing. -/
  | pgwb (f : CO)
  /-- R282: Start filling a range into its home slices. -/
  | l2pf (f : CO)
  /-- R282: Start writing a range's dirty sectors to memory. -/
  | l2wb (f : CO)
  /-- R282: Start dropping a range's clean, unpinned lines. -/
  | l2inv (f : CO)
  /-- R318: Publish a block under a retention slot and send notices to its consumers. -/
  | pub (f : CO)
  /-- R331: Decline a pending notice by tag, or record a standing decline. -/
  | decl (f : CO)
  /-- R334: Set bits of the landing mask (item 0). -/
  | scfgLand (f : CO)
  /-- R334: Clear bits of the landing mask (item 1). -/
  | scfgUnland (f : CO)
  /-- R334: Set the mailbox address (item 2). -/
  | scfgMbox (f : CO)
  /-- R334: Set DL and MO (item 3). -/
  | scfgLimits (f : CO)
  /-- R334: Set the class map CMAP (item 4). -/
  | scfgClass (f : CO)
  /-- R334: Set the reserved fraction PACE (item 5). -/
  | scfgPace (f : CO)
  /-- R334: Read the pending notices, outstanding pulls and PN (item 6). -/
  | scfgRead (f : CO)
  /-- R336: Register a tile walk on a free engine and return its handle. -/
  | walk (f : CO)
  /-- R338: Grant tiles of a walk to this target, optionally requesting a tile witness. -/
  | permit (f : CO)
  /-- R325: Set a retention slot's timeout. -/
  | rtset (f : CO)
  /-- R325: Force the release of a retention slot the task holds. -/
  | rtrel (f : CO)
  /-- R359: Fabric store of a block to a global address, acknowledged or fire-and-forget. -/
  | fst (f : CO)
  /-- R361: Fabric multicast store to the parts of a destination record. -/
  | fmst (f : CO)
  /-- R364: Ask a target port for a ticket number. -/
  | tkget (f : CO)
  /-- R364: Get a witness that lands when the ticket is called. -/
  | tkwait (f : CO)
  /-- R364: Release a ticket. -/
  | tkdone (f : CO)
  /-- R369: Allocate an in-switch reduction slot. -/
  | rslot (f : CO)
  /-- R370: Contribute a vector to a switch reduction. -/
  | rsto (f : CO)
  /-- R434: Shadow a marked page now. -/
  | shcp (f : CO)
  /-- R434: Drain a marked page now, ahead of its order. -/
  | shdrn (f : CO)
  /-- R8: Part reset puts every register field at its stated reset value, leaves retention slots free and resets NZB-W1 switch slot state. -/
  | partReset
  /-- R442: The boot ROM verifies the firmware signature and the anti-rollback version, and either starts the firmware or stays in recovery. Operands: `flag` the signature does not verify, `a` version, `list` digest. -/
  | firmwareVerify
  /-- R440: Every 4 µs the management core starts the next cluster in station order; the matrix arrays start after the last cluster. -/
  | clusterStart
  /-- R440: After the 512 µs start at one eighth, the die power budget rises by one eighth every 64 µs until it is whole. -/
  | powerRampStep
  /-- R440: The part sets sys.tick from IEEE 1588 time, accepts command-stream starts and applies any ENTRY write that was held. Operands: `a` time. -/
  | acceptStarts
  /-- R443: The part answers an SPDM GET_VERSION request carried by MCTP over NCL. -/
  | spdmGetVersion
  /-- R443: The part answers an SPDM GET_CAPABILITIES request. -/
  | spdmGetCapabilities
  /-- R443: The part answers NEGOTIATE_ALGORITHMS and offers only RSASSA-4096 with SHA-512. -/
  | spdmNegotiateAlgorithms
  /-- R443: The part answers an SPDM GET_DIGESTS request. -/
  | spdmGetDigests
  /-- R443: The part returns its identity certificate chain. Operands: `a` offset, `b` length. -/
  | spdmGetCertificate
  /-- R443: The part answers an SPDM CHALLENGE with its identity key. Operands: `a` nonce. -/
  | spdmChallenge
  /-- R443: The part reports the firmware digest, the repair-fuse state and the envelope and allotment measurements. -/
  | spdmGetMeasurements
  /-- R437: An operator request through the management core selects the 4,800 W, 4,000 W or 3,200 W envelope. Operands: `a` watts. -/
  | envelopeSelect
  /-- R438: At the start of each Thyme revolution the die accountant discards leftover units and sets the budget for the current envelope. Operands: `a` die. -/
  | accountingPeriodStart
  /-- R439: Once per cycle the accountant grants the matrix block requests that fit, in precedence order, and holds the rest. Operands: `a` die. -/
  | powerGrantDecision
  /-- R235: Before a k-block enters the array, the engine computes its power units from the operand toggles and asks the accountant for them. Operands: `a` core. -/
  | matrixBlockPowerRequest
  /-- R446: Every 60 s, and at an orderly power-down, the lifetime store commits its counters to nonvolatile memory. Operands: `flag` at an orderly power-down. -/
  | dillCommit
  /-- R446: Over an authenticated SPDM session the operator reads the 64 KiB image of the lifetime records. -/
  | dillRead
  /-- R445: Every second the part samples die and HBM temperatures into the Dill histograms. Operands: `list` degrees Celsius of dies 0-3 and of the stacks. -/
  | temperatureSample
  /-- R409: The management core reassigns a core once each of its contexts has reached a yield bundle, evicting its tasks and dropping their records from the core. Operands: `a` core, `b` ifc + 1, or 0 for none. -/
  | mgmtAssignCore
  /-- R340: The management core sets the IFC of a Thyme slot entry and clears its V bit. Operands: `a` station, `b` out, `c` slot, `d` ifc. -/
  | mgmtSetThymeIfc
  /-- R283: The management core sets IFC and ALLOT of a group entry; clearing ALLOT removes every member. Operands: `a` die, `b` group, `c` ifc, `flag` ALLOT. -/
  | mgmtSetGroup
  /-- R408: The management core sets an interface's optical share SH, its fabric tag FTAG or the fabric owner FOWN. Operands: `a` ifc, `d` item (0 SH, 1 FTAG, 2 FOWN), `b` share, `c` tag + 1 or 0 for none, `flag` owner. -/
  | mgmtSetFabricItems
  /-- R408: The management core sets an interface's quantum ceilings QCI and QCM. Operands: `a` ifc, `b` QCI, `c` QCM. -/
  | mgmtSetQuantumCeiling
  /-- R410: A write to ENTRY while RUN is 0 thaws a frozen interface if needed and starts the command stream at the value written. Operands: `a` ifc, `word` v, `flag` the write that is held. -/
  | entryWrite
  /-- R410: A write to an interface register that has no behaviour of its own (HANDLER, XLAT, HMB, HRD) stores the value, or is ignored where the map says so. Operands: `a` ifc, `b` off, `word` v. -/
  | registerWrite
  /-- R57: A slot issues a dynamic bundle: the header and field checks run, operands are read and effects enter the commit buffer. Operands: `a` cid. -/
  | bundleIssue
  /-- R59: The oldest executed dynamic bundle passes its budget check and commits, making its effects architectural and starting its engine operations. Operands: `a` cid. -/
  | bundleCommit
  /-- R115: A yield bundle drains in-flight results and M operations, ends the task run and sets the context ready or waiting on its wait kind. Operands: `a` cid. -/
  | yieldBundle
  /-- R64: A result arrives from its unit and lands at its bundle n + L, stalling the destination slot while it is late. Operands: `a` cid. -/
  | resultLanding
  /-- R374: An asynchronous fault (RETTMO, GRPMIS, a fabric refusal, ATSTALE, PEERGONE or a failed atomic) traps on the oldest uncommitted bundle, is queued, or is posted as an event. Operands: `a` cid. -/
  | asyncFaultDelivery
  /-- R386: A running context that commits no bundle for 2^20 counted cycles hangs, and goes to containment with HANG. Operands: `a` cid. -/
  | hangDetect
  /-- R170: An ephemeral vector register reaches its deadline of 4,096 cycles after landing and becomes expired. Operands: `a` cid, `flag` file, `b` reg. -/
  | ephemeralExpiry
  /-- R167: The refresh engine takes a bank cycle to refresh a row, skipping removed pages and ephemeral registers. Operands: `a` core, `flag` file. -/
  | refreshCycle
  /-- R108: The distributor places a new entry (a launch, an exit successor or an eviction record) on the core of its set with the most free general entries. Operands: `a` id. -/
  | launchEnqueue
  /-- R108: A held record or refused entry is placed once a general entry is free on a suitable core. Operands: `a` id. -/
  | heldEntryPlace
  /-- R109: A pending entry's start witness is satisfied at its core, and the entry becomes queued with its readiness tick, or fails on poison. Operands: `a` core, `b` id. -/
  | startWitnessSatisfied
  /-- R111: A core admits a queued entry into a free context, checking capacity and pools, allotting resources and loading or restoring the context. Operands: `a` core. -/
  | admission
  /-- R113: The core scheduler picks the ready context with the highest current priority and the oldest readiness tick. Operands: `a` core. -/
  | schedulerPick
  /-- R114: Every 8,192 committed bundles, the current priority of each waiting entry or ready context rises by one level, up to 6. Operands: `a` core. -/
  | priorityAging
  /-- R115: A waiting context's wake condition holds, and it becomes ready at that readiness tick. Operands: `a` cid. -/
  | contextWake
  /-- R121: A budadd top-up reaches the task between two commits, clears EXH and wakes, readmits or enlarges the task. Operands: `a` id. -/
  | budgetTopupApply
  /-- R122: An exit waiting for queue space wakes when an entry is freed, and executes the exit bundle again. Operands: `a` cid. -/
  | exitQueueRetry
  /-- R120: The eviction save completes: pages are written back and unpinned, pools are freed, the EVICTED record is requeued and an event is posted. Operands: `a` cid. -/
  | evictionSaveDone
  /-- R188: A fetched operand-port chunk, or a held fault, arrives from memory; a covering committed store makes the port refetch it. Operands: `a` cid, `flag` file, `b` port. -/
  | portChunkArrival
  /-- R224: mscl data arrive and the scale register lands no earlier than n + V.ld, or an error raises an engine fault. Operands: `a` id. -/
  | msclLanding
  /-- R227: After its witnesses and older operations on its tile, the engine performs an mma or mmaz issue block by block and writes its witness. Operands: `a` id. -/
  | mmaPerform
  /-- R237: A data error in an M operand stops the operation at a block or row boundary, poisons its witness, holds younger operations and traps. Operands: `a` id. -/
  | engineFault
  /-- R231: The engine reads a tile row after older operations on the tile, and the row goes to the mrow latch. Operands: `a` id. -/
  | mdrnPerform
  /-- R232: The engine converts and writes a tile to memory after its witness inputs, and writes the merged witness. Operands: `a` id. -/
  | mstPerform
  /-- R232: The engine reads memory after its witness inputs and writes the tile row by row. Operands: `a` id. -/
  | mldPerform
  /-- R233: The engine performs an mzero or mmov on its tiles in engine order. Operands: `a` id. -/
  | tileOpPerform
  /-- R269: Sectors arrive from the home and fill an L1 line, which records its fill tick. Operands: `a` core, `b` line. -/
  | l1Fill
  /-- R269: An L1 line reaches fill tick + 65,536 and invalidates itself. Operands: `a` core, `b` line. -/
  | l1LineExpiry
  /-- R271: Once no fill is outstanding, the cluster L1 switches between fused and separate mode and invalidates every line. Operands: `a` station. -/
  | l1ModeChange
  /-- R274: A sector fill from HBM or DDR arrives at its home slice, poisoned if it meets an uncorrectable error. Operands: `a` pa, `flag` ue. -/
  | l2Fill
  /-- R276: A committed store performs at its home once its witness inputs are satisfied there, and yields its witness. Operands: `a` id. -/
  | storePerform
  /-- R279: A committed atomic performs indivisibly at its home and lands the old value and witness, or fails asynchronously. Operands: `a` id. -/
  | atomicPerform
  /-- R400: A translation walk reads the page-table levels at their homes and installs the leaf, or faults XMISS, XPROT, MEMUE or POISON. Operands: `a` core, `b` va, `c` ifc where the core is a stream core. -/
  | translationWalk
  /-- R246: A 64 KiB refill of a FILL page from its backing completes, the page becomes PRESENT and stalled accesses go on. Operands: `a` cid, `b` page. -/
  | pageRefillComplete
  /-- R254: A committed copy takes its free channel and begins once its witness inputs are satisfied. Operands: `a` id. -/
  | copyStart
  /-- R253: A copy finishes writing an 8 KiB tile, unlocks its banks and advances the channel's write pointer. Operands: `a` id. -/
  | copyTileComplete
  /-- R261: A copy completes or stops on a run-time error, writes its ring record and its witness, and frees the channel. Operands: `a` id. -/
  | copyComplete
  /-- R263: A multicast branch reaches its receiver core, which writes it or drops it for a missing task or a too-small range. Operands: `a` id, `b` branch. -/
  | mcstBranchArrival
  /-- R282: An l2pf, l2wb or l2inv finishes its last line, or stops on a translation fault, and writes its witness. Operands: `a` id. -/
  | l2RangeComplete
  /-- R131: A committed join reaches the die's group table, which decides room, membership and allotment. Operands: `a` id. -/
  | groupJoinArrival
  /-- R286: A group-load request reaches its home slice and joins an open entry, is served alone, opens an entry or raises a mismatch. Operands: `a` id. -/
  | gldRequestArrival
  /-- R290: A request waiting at the slice for a hold entry proceeds when one is freed. Operands: `a` die * 512 + slice. -/
  | gldHoldEntryFreed
  /-- R286: An open hold entry's timer expires, and the entry releases and becomes trailing. Operands: `a` entry. -/
  | holdTimerExpiry
  /-- R286: A trailing hold entry is freed one hold time after its release. Operands: `a` entry. -/
  | trailingEntryTimeout
  /-- R287: A member's fill completes with a cluster-scope witness and a KIND 4 ring record, or with a fault status. Operands: `a` id. -/
  | groupFillComplete
  /-- R157: An arrival reaches the owning core and is counted and merged into the barrier, or refused. Operands: `a` id. -/
  | barrierArrival
  /-- R300: The part replaces an old cluster or device witness with null. Operands: `a` cid, `b` reg. -/
  | witnessCollapse
  /-- R326: A notice arrives at the consumer's notice table, and is declined, refused while the table is full, or entered as pending. Operands: `a` id. -/
  | noticeArrival
  /-- R326: The producer's port engine resends a refused notice when the consumer's table signals space. Operands: `a` id. -/
  | noticeResend
  /-- R322: A pull end or a decline reaches the producer core and clears its consumer bit; at COUNT 0 the slot is released. Operands: `a` id, or 0 for an answer from another part: `b` core, `c` slot, `d` generation * 8 + consumer. -/
  | retentionAnswer
  /-- R323: A held retention slot reaches its deadline, and raises RETTMO in the resident holder or forces the release. Operands: `a` core, `b` slot. -/
  | retentionTimeout
  /-- R332: Sage starts the best-ranked pending notice that fits and whose ingress is open, charging ctx.bm and writing the mailbox entry. Operands: `a` station. -/
  | pullStart
  /-- R332: A notice pending longer than DL µs without starting is declined automatically. Operands: `a` station, `b` id. -/
  | autoDecline
  /-- R330: A pull's read request reaches the producer core, which serves it or refuses it as stale. Operands: `a` id. -/
  | pullRead
  /-- R329: A pull ends, answers its producer, and writes a KIND 5 record and its completion witness. Operands: `a` id. -/
  | pullComplete
  /-- R337: A tile-walk engine moves the next tile once every target has granted it and its permit witnesses are satisfied. Operands: `a` station, `b` engine. -/
  | walkTileMove
  /-- R419: A die's Thyme revolution starts: staged Thyme writes take effect and Sage's ingress credit renews. Operands: `a` die. -/
  | thymeRevolution
  /-- R342: A receiver finds a bad flit CRC and asks for a replay; after 8 replays within 1 ms the link retrains to half width. Operands: `a` station, `b` out. -/
  | meshCrcReplay
  /-- R343: A Chive message reaches its destination, which accepts it or discards a duplicate, and acknowledges it. Operands: `a` id, `flag` the acknowledgement is lost. -/
  | chiveMessageArrival
  /-- R343: An unacknowledged Chive message is resent after 2 µs, and is lost after 8 resends. Operands: `a` id. -/
  | chiveResendTimeout
  /-- R345: An optical link resends flits from its retry buffer after a bad CRC. Operands: `a` port, `b` link. -/
  | linkCrcRetry
  /-- R346: A failing optical link is taken down, and its port moves its retry buffer and traffic onto the surviving links. Operands: `a` port, `b` link. -/
  | linkDown
  /-- R346: A receiver sees a link-down flit and stops expecting markers on that link. Operands: `a` port, `b` link. -/
  | linkDownFlitReceipt
  /-- R352: A circuit port's schedule passes a slot boundary or the end of its dark guard, which changes which peer queue may send. Operands: `a` port. -/
  | circuitSlotBoundary
  /-- R352: A request or marker leaves its send queue onto a link, and its retransmission timer starts. Operands: `a` id. -/
  | fabricRequestDepart
  /-- R354: A visibility window ends, and the part places close markers into every send queue and on every listed link. -/
  | windowEnd
  /-- R355: A close marker arrives from a peer on a link and counts toward closing that window. Operands: `a` peer, `b` port, `c` link, `d` window. -/
  | closeMarkerReceipt
  /-- R356: At the start of window N + 5, a waiter on window N whose markers are still missing ends with WINTMO. Operands: `a` window. -/
  | windowTimeout
  /-- R358: A fabric request arrives at its target port and is answered from the reply cache, answered ATSTALE, refused, or executed and cached. Operands: `req` the request. -/
  | fabricRequestArrival
  /-- R358: A reply reaches the source, which keeps the first reply and lands the value and witness or raises the fault. Operands: `reply` the reply, or with `flag` its outcome for the fire-and-forget request `req` to part `b`. -/
  | fabricReplyArrival
  /-- R357: An acknowledged request with no reply is retransmitted after 8 µs, and after the eighth it ends with PEERGONE. Operands: `a` id. -/
  | retransmitTimeout
  /-- R358: A reply-cache entry expires after 64 µs or is evicted early, and FLOOR is updated. Operands: `a` port. -/
  | replyCacheExpiry
  /-- R363: A port calls the lowest issued uncalled ticket while fewer than CALLMAX tickets are open. Operands: `a` port. -/
  | ticketCall
  /-- R363: An open ticket's timeout expires, and the ticket is skipped and counted. Operands: `a` port, `b` ticket. -/
  | ticketTimeout
  /-- R362: A switch splits an fmst copy into branches by its reachability masks, dropping destinations outside the group. Operands: `a` the copy's message. -/
  | switchMulticastSplit
  /-- R455: A switch receives an rslot request and allots its lowest free reduction slot, or replies FULL. Operands: `a` id, or 0 for the request `req` of another part. -/
  | reductionSlotAlloc
  /-- R370: A contribution reaches the switch and is counted or refused; the last contributor triggers delivery. Operands: `a` id, or 0 for the contribution `req` of another part. -/
  | reductionContribution
  /-- R372: A reduction slot's TMO expires, and it delivers a partial result, or frees itself when nothing was counted. Operands: `a` switch * 4096 + slot. -/
  | reductionTimeout
  /-- R372: A contributor's part writes the delivered result at its home and completes its record and witness. Operands: `a` id. -/
  | reductionResultWrite
  /-- R365: A drain marker arrives from a peer on a link; once all have arrived the part reports drained. Operands: `a` peer, `b` port, `c` link. -/
  | drainMarkerReceipt
  /-- R365: After every part of the old and next groups has drained and locked, the fabric manager switches the group's circuits together. -/
  | circuitSwitch
  /-- R365: The links relock, staged routes and schedules take effect, and held requests enter their queues or fail with PEERGONE. Operands: `a` this part's index in the new group, `list` its members, `c` mask of circuit ports, `d` switch of each port, 8 bits a port. -/
  | relock
  /-- R367: An optical port engine forwards a held remote notice when the consumer part's station accepts it. Operands: `a` id, with `flag` once the consumer's station has accepted it, or 0 for the notice `req` of another part. -/
  | remoteNoticeForward
  /-- R430: A write reaches a marked page and waits while Bay shadows the page or drains it early and clears the mark. Operands: `a` id. -/
  | markedPageWrite
  /-- R431: Bay drains the next region page to storage from its shadow or from the live page. Operands: `a` ifc. -/
  | bayDrainPage
  /-- R432: After the last storage acknowledgement Bay writes the completion record and the snapshot witness. Operands: `a` ifc. -/
  | snapshotComplete
  /-- R445: A supply droop on a die is detected and counted in the Dill records. Operands: `a` die. -/
  | supplyDroop
  /-- R251: A slot or mst write buffered in one scratchpad view finishes performing in the other view, which lets a stalled vjoin go on. Operands: `a` id. -/
  | writePerformedInBothViews
  /-- R360: After commit, once its witness inputs are satisfied, an fst, fmst or rsto reads its source and enqueues the data toward its destination or switch. Operands: `a` id. -/
  | fabricStoreSourceRead
  /-- R364: A tkget or tkdone message reaches the target port, which issues a ticket number (or FULL) or releases the ticket, and replies. Operands: `a` id, or 0 for the message `req` of another part. -/
  | ticketRequestArrival
  deriving DecidableEq, Repr

end Sys2Proof
end

