-- ==== Sys2Proof/Machine/CtxState.lean ====
section
/-! DEFINITION. The state of one hardware context (R102–R104, R124–R126, R133–R136, R152, R162, R183, R213–R214, R301, R376–R381). -/
namespace Sys2Proof.Machine

/-- The states of a context (R103). -/
inductive CtxSt where
  | free | ready | running | waiting | inHandler | evicted | frozen
  deriving DecidableEq, Repr

/-- A launch block's fields (R104). -/
structure LaunchBlk where
  entry : Word := 0
  cont : Word := 0
  image : Word := 0
  arg : Word := 0
  handler : Word := 0
  save : Word := 0
  wstart : Word := 0
  bi : Nat := 0
  inh : Bool := false
  inhfr : Nat := 0
  bm : Nat := 0
  pbase : Nat := 0
  pcnt : Nat := 0
  pmask : BitVec 4 := 0
  prio : Nat := 0
  ifc : Nat := 0
  fuse : Bool := false
  pol : Nat := 2
  sreg : Nat := 64
  vp0 : Nat := 0
  vp1 : Nat := 0
  acc : Nat := 0
  td : Nat := 0
  esc : Nat := 0
  ca0 : Nat := 0
  ca1 : Nat := 0
  spp : Nat := 0
  ge : List (Option Nat) := [none, none, none, none]
  addr : Word := 0
  deriving DecidableEq, Repr

/-- The latencies of an image header, in bundles (R68, R69). -/
structure Lat where
  salu : Nat := 1
  smul : Nat := 3
  sld : Nat := 20
  valu : Nat := 2
  vfma : Nat := 4
  vtr : Nat := 6
  vld : Nat := 28
  vxmv : Nat := 2
  mdrn : Nat := 12
  cst : Nat := 4
  deriving DecidableEq, Repr

/-- Where a result lands (R64, R390). -/
inductive Dst where
  | s (r : Nat)
  | k (r : Nat)
  | v (file : Bool) (r : Nat)
  | q (file : Bool) (r : Nat)
  | mrow
  | td (r : Nat)
  | a (file : Bool) (r : Nat)
  deriving DecidableEq, Repr

/-- A result in flight: it lands at dynamic bundle `due`; the bits of `mask` take `val`. `late` names the operation whose
completion supplies the value (R65); `stop` marks an `xmv` result that still waits for the next STOP bundle, `xmv` one that
lands before the destination slot's own results (R66, R208). -/
structure Landing where
  dst : Dst
  due : Nat
  val : VReg
  mask : VReg
  eph : Bool := false
  late : Option Nat := none
  stop : Bool := false
  xmv : Bool := false
  deriving DecidableEq, Repr

/-- A result that has landed at the dynamic bundle that issues, with what the register held before it (R64, R378): until the bundle
commits, a trap puts the result back into flight. -/
structure Landed where
  l : Landing
  old : VReg := 0
  eph : Option Nat := none
  expired : Bool := false
  bad : BitVec 256 := 0
  deriving DecidableEq, Repr

/-- A witness register and the operation whose output it awaits (R301). -/
structure WReg where
  val : Word := 0
  pend : Option Nat := none
  deriving DecidableEq, Repr

/-- A barrier register (R152). -/
structure Barrier where
  gen : BitVec 8 := 0
  exp : BitVec 12 := 0
  arr : BitVec 12 := 0
  brk : Bool := false
  ovf : Bool := false
  done : Bool := false
  arm : Bool := false
  w : Word := 0
  deriving DecidableEq, Repr

/-- What another part has answered to a load that still waits (R275, R298): sectors of a line, by number, for the witness of the load, or
the code and the sector of a bad one. -/
structure Lent where
  line : Nat
  win : Word
  secs : List (Nat × List Byte) := []
  fault : Option (Nat × Nat) := none
  deriving DecidableEq, Repr

/-- A fetched chunk of a port: its position, its bytes or a held fault (code and address), the tick of its fetch, and where it was
read, as runs of physical bytes (R188, R190). -/
structure Chunk where
  pos : Nat
  bytes : List Byte
  fault : Option (Nat × Nat) := none
  tick : Nat := 0
  runs : List (Nat × Nat) := []
  deriving DecidableEq, Repr

/-- An operand port (R183–R190). -/
structure Port where
  conf : Bool := false
  rcd : BitVec 512 := 0
  base : Word := 0
  pos : Nat := 0
  wit : Word := 0
  chunks : List Chunk := []
  deriving DecidableEq, Repr

/-- One vector file of a context (R162, R167–R171, R183, R195, R85, R88). `eph` holds the deadline cycle of each ephemeral
register, `expired` the expired names, `bad` the bytes of each register whose parity fails (R168). -/
structure VFile where
  r : Tbl VReg := []
  q : Tbl Word := []
  gen : Tbl (BitVec 16) := []
  ports : Tbl Port := []
  stat : Word := 0
  eph : Tbl Nat := []
  expired : List Nat := []
  bad : Tbl (BitVec 256) := []
  deriving DecidableEq, Repr

/-- A group enrolment (R131, R284). -/
structure Enrol where
  grp : Nat
  nseq : BitVec 32
  deriving DecidableEq, Repr

/-- The state of a logical page (R246). -/
inductive PgSt where
  | zero | fill | present
  deriving DecidableEq, Repr

/-- A logical page: its physical page of the station and its state (R244, R246). -/
structure Page where
  phys : Nat
  st : PgSt
  deriving DecidableEq, Repr

/-- What a waiting context waits for (R115, R119, R122): for queue space, the placement sets in which no entry has been freed yet, each
core with its free entries when last seen. -/
inductive Wait where
  | none
  | witness (r : Nat)
  | barrier (b : Nat)
  | group (e : Nat)
  | ring
  | budget
  | topup (after : Wait)
  | queue (sets : List (List (Nat × Nat)))
  deriving DecidableEq, Repr

/-- An active sticky word and its index j (R61–R63). -/
structure Sticky where
  word : Word
  j : Nat
  deriving DecidableEq, Repr

/-- What the open group remembers of one encoded bundle (R56): the crossing names each slot names and writes (0–31 for
w0–w31, 32 for `mrow`) and its SYNC mask. -/
structure GrpEnt where
  names : List (Nat × Nat)
  writes : List (Nat × Nat)
  sync : BitVec 6
  deriving DecidableEq, Repr

/-- A fault as the fault registers and cause chain see it (R376, R390, R392); `here` marks one whose rule names no address, which takes that
of the bundle the trap falls on. -/
structure Flt where
  cls : Nat
  code : Nat
  mask : Nat := 0
  addr : Word := 0
  rep : Nat := 0
  cause : Nat := 0
  tick : Nat := 0
  here : Bool := false
  deriving DecidableEq, Repr

/-- One entry of a cause chain (R392). -/
structure ChainEnt where
  addr : Word
  tick : Nat
  code : Nat
  level : Nat
  policy : Nat
  cls : Nat
  cause : Nat
  retries : Nat
  deriving DecidableEq, Repr

/-- The resume state that a trap saves (R378, R379): the landing entries carry remaining counts in `due`. -/
structure Resume where
  pc : Word
  rep : Nat
  sticky : Tbl Sticky
  landing : List Landing
  deriving DecidableEq, Repr

/-- One hardware context. `vpages0`, `vpages1`, `tiles` and `tds` map its logical pages, tiles and descriptors to physical ones (R163,
R212, R213), and `met` is the tick since which the condition that it waits for holds (R115). `landed` holds the results that landed at a bundle which has
not committed, newest first; `sg` holds the scalar registers as read at the first bundle of the open group (R209); `mxHeld`
counts the cycles of THR (R236); `yield` is the
wait of a yield bundle that has committed and still waits for results in flight (R67), and `returning` tells of a `tret` that does (R160). `accUe`, `tdUe` and `eUe` are the tile rows (tile · 128
+ row), descriptors and scale registers with an uncorrectable error (R444), `lent` is what other parts have answered to its loads, and `disc`
lists the bundles that the fault in containment discarded, for its dump (R391). -/
structure Ctx where
  st : CtxSt := .free
  uid : Nat := 0
  ifc : Nat := 0
  tseq : Nat := 0
  lb : LaunchBlk := {}
  lat : Lat := {}
  dataOff : Nat := 0
  s : Tbl Word := []
  k : BitVec 8 := 1
  w : Tbl WReg := []
  b : Tbl Barrier := []
  v0 : VFile := {}
  v1 : VFile := {}
  acc : Tbl VReg := []
  td : Tbl (BitVec 256) := []
  e : Tbl Byte := []
  mrow : VReg := 0
  sg : Tbl Word := []
  mxStat : Word := 0
  mxPwr : Word := 0
  mxHeld : Nat := 0
  mxK : Word := 0
  a0 : Tbl Word := []
  a1 : Tbl Word := []
  pc : Word := 0
  rep : Nat := 0
  sticky : Tbl Sticky := []
  group : List GrpEnt := []
  n : Nat := 0
  landing : List Landing := []
  landed : List Landed := []
  bi : Nat := 0
  bm : Nat := 0
  cont : Word := 0
  xpc : Word := 0
  xrep : Nat := 0
  exh : Bool := false
  evc : Bool := false
  refuse : Nat := 0
  epri : Nat := 0
  age : Nat := 0
  topped : Bool := false
  ge : Tbl (Option Enrol) := []
  ret : BitVec 32 := 0
  rrp : BitVec 32 := 0
  pages : List Page := []
  refill : List Nat := []
  vpages0 : List Nat := []
  vpages1 : List Nat := []
  tiles : List Nat := []
  tds : List Nat := []
  wait : Wait := .none
  yield : Option Wait := none
  returning : Bool := false
  rtick : Nat := 0
  met : Option Nat := none
  wakeFault : Option Flt := none
  flt : Flt := { cls := 0, code := 0 }
  resume : Option Resume := none
  hb : Nat := 0
  queued : List Flt := []
  qovf : Bool := false
  retries : Nat := 0
  retryPc : Word := 0
  retryRep : Nat := 0
  chain : List ChainEnt := []
  resumedByPolicy : Bool := false
  stallT : Nat := 0
  lastTry : Nat := 0
  wsto : Word := 0
  wcpy : Word := 0
  lm : BitVec 32 := 0
  mb : Word := 0
  dl : Nat := 0
  mo : Nat := 4
  pn : BitVec 32 := 0
  lent : List Lent := []
  accUe : List Nat := []
  tdUe : List Nat := []
  eUe : List Nat := []
  standing : List Nat := []
  disc : List (Word × Nat) := []
  dying : Bool := false
  evicting : Bool := false
  deriving DecidableEq, Repr

end Sys2Proof.Machine
end

