-- ==== Sys2Proof/Machine/EngState.lean ====
section
/-! DEFINITION. The state of the engines: operations in flight, copy channels, ready queues, retention slots, notices, walks,
caches, hold entries, fabric ports, snapshots and the platform (R107, R215, R254–R260, R268–R290, R316–R346, R345–R372, R402,
R410–R412, R425–R433, R437–R446). -/
namespace Sys2Proof.Machine

/-- Who started an operation: a context and the task it then held, with its interface and task sequence. -/
structure Owner where
  cid : Nat
  uid : Nat
  ifc : Nat := 0
  tseq : Nat := 0
  deriving DecidableEq, Repr

/-- A physical location: device memory (PA), a scratchpad byte (station · 2^21 + page · 65,536 + offset), the ring store
(core · 4,096 + offset), or a global address. -/
inductive Loc where
  | dev (pa : Nat)
  | sp (addr : Nat)
  | ring (addr : Nat)
  | glob (va : Nat)
  deriving DecidableEq, Repr

/-- Bytes at a location. -/
structure Piece where
  loc : Loc
  bytes : List Byte
  deriving DecidableEq, Repr

/-- A run of bytes at a location. -/
structure Seg where
  loc : Loc
  len : Nat
  deriving DecidableEq, Repr

/-- A store in flight: pieces not yet performed, replies awaited from other parts, the witness so far. `sw` is the view. -/
structure StoreOp where
  sw : Bool
  va : Word
  left : List Piece
  await : Nat := 0
  acc : Word := 0
  deriving DecidableEq, Repr

/-- An atomic in flight (R279–R281): `fn` is the opcode's low nibble, `f` the float flag. -/
structure AtomicOp where
  fn : Nat
  f : Bool
  ty : BitVec 3
  va : Word
  loc : Loc
  v : Word
  cmp : Word
  reg : Nat
  sent : Bool := false
  deriving DecidableEq, Repr

/-- A copy on a channel (R254–R258): kinds 0 `cp`, 1 `cps`, 3 `pgwb`. Row i copies `rlen` sectors; `lock` tells that it has locked the
tile that it writes (R253). -/
structure CopyOp where
  kind : Nat
  ch : Nat
  core : Nat
  dst : Word
  src : Word
  rows : Nat
  rlen : Nat
  dstr : Nat
  sstr : Nat
  dsw : Bool
  ssw : Bool
  pos : Nat := 0
  started : Bool := false
  lock : Bool := false
  stop : Option Nat := none
  last : Nat := 0
  deriving DecidableEq, Repr

/-- A branch of an `mcst` (R262, R263). -/
structure Branch where
  idx : Nat
  cid : Nat
  tseq : Nat
  page : Nat
  sect : Nat
  done : Bool := false
  dropped : Bool := false
  deriving DecidableEq, Repr

/-- An `mcst` in flight (R263): the source is read once when it starts. -/
structure McstOp where
  ch : Nat
  core : Nat
  src : Word
  len : Nat
  br : List Branch
  data : List Byte := []
  stop : Option Nat := none
  started : Bool := false
  acc : Word := 0
  deriving DecidableEq, Repr

/-- A group-load request (R285). `stat` is 0 asked, 1 waits for a hold entry, 2 in an entry, 3 served alone,
4 released; `peers` are the requests that one release serves, `read` tells that the shared read has happened. `segs` are the source's
bytes as translated at execution (R314), `exp` the members expected with a request that waits for an entry, and `gone` tells that the task
has left and its pages have been returned (R289). -/
structure GldOp where
  e : Nat
  die : Nat
  g : Nat
  q : BitVec 32
  dst : Word
  src : Word
  len : Nat
  sw : Bool
  stat : Nat := 0
  code : Nat := 0
  data : List Byte := []
  peers : List Nat := []
  read : Bool := false
  segs : List Seg := []
  exp : List (Nat × Nat) := []
  gone : Bool := false
  deriving DecidableEq, Repr

/-- The matrix operations (R53), and the `check` of a word that has only read a descriptor (R444). -/
inductive MKind where
  | mma | mmaz | mdrn | mst | mld | mzero | mmov | check
  deriving DecidableEq, Repr

/-- A matrix operation in the engine's queue with its captured operands (R215, R216): `j` is the sticky index, `ka` and `kb`
the effective k origins, `sa` and `sb` the captured scales (empty where absent), `lines` the located bytes of each line as
translated at execution. `blk` blocks are folded, `granted` may enter the array, `asked` units are asked for the next; `pins`
are the lines pinned for it, `got` those that it has fetched, and `prevA` and `prevB` the bytes of the block folded last that the next is
compared with. `ue` tells that a descriptor or scale register captured has an uncorrectable error (R444). -/
structure MOp where
  kind : MKind
  acc : Nat
  row : Nat := 0
  clr : Bool := false
  acc2 : Nat := 0
  tda : BitVec 256 := 0
  tdb : BitVec 256 := 0
  sa : List Byte := []
  sb : List Byte := []
  fa : BitVec 4 := 0
  fb : BitVec 4 := 0
  sat : Bool := false
  zero : Bool := false
  j : Nat := 0
  ka : Nat := 0
  kb : Nat := 0
  linesA : List (List Seg) := []
  linesB : List (List Seg) := []
  blk : Nat := 0
  granted : Nat := 0
  asked : Option Nat := none
  askTick : Nat := 0
  heldPeriods : Nat := 0
  units : Nat := 0
  prevA : List Byte := []
  prevB : List Byte := []
  pins : List Nat := []
  got : List Nat := []
  ue : Bool := false
  fl : BitVec 8 := 0
  deriving DecidableEq, Repr

/-- A notice (R317–R319, R326, R367). `st` is 0 sent, 1 refused and kept at its sender, 2 pending,
3 forwarded to another part; `rem` is REM and `part` the other
part; `inc` tells that the producer is on that part, `port` is the optical port that it goes through (R367). -/
structure Notice where
  cons : Nat
  ctseq : Nat
  cifc : Nat
  idx : Nat
  tag : BitVec 32
  size : Nat
  prio : Nat
  addr : Word
  pcore : Nat
  puid : Nat
  pcid : Nat
  slot : Nat
  gen : Nat
  win : Word
  rem : Bool := false
  inc : Bool := false
  part : Nat := 0
  port : Nat := 0
  st : Nat := 0
  atick : Nat := 0
  tidx : Nat := 0
  deriving DecidableEq, Repr

/-- A pull in flight (R329, R330). `asked` tells that a request is at another part, `got` what the last request read at a producer of this
part: the tick, the bytes and the code of a stop, which reach the consumer in a later cycle (R322). -/
structure PullOp where
  no : Notice
  run : Nat
  mb : Nat
  pos : Nat := 0
  stop : Option Nat := none
  last : Nat := 0
  asked : Bool := false
  got : Option (Nat × List Byte × Option Nat) := none
  deriving DecidableEq, Repr

/-- A fabric store in flight (R359–R362): `dests` are the target parts and offsets. -/
structure FstOp where
  mc : Bool
  ff : Bool
  rcd : Bool
  dests : List Nat
  off : Nat
  src : Word
  len : Nat
  data : List Byte := []
  read : Bool := false
  sent : Nat := 0
  await : Nat := 0
  dropped : Nat := 0
  delivered : Nat := 0
  acc : Word := 0
  stop : Option Nat := none
  deriving DecidableEq, Repr

/-- A contribution in flight (R370). -/
structure RstoOp where
  dst : Word
  src : Word
  handle : Word
  count : Nat
  segs : List Seg
  data : List Byte := []
  read : Bool := false
  arrived : Bool := false
  result : Option (List Byte) := none
  stop : Option Nat := none
  deriving DecidableEq, Repr

/-- A ready-queue entry or record (R107): a launch block or an eviction record, its handle, budgets, priority and state. `age` is
the core's commit count since which its ageing counts, `st` is 1 for an entry that a core has refused (R111), `die` the die of an
eviction, and `met` the tick since which its start witness is satisfied (R109). -/
structure QEntry where
  id : Nat
  lb : LaunchBlk
  ifc : Nat
  tseq : Nat
  evict : Bool
  pend : Bool
  rtick : Nat
  prio : Nat
  age : Nat
  bi : Nat
  bm : Nat
  topped : Bool := false
  st : Nat := 0
  refuse : Nat := 0
  die : Nat := 0
  met : Option Nat := none
  deriving DecidableEq, Repr

/-- The kinds of operation in flight. -/
inductive OpKind where
  | store (o : StoreOp)
  | atomic (o : AtomicOp)
  | wb (pa : Nat)
  | copy (o : CopyOp)
  | mcst (o : McstOp)
  | l2range (k : Nat) (va : Word) (len pos : Nat)
  | join (e g die : Nat)
  | gld (o : GldOp)
  | barv (cid ifc tseq breg : Nat) (w : Word)
  | m (o : MOp)
  | mscl (e : Nat) (va : Word) (segs : List Seg) (due : Nat) (data : List Byte)
  | notice (n : Notice)
  | answer (core slot gen idx : Nat)
  | pull (p : PullOp)
  | retention (core slot : Nat)
  | fst (o : FstOp)
  | rsto (o : RstoOp)
  | tkget (part port tmo : Nat)
  | tkwait (part port num : Nat)
  | tkdone (part port num : Nat)
  | rslot (desc : BitVec 512)
  | xinv (gen : Nat) (far : Bool)
  | enqueue (e : QEntry) (core : Nat)
  | topup (ifc tseq : Nat) (bi bm : Nat)
  | walkWit (station eng tgt tile : Nat)
  | snap (ifc : Nat)
  | drain (lock : Bool)
  | rload (core line lo n : Nat) (pref : Bool)
  deriving DecidableEq, Repr

/-- An operation in flight. `win` is the merge of its witness inputs, `wo` its output register, `pages` the physical pages
behind its owner's local window when it started, `tick` the tick at which its engine began it; `held` marks an M operation held by
an engine fault (R237). -/
structure Op where
  id : Nat
  own : Owner
  win : Word := 0
  wo : Option Nat := none
  pages : List Nat := []
  tick : Nat := 0
  held : Bool := false
  kind : OpKind
  deriving DecidableEq, Repr

/-- A Chive message in transit (R343): the operation it carries, its ends, sequence number, tick sent and resends. -/
structure Chive where
  id : Nat
  op : Nat
  src : Nat
  dst : Nat
  seq : Nat
  sent : Nat
  resends : Nat := 0
  arrived : Bool := false
  deriving DecidableEq, Repr

/-- An L1 line (R268–R270): its line number, fill tick and the sectors it holds; the list order is by use, newest first. `bad` tells that its
parity fails (R444). -/
structure L1Line where
  line : Nat
  glob : Bool := false
  tick : Nat
  secs : List (Nat × List Byte)
  bad : Bool := false
  deriving DecidableEq, Repr

/-- A cached translation (R402): interface, virtual page base, size, leaf entry and generation; newest use first. `bad` tells that its parity
fails (R444). -/
structure Xlat where
  ifc : Nat
  va : Nat
  size : Nat
  pte : Word
  gen : Nat
  bad : Bool := false
  deriving DecidableEq, Repr

/-- A copy channel (R254, R258). -/
structure Chan where
  run : Option Nat := none
  own : Option Owner := none
  wp : Nat := 0
  deriving DecidableEq, Repr

/-- A retention slot (R320). -/
structure RetSlot where
  holder : Option Owner := none
  gen : BitVec 8 := 0
  count : Nat := 0
  out : BitVec 8 := 0
  pages : List Nat := []
  phys : List Nat := []
  deadline : Nat := 0
  tmo : Nat := 50
  addr : Word := 0
  wit : Option Nat := none
  raised : Bool := false
  deriving DecidableEq, Repr

/-- A compute core (R102, R107, R113, R166, R163, R215, R224, R237, R254, R259, R268, R320, R402, R408). `own` is the owning
interface; `vused0`, `vused1`, `accUsed` and `tdUsed` list the physical vector pages, tiles and descriptors that contexts hold, and
`gone0`, `gone1`, `goneAcc` and `goneTd` those that the repair fuses remove (R165, R166). -/
structure Core where
  own : Option Nat := none
  run : Option Nat := none
  queue : List QEntry := []
  reserved : Tbl (Option QEntry) := []
  vused0 : List Nat := []
  vused1 : List Nat := []
  accUsed : List Nat := []
  tdUsed : List Nat := []
  gone0 : List Nat := []
  gone1 : List Nat := []
  goneAcc : List Nat := []
  goneTd : List Nat := []
  chans : Tbl Chan := []
  ringCount : BitVec 32 := 0
  lastRec : Tbl (Option (BitVec 32)) := []
  ret : Tbl RetSlot := []
  l1 : List L1Line := []
  tlb : List Xlat := []
  committed : Nat := 0
  refresh0 : Nat := 0
  refresh1 : Nat := 0
  refreshAt0 : Nat := 0
  refreshAt1 : Nat := 0
  moving : Option (Option Nat) := none
  deriving DecidableEq, Repr

/-- A slot store or `mst` performed in one view and not yet in the other (R251): the sector's bytes before it, the tick at which it
performed, and the tick of the first witness after it that spans both views. -/
structure ViewWrite where
  id : Nat
  own : Owner
  sw : Bool
  addr : Nat
  tick : Nat
  old : List Byte
  joined : Option Nat := none
  deriving DecidableEq, Repr

/-- A running tile walk (R335–R339). `grants` are the counts per target, `perm` the witness inputs of permits as
(target, first tile, last tile, witness). -/
structure Walk where
  op : Nat
  own : Owner
  desc : BitVec 1024
  tgts : List (Nat × Owner)
  grants : List Nat
  perm : List (Nat × Nat × Nat × Word) := []
  tile : Nat := 0
  acc : Word := 0
  exited : Bool := false
  wits : List (Nat × Nat × Word) := []
  deriving DecidableEq, Repr

/-- A page of a task that has left, which an engine operation still uses and which waits for its refill (R246, R264, R265): its physical
page, the interface and the backing address it is read from, and whether the refill has been asked for. -/
structure Orphan where
  phys : Nat
  ifc : Nat
  va : Nat
  asked : Bool := false
  deriving DecidableEq, Repr

/-- A station (`replays` lists, by router output, the ticks of the replays of the last millisecond): port engine, scratchpad pool, translation cache and Thyme tables (R241–R249, R316, R326, R334–R342, R402, R271). -/
structure Station where
  used : List Nat := []
  defer : List Nat := []
  orphans : List Orphan := []
  cmap : Tbl Nat := []
  pace : Tbl Nat := []
  credit : Tbl Nat := []
  walks : Tbl (Option Walk) := []
  wgen : Tbl Nat := []
  tlb : List Xlat := []
  fused : Bool := false
  fusePend : Option Bool := none
  replays : Tbl (List Nat) := []
  half : List Nat := []
  chiveSeq : Tbl Nat := []
  deriving DecidableEq, Repr

/-- A line resident in its home slice (R272–R275): dirty sectors and pins; newest use first within the list. -/
structure L2Line where
  line : Nat
  valid : BitVec 4 := 0
  dirty : BitVec 4 := 0
  pins : Nat := 0
  deriving DecidableEq, Repr

/-- A hold entry of a slice (R286). -/
structure Hold where
  id : Nat
  slice : Nat
  die : Nat
  g : Nat
  q : BitVec 32
  src : Word
  spa : Nat
  len : Nat
  exp : List (Nat × Nat)
  reqs : List Nat
  trailing : Bool := false
  made : Nat
  until' : Nat
  released : Nat := 0
  mis : Bool := false
  deriving DecidableEq, Repr

/-- A group-table entry (R283, R284): members as contexts with their task and NSEQ, and the release ticks of the sequences released last
(R286). -/
structure Grp where
  ifc : Nat := 0
  allot : Bool := false
  mis : Bool := false
  ht : Nat := 0
  hseq : BitVec 32 := 0
  strag : Nat := 0
  mem : List (Nat × Nat × BitVec 32) := []
  rel : List (BitVec 32 × Nat) := []
  deriving DecidableEq, Repr

/-- A die's power accountant (R438, R439). -/
structure Die where
  budget : Nat := 0
  left : Nat := 0
  period : Nat := 0
  grp : Tbl Grp := []
  deriving DecidableEq, Repr

/-- A line that Bay has read and not yet sent to storage (R431): its global address, where it was read, and its bytes. -/
structure BayLine where
  addr : Nat
  src : Loc
  data : List Byte
  deriving DecidableEq, Repr

/-- A page that storage has not acknowledged whole (R432): its offset in the image, its bytes, and the lines still to be acknowledged. -/
structure BayPage where
  off : Nat
  data : List Byte
  left : Nat
  deriving DecidableEq, Repr

/-- An interface's snapshot (R425–R433): `st` is 0 none, 1 armed, 2 draining; `marks` holds the marked pages (virtual, physical), `shadows` the
shadowed ones with their pool page and where it lies, `todo` the pages still to drain, `out` the lines still to send, `sent` the pages not yet
acknowledged whole, `stored` those that are, with their offsets, and `held` the writes counted as having waited, each an operation and a page. -/
structure Snap where
  st : Nat := 0
  rcd : BitVec 1024 := 0
  step : Word := 0
  op : Nat := 0
  mtick : Nat := 0
  marks : List (Nat × Nat) := []
  shadows : List (Nat × Nat × List Seg) := []
  todo : List (Nat × Nat) := []
  out : List BayLine := []
  sent : List BayPage := []
  stored : List (Nat × List Byte) := []
  shad : Nat := 0
  waits : Nat := 0
  held : List (Nat × Nat) := []
  skip : Nat := 0
  await : Nat := 0
  fcode : Nat := 0
  stat : Nat := 0
  last : Nat := 0
  deriving DecidableEq, Repr

/-- A virtual interface (R397, R408–R412, R418, R425). -/
structure Ifc where
  entry : Word := 0
  handler : Word := 0
  xlat : Word := 0
  run : Bool := false
  frozen : Bool := false
  stop : Nat := 0
  hmb : Word := 0
  hrd : Word := 0
  hsc : Word := 0
  evc : Word := 0
  qci : Nat := 0
  qcm : Nat := 0
  qi : Nat := 0
  qm : Nat := 0
  polCore : Nat := 2
  polCluster : Nat := 2
  polIfc : Nat := 2
  dumpBase : Word := 0
  dumpSize : Word := 0
  dumpW : Nat := 0
  dumpA : Nat := 0
  dumpLost : Nat := 0
  evb : Word := 0
  tseq : Nat := 0
  sh : Nat := 0
  ftag : Option Nat := none
  step : Word := 0
  snap : Snap := {}
  heldEntry : Option Word := none
  irq : Nat := 0
  tkillChain : List ChainEnt := []
  deriving DecidableEq, Repr

/-- A request or marker in a send queue or in flight (R350, R357). `kind` 0 request, 1 close marker, 2 drain marker, 3 reply,
5 ticket message, 6 reduction message (its `part` is 4,096 + its switch), 7 notice, answer or acceptance (`piece` 1), 8 link-down flit,
9 the resend of `piece` flits of a retry buffer, 10 an `fmst` copy toward the switches, for the parts of `dests` (its `part` is 8,192). `line` is the line whose hash picks its path (R349), `departed` the tick from which its timer runs, `ran` the
ticks it counted before (R357, R459). -/
structure FSend where
  id : Nat
  op : Nat
  piece : Nat
  kind : Nat
  port : Nat
  link : Nat
  part : Nat
  window : Nat := 0
  req : FabReq := {}
  line : Nat := 0
  departed : Option Nat := none
  ran : Nat := 0
  resent : Nat := 0
  held : Bool := false
  rep : Option FabReply := none
  dests : List Nat := []
  deriving DecidableEq, Repr

/-- A reply-cache entry (R358). -/
structure Cached where
  src : Nat
  port : Nat
  seq : Nat
  reply : FabReply
  tick : Nat
  deriving DecidableEq, Repr

/-- A ticket (R363): issued, then called at a tick. -/
structure Ticket where
  num : Nat
  tmo : Nat
  called : Option Nat := none
  waiters : List Nat := []
  deriving DecidableEq, Repr

/-- An optical port (R345–R364). `sw` is the NZB-W1 switch that a switched port attaches to (R345, R368; log entry 21); `replays` lists,
by link, the ticks of the replays of the last millisecond, and `retry` the last 512 flits sent, as (message, flit). `slotAllow` is the
allowance in bytes of the queue of the slot in progress, 0 for no limit, and `sentSlot` what it has sent of it (R352, R463). `notices` is its notice
table (R367). -/
structure FPort where
  circuit : Bool := false
  sw : Nat := 0
  t0 : Word := 0
  sched : Tbl Word := []
  linkUp : BitVec 4 := 15
  peerDown : List Nat := []
  replays : Tbl (List Nat) := []
  retry : Tbl (List (Nat × Nat)) := []
  sentSlot : Nat := 0
  slotAllow : Nat := 0
  sentPeer : Option Nat := none
  slot : Option Nat := none
  dark : Bool := true
  notices : List Nat := []
  cache : List Cached := []
  floor : List (Nat × Nat × Nat) := []
  tickets : List Ticket := []
  skipped : List Nat := []
  nextTk : Nat := 0
  callmax : Nat := 4
  seqOut : Tbl Nat := []
  tlb : List Xlat := []
  credit : Tbl Nat := []
  deriving DecidableEq, Repr

/-- A reduction slot of a switch (R368–R372). -/
structure RedSlot where
  busy : Bool := false
  gen : BitVec 8 := 0
  desc : BitVec 512 := 0
  from' : Nat := 0
  contrib : List (Nat × Nat × List Byte) := []
  due : Nat := 0
  deriving DecidableEq, Repr

/-- The fabric side of the part (R347–R365). `staged` are the FOWN items staged between `fdrain` and relock. -/
structure Fabric where
  part : Nat := 0
  members : List Nat := []
  group : Nat := 0
  nextGroup : Option Nat := none
  fown : Option Nat := none
  drain : Nat := 0
  locked : Bool := false
  drainWit : Option Nat := none
  route : Tbl (BitVec 32) := []
  window : Nat := 16000
  windowN : Nat := 0
  staged : List (Nat × Nat × Word) := []
  ports : Tbl FPort := []
  sends : List FSend := []
  closed : Tbl Nat := []
  drained : List Nat := []
  drainStand : Tbl Nat := []
  red : Tbl RedSlot := []
  out : List FSend := []
  asyncLost : Nat := 0
  deriving DecidableEq, Repr

/-- SPDM responder state (R443). -/
structure Spdm where
  st : Nat := 0
  reply : List Byte := []
  session : Bool := false
  deriving DecidableEq, Repr

/-- The platform (R437–R446). The fuses hold `root`, the SHA-512 digest of the root public key, the identity key pair (modulus and private
exponent) and the anti-rollback counter; `envelope` starts at 4,800 W under every ordering code, where R437 gives the start to M alone
(DESIGN CHOICE, log entry 112); `image` is the firmware image that the boot ROM finds, `imageOk` and `imageDigest` what it made of it. `envNext` holds the envelopes asked for, each with the time of its request, oldest first.
`dillAt` is the time of the last commit of the records, `dillTick` its tick. `boot` is 0 after reset, 1 firmware running, 2 recovery, 3 accepting starts. Dill counters are
keyed by record class · 2^20 + unit, histogram bins by class · 2^20 + unit · 16 + bin. -/
structure Platform where
  boot : Nat := 0
  bootAt : Nat := 0
  root : List Byte := []
  idMod : Nat := 0
  idExp : Nat := 0
  image : List Byte := []
  imageOk : Bool := false
  antiRoll : Nat := 0
  imageDigest : List Byte := []
  clusters : Nat := 0
  arrays : Bool := false
  arraysAt : Nat := 0
  eighths : Nat := 1
  envelope : Nat := 4800
  envNext : List (Nat × Nat) := []
  spdm : Spdm := {}
  dill : Tbl Nat := []
  dillNv : Tbl Nat := []
  dillTick : Nat := 0
  dillAt : Nat := 0
  dillOut : List Byte := []
  ddr : Bool := true
  ddrSize : List Nat := []
  tempAt : Nat := 0
  deriving DecidableEq, Repr

end Sys2Proof.Machine
end

