-- ==== Sys2Proof/Machine/State.lean ====
section
/-! DEFINITION. The state of one Silerori part, its reset, and the reasons a step can stop. -/
namespace Sys2Proof.Machine

/-- Why the machine stops with a fault. No meaning raises one: every fault of the manual is an exception whose entry the
manual describes (R374–R385), so the machine goes on. The one constructor exists because the type must be inhabited by name;
stopping would be safe. -/
inductive Fault where
  /-- Raised by nothing. Safe. -/
  | unreachable
  deriving DecidableEq, Repr

/-- Why a step is refused. -/
inductive Refusal where
  /-- Raised by an arm of `exec` whose instruction has no meaning yet. Safe: the machine stops where the part goes on. -/
  | notModelled (mnemonic : String)
  deriving DecidableEq, Repr

/-- An effect that a bundle holds until it commits (R58, R59). -/
inductive Eff where
  | land (l : Landing)
  | wset (r : Nat) (v : Word)
  | start (o : Op)
  | cont (a : Word)
  | flags (reg : Nat) (m : Word)
  | w1c (reg : Nat) (m : Word)
  | bari (b n : Nat)
  | barl (b : Nat) (w : Word)
  | viol (a : Word)
  | rearm (b : Nat)
  | retOr (m : BitVec 32)
  | retAnd (m : BitVec 32)
  | gens (file : Bool) (g : List (Nat × BitVec 16))
  | port (file : Bool) (p : Nat) (v : Port)
  | jump (a : Word)
  | exit (succ : List LaunchBlk)
  | tret
  | tkill (cause : Nat)
  | swtrap (cause : Nat)
  | wall (r : Nat) (cp : Bool)
  | gleave (e d : Nat)
  | lm (or : Bool) (m : BitVec 32)
  | mbox (a : Word)
  | limits (dl mo : Nat)
  | cmap (v : Nat)
  | pace (v : Nat)
  | decl (d : Nat) (file : Bool) (tag : BitVec 32)
  | rtset (d : Nat) (file : Bool) (slot v : Nat)
  | rtrel (d : Nat) (file : Bool) (slot : Nat)
  | item (n : Nat) (a b : Word)
  | hsig (a b : Word)
  | xinv (d : Nat) (a len : Nat) (o : Op)
  | fdrain (lock : Bool) (next : BitVec 32) (r : Nat)
  | snapAt (rcd : BitVec 1024) (step : Word) (o : Op)
  | snapStep (r : Nat) (w : Word)
  | snapDis
  | shadow (drain : Bool) (va : Word) (r : Option Nat)
  | invLine (pa : Nat) (glob : Bool)
  | pub (rcd : BitVec 1024) (addr : Word) (slot : Nat) (tag : BitVec 32) (win : Word) (segs : List Seg) (r : Option Nat)
  | walk (desc : BitVec 1024) (tgts : List (Nat × Owner)) (file : Bool) (d : Nat) (o : Op)
  | permit (h b : Word) (win : Word) (r : Option Nat)
  | launch (e : QEntry)
  | gld (o : Op)
  | vjoin (w : Word)
  | rearmT (d : Nat)
  deriving DecidableEq, Repr

/-- The commit buffer of the dynamic bundle that a core issues (R57–R59): the bundle, the slot now executing with its sticky
index, the effects held, the faults found per slot, whether a slot stalls, the charges, the sectors to mark (R275) and the vector
files whose errors count (R168) if a fault is taken, and the page refills and the sectors of remote lines, with their witness, that a
stalled slot asks for (R246, R268). -/
structure Issue where
  on : Bool := false
  cid : Nat := 0
  pc : Word := 0
  len : Nat := 0
  rep : Nat := 0
  repN : Nat := 0
  stop : Bool := false
  yield : Bool := false
  wk : Nat := 0
  wr : Nat := 0
  sync : BitVec 6 := 0
  bimm : BitVec 32 := 0
  immv : Bool := false
  cur : Slot := .s
  j : Nat := 0
  todo : List (Slot × Nat × Instr) := []
  sticky : Tbl Sticky := []
  grp : Option GrpEnt := none
  effs : List Eff := []
  flts : List (Slot × Flt) := []
  hdr : Option Flt := none
  viol : Option Word := none
  stall : Bool := false
  idle : Bool := false
  ci : Nat := 0
  cm : Nat := 0
  marks : List Seg := []
  soft : List Nat := []
  fills : List Nat := []
  lines : List (Nat × Nat × Nat × Word) := []
  deriving DecidableEq, Repr

/-- What a step of an engine or an outside agent acts on; each such constructor of `Instr` says which fields it reads. -/
structure EvArg where
  a : Nat := 0
  b : Nat := 0
  c : Nat := 0
  d : Nat := 0
  flag : Bool := false
  word : Word := 0
  list : List Nat := []
  req : FabReq := {}
  reply : FabReply := {}
  deriving DecidableEq, Repr

/-- One turn of the part: after `dt` ticks, the step `ev` happens on what `arg` names. -/
structure Turn where
  dt : Nat
  ev : Instr
  arg : EvArg := {}
  deriving DecidableEq, Repr

/-- The state of the part. -/
structure State where
  now : Nat
  tickBase : Nat
  agenda : List Turn
  arg : EvArg
  rr : Nat
  nextId : Nat
  fresh : Nat
  iss : Issue
  ctxs : Tbl Ctx
  cores : Tbl Core
  stations : Tbl Station
  dies : Tbl Die
  ifcs : Tbl Ifc
  ops : List Op
  chive : List Chive
  mem : List Host.Cell
  spad : List Host.Cell
  ringMem : List Host.Cell
  hostMem : List Host.Cell
  poison : List Nat
  ue : List Nat
  ce : List Nat
  spPoison : List Nat
  spUe : List Nat
  spCe : List Nat
  l2 : List L2Line
  holds : List Hold
  views : List ViewWrite
  thyme : Tbl (BitVec 32)
  thymeStaged : List (Nat × BitVec 32)
  thymeAt : Tbl Nat
  heldQ : List QEntry
  gone : Tbl Ctx
  fab : Fabric
  plat : Platform
  deriving DecidableEq, Repr

/-- The part right after reset (R8, R440, R442): nothing admitted, memory with nothing listed, every register at the value
the manual gives or, where it gives none, at the value of log entries 2 to 8. -/
def State.reset : State where
  now := 0
  tickBase := 0
  agenda := []
  arg := {}
  rr := 0
  nextId := 1
  fresh := 0
  iss := {}
  ctxs := []
  cores := []
  stations := []
  dies := []
  ifcs := []
  ops := []
  chive := []
  mem := []
  spad := []
  ringMem := []
  hostMem := []
  poison := []
  ue := []
  ce := []
  spPoison := []
  spUe := []
  spCe := []
  l2 := []
  holds := []
  views := []
  thyme := []
  thymeStaged := []
  thymeAt := []
  heldQ := []
  gone := []
  fab := {}
  plat := { ddrSize := [256, 256, 256, 256, 256, 256, 256, 256] }

end Sys2Proof.Machine
end

