-- ==== Sys2Proof/Machine/Table.lean ====
section
/-! DEFINITION. Tables indexed by numbers, byte memories in canonical form, and bit fields. -/
namespace Sys2Proof.Machine

/-- The entry at `k`, or the default. -/
def tget {α : Type} (d : α) (t : Tbl α) (k : Nat) : α :=
  match t.find? (·.1 == k) with
  | some p => p.2
  | none => d

/-- The table with `v` at `k`. -/
def tput {α : Type} (t : Tbl α) (k : Nat) (v : α) : Tbl α :=
  t.filter (fun p => decide (p.1 < k)) ++ (k, v) :: t.filter (fun p => decide (k < p.1))

/-- The table with the default at `k`. -/
def tdel {α : Type} (t : Tbl α) (k : Nat) : Tbl α := t.filter (fun p => p.1 != k)

/-- The byte at an address; a byte that nothing has written reads 0 (log entry 4). -/
def memGet (m : List Host.Cell) (a : Nat) : Byte := tget 0 m a

/-- The listed cells of a run of bytes from `a`: those not zero. -/
def cellsOf : (a : Nat) → (bs : List Byte) → List Host.Cell
  | _, [] => []
  | a, b :: bs => if b = 0 then cellsOf (a + 1) bs else (a, b) :: cellsOf (a + 1) bs

/-- Memory with the bytes at `a` and after replaced. -/
def memPut (m : List Host.Cell) (a : Nat) (bs : List Byte) : List Host.Cell :=
  m.filter (fun p => decide (p.1 < a)) ++ cellsOf a bs ++ m.filter (fun p => decide (a + bs.length ≤ p.1))

/-- `n` bytes from `a`. -/
def memRead (m : List Host.Cell) (a n : Nat) : List Byte :=
  let w := m.filter (fun p => decide (a ≤ p.1) && decide (p.1 < a + n))
  (List.range n).map fun i => memGet w (a + i)

/-- Addresses strictly rising from `lo`, and no entry of zero. -/
def memOk : (lo : Nat) → (m : List Host.Cell) → Bool
  | _, [] => true
  | lo, (a, b) :: m => decide (lo ≤ a) && b != 0 && memOk (a + 1) m

/-- The canonical form of a memory. -/
def memWf (m : List Host.Cell) : Bool := memOk 0 m

/-- Little-endian bytes as a number (R5). -/
def leNat : List Byte → Nat
  | [] => 0
  | b :: bs => b.toNat + 256 * leNat bs

/-- The `n` little-endian bytes of a number (R5). -/
def leBytes : (n : Nat) → (x : Nat) → List Byte
  | 0, _ => []
  | n + 1, x => BitVec.ofNat 8 x :: leBytes n (x / 256)

/-- Bits [hi:lo] of a number. -/
def fld (x : Nat) (hi lo : Nat) : Nat := x / 2 ^ lo % 2 ^ (hi + 1 - lo)

/-- A word from a number. -/
abbrev wd (x : Nat) : Word := BitVec.ofNat 64 x

/-- Zero extension of an index. -/
abbrev WFi (f : WF) : Option Nat := f.map BitVec.toNat

/-- Sectors that a byte range touches (R117). -/
def sectors (a n : Nat) : Nat := if n = 0 then 0 else (a + n - 1) / 64 - a / 64 + 1

/-- Consecutive numbers. -/
def upto (a n : Nat) : List Nat := (List.range n).map (a + ·)

/-- A list cut into pieces of `k`. -/
def chunksOf {α : Type} (k : Nat) : (fuel : Nat) → List α → List (List α)
  | 0, _ => []
  | _, [] => []
  | f + 1, l => l.take k :: chunksOf k f (l.drop k)

end Sys2Proof.Machine
end

