-- ==== Sys2Proof/Machine/Access.lean ====
section
/-! DEFINITION. Access to the parts of the state, device time, and witnesses (R24, R102, R292–R300). -/
namespace Sys2Proof.Machine

/-- The core of a context: 0–1023 compute, 1024–1039 stream (R14, R22). -/
def coreOf (cid : Nat) : Nat := if cid < 8192 then cid / 8 else 1024 + (cid - 8192) / 4

/-- A stream-core context (R22). -/
def isStream (cid : Nat) : Bool := decide (8192 ≤ cid)

/-- The number of a context within its core. -/
def ctxNo (cid : Nat) : Nat := if cid < 8192 then cid % 8 else (cid - 8192) % 4

/-- The station of a core (R14); the stream cores share number 256. -/
def stationOf (core : Nat) : Nat := core / 4

/-- The die of a core (R14). -/
def dieOf (core : Nat) : Nat := core / 256

/-- A context. -/
def State.ctx (s : State) (cid : Nat) : Ctx := tget {} s.ctxs cid
/-- The state with a context replaced. -/
def State.setCtx (s : State) (cid : Nat) (c : Ctx) : State := { s with ctxs := tput s.ctxs cid c }
/-- The state with a context changed. -/
def State.modCtx (s : State) (cid : Nat) (f : Ctx → Ctx) : State := s.setCtx cid (f (s.ctx cid))

/-- A core. -/
def State.core (s : State) (c : Nat) : Core := tget {} s.cores c
/-- The state with a core replaced. -/
def State.setCore (s : State) (n : Nat) (c : Core) : State := { s with cores := tput s.cores n c }
/-- The state with a core changed. -/
def State.modCore (s : State) (n : Nat) (f : Core → Core) : State := s.setCore n (f (s.core n))

/-- `core.cap` (R166): what the repair fuses leave of each pool. -/
def Core.cap (k : Core) : Word :=
  wd (64 * (32 - k.gone0.length) + 64 * (32 - k.gone1.length) * 2 ^ 12 + (16 - k.goneAcc.length) * 2 ^ 24 +
    (128 - k.goneTd.length) * 2 ^ 32)

/-- A station. -/
def State.stn (s : State) (n : Nat) : Station := tget {} s.stations n
/-- The state with a station replaced. -/
def State.setStn (s : State) (n : Nat) (x : Station) : State := { s with stations := tput s.stations n x }
/-- The state with a station changed. -/
def State.modStn (s : State) (n : Nat) (f : Station → Station) : State := s.setStn n (f (s.stn n))

/-- A die. -/
def State.die (s : State) (n : Nat) : Die := tget {} s.dies n
/-- The state with a die replaced. -/
def State.setDie (s : State) (n : Nat) (x : Die) : State := { s with dies := tput s.dies n x }
/-- The state with a die changed. -/
def State.modDie (s : State) (n : Nat) (f : Die → Die) : State := s.setDie n (f (s.die n))

/-- An interface. -/
def State.ifc (s : State) (n : Nat) : Ifc := tget {} s.ifcs n
/-- The state with an interface replaced. -/
def State.setIfc (s : State) (n : Nat) (x : Ifc) : State := { s with ifcs := tput s.ifcs n x }
/-- The state with an interface changed. -/
def State.modIfc (s : State) (n : Nat) (f : Ifc → Ifc) : State := s.setIfc n (f (s.ifc n))

/-- An optical port. -/
def State.port (s : State) (n : Nat) : FPort := tget {} s.fab.ports n
/-- The state with an optical port changed. -/
def State.modPort (s : State) (n : Nat) (f : FPort → FPort) : State :=
  { s with fab := { s.fab with ports := tput s.fab.ports n (f (s.port n)) } }

/-- The state with the fabric state changed. -/
def State.modFab (s : State) (f : Fabric → Fabric) : State := { s with fab := f s.fab }

/-- The state with the platform state changed. -/
def State.modPlat (s : State) (f : Platform → Platform) : State := { s with plat := f s.plat }

/-- The state with the issue buffer changed. -/
def State.modIss (s : State) (f : Issue → Issue) : State := { s with iss := f s.iss }

/-- `sys.tick` (R24, R150). -/
def State.tick (s : State) : Nat := (s.now + s.tickBase) % 2 ^ 60

/-- Core cycles since reset: 9 cycles in 20 ticks (R6, R24). -/
def State.cycle (s : State) : Nat := s.now * 9 / 20

/-- A tick that has passed lies in the present cycle. -/
def State.inCycle (s : State) (t : Nat) : Bool := (s.now - (s.tick - t)) * 9 / 20 == s.cycle

/-- The file of a vector slot. -/
def Ctx.vf (c : Ctx) (file : Bool) : VFile := if file then c.v1 else c.v0

/-- A context with one vector file changed. -/
def Ctx.modVf (c : Ctx) (file : Bool) (f : VFile → VFile) : Ctx :=
  if file then { c with v1 := f c.v1 } else { c with v0 := f c.v0 }

/-- Parity fails in some byte of a register (R168). -/
def VFile.badReg (v : VFile) (r : Nat) : Bool := tget 0 v.bad r != 0

/-- The station of a context. -/
def cidStation (cid : Nat) : Nat := stationOf (coreOf cid)

/-- The station at which the messages of a context enter the mesh: its own, or for a stream core one of the eight to which the I/O die is
bridged (R15; log entry 118). -/
def meshStation (cid : Nat) : Nat :=
  if isStream cid then
    let j := (coreOf cid - 1024) / 2
    if j < 4 then 64 * 2 + 8 * 7 + 4 + j else 64 * 3 + 8 * 7 + (j - 4)
  else cidStation cid

/-- The scope of a witness (R292). -/
def wScope (w : Word) : Nat := fld w.toNat 63 62
/-- The poison bit (R292). -/
def wPsn (w : Word) : Bool := w.getLsbD 61
/-- The windowed bit, read under R293. -/
def wWin (w : Word) : Bool := w.getLsbD 60 && wScope w == 3
/-- The tick (R292). -/
def wTick (w : Word) : Nat := fld w.toNat 59 0
/-- A null witness (R293). -/
def wNull (w : Word) : Bool := wScope w == 0

/-- A witness value (R292). -/
def mkWit (scope : Nat) (psn win : Bool) (tick : Nat) : Word :=
  wd (scope * 2 ^ 62 + (if psn then 2 ^ 61 else 0) + (if win then 2 ^ 60 else 0) + tick % 2 ^ 60)

/-- A value as a witness register stores it (R293). -/
def wNorm (w : Word) : Word := if wNull w then 0 else mkWit (wScope w) (wPsn w) (wWin w) (wTick w)

/-- The merge of two witnesses (R294). -/
def wMerge (u v : Word) : Word :=
  if wNull u && wNull v then 0
  else if wNull u then wNorm v
  else if wNull v then wNorm u
  else mkWit (max (wScope u) (wScope v)) (wPsn u || wPsn v) (wWin u || wWin v) (max (wTick u) (wTick v))

/-- The links of a port as numbers 0–3 that are up and not announced down by the peer (R346, R355). -/
def linksUp (p : FPort) : List Nat := (List.range 4).filter fun l => p.linkUp.getLsbD l && !p.peerDown.contains l

/-- The ports of a route entry (R349). -/
def routePorts (s : State) (part : Nat) : List Nat :=
  let m := tget 0 s.fab.route part
  (List.range 32).filter fun p => m.getLsbD p

/-- The peers of the connected group. -/
def State.peers (s : State) : List Nat := s.fab.members.filter (· != s.fab.part)

/-- Whether this part holds the close markers of a peer up to a window, or a drain marker that stands in (R355, R365). -/
def peerClosed (s : State) (n : Nat) (p : Nat) : Bool :=
  decide (n < tget 0 s.fab.drainStand p) ||
  (routePorts s p).all fun q => (linksUp (s.port q)).all fun l => decide (n < tget 0 s.fab.closed (p * 128 + q * 4 + l))

/-- Markers held from every peer for a window and every earlier one (R297). -/
def markersHeld (s : State) (n : Nat) : Bool := s.peers.all (peerClosed s n)

/-- The window a windowed witness names (R296). -/
def wWindow (s : State) (w : Word) : Nat := wTick w / s.fab.window - 2

/-- A windowed witness names a window: the first two windows of device time are too early for one (R296). -/
def wNames (s : State) (w : Word) : Bool := wWin w && decide (2 ≤ wTick w / s.fab.window)

/-- Whether a witness is satisfied on this part (R297). -/
def sat (s : State) (w : Word) : Bool :=
  wNull w || (!wPsn w && decide (wTick w ≤ s.tick) && (!wNames s w || markersHeld s (wWindow s w)))

/-- Whether an access given a witness may read or perform at a home now (R298): the witness is satisfied, and its tick is over, since at one
tick writes come before reads (log entry 111). -/
def satHome (s : State) (w : Word) : Bool := wNull w || (sat s w && decide (wTick w < s.tick))

/-- The first peer whose marker is missing for a windowed witness that has waited to window N + 5 (R356). -/
def winTimedOut (s : State) (w : Word) : Option Nat :=
  if wNames s w && !wPsn w && decide ((wWindow s w + 5) * s.fab.window ≤ s.tick) then
    s.peers.find? fun p => !peerClosed s (wWindow s w) p
  else none

/-- The fault codes of R377. -/
inductive Code where
  | illenc | illop | grpdep | regrange | regexp | priv | align | swtrap | hbud | xmiss | xprot | straddle | memue | poison
  | wpoison | wintmo | grpmis | rettmo | nstale | capacity | evicted | peergone | atstale | tkexp | rlate | hang | viol
  deriving DecidableEq, Repr

/-- The number of a fault code (R377). -/
def Code.num : Code → Nat
  | .illenc => 0x01 | .illop => 0x02 | .grpdep => 0x03 | .regrange => 0x04 | .regexp => 0x05 | .priv => 0x06 | .align => 0x07
  | .swtrap => 0x08 | .hbud => 0x09 | .xmiss => 0x10 | .xprot => 0x11 | .straddle => 0x12 | .memue => 0x13 | .poison => 0x14
  | .wpoison => 0x18 | .wintmo => 0x19 | .grpmis => 0x1A | .rettmo => 0x1B | .nstale => 0x1C | .capacity => 0x20
  | .evicted => 0x21 | .peergone => 0x28 | .atstale => 0x29 | .tkexp => 0x2A | .rlate => 0x2B | .hang => 0x30 | .viol => 0x31

/-- The operation of a number. -/
def State.op? (s : State) (id : Nat) : Option Op := s.ops.find? (·.id == id)

/-- The state with an operation removed. -/
def State.dropOp (s : State) (id : Nat) : State := { s with ops := s.ops.filter (·.id != id) }

/-- The state with an operation's payload replaced. -/
def State.setOp (s : State) (id : Nat) (k : OpKind) : State :=
  { s with ops := s.ops.map fun o => if o.id == id then { o with kind := k } else o }

/-- Whether the context still holds the task that started an operation (R265). -/
def State.holds? (s : State) (o : Owner) : Bool :=
  let c := s.ctx o.cid
  c.uid == o.uid && c.st != .free

/-- A context holds the task that an owner names (R320, R325): a stream context by the start that it serves, another by interface and
task sequence, wherever the task has been restored. -/
def sameTask (cid : Nat) (c : Ctx) (o : Owner) : Bool :=
  c.st != .free && if isStream o.cid then cid == o.cid && c.uid == o.uid else !isStream cid && c.ifc == o.ifc && c.tseq == o.tseq

/-- The task of an owner stands in a context where it can take a fault (R323, R358). -/
def State.residesAt (s : State) (o : Owner) (cid : Nat) : Bool :=
  let c := s.ctx cid
  sameTask cid c o && c.st != .evicted && c.st != .frozen

/-- The context in which the task of an owner is resident, if any (R323, R358). -/
def State.residence (s : State) (o : Owner) : Option Nat :=
  if s.residesAt o o.cid then some o.cid else (s.ctxs.find? fun p => s.residesAt o p.1).map (·.1)

/-- A witness output lands: the register takes the value if this operation is its last writer (R301). -/
def State.landWit (s : State) (o : Owner) (id : Nat) (r : Option Nat) (v : Word) : State :=
  match r with
  | none => s
  | some r =>
    if s.holds? o && (tget {} (s.ctx o.cid).w r).pend == some id then
      s.modCtx o.cid fun c => { c with w := tput c.w r { val := wNorm v, pend := none } }
    else s

/-- A late result arrives: every landing entry that awaits this operation takes the value (R65). -/
def State.landLate (s : State) (o : Owner) (id : Nat) (v : VReg) : State :=
  let fix := fun (l : Landing) => if l.late == some id then { l with val := v, late := none } else l
  if s.holds? o then
    s.modCtx o.cid fun c => { c with landing := c.landing.map fix,
                                     resume := c.resume.map fun r => { r with landing := r.landing.map fix } }
  else s

/-- A store's witness joins WSTO, a copy's WCPY (R301). -/
def State.account (s : State) (o : Owner) (copy : Bool) (v : Word) : State :=
  if s.holds? o then
    s.modCtx o.cid fun c => if copy then { c with wcpy := wMerge c.wcpy v } else { c with wsto := wMerge c.wsto v }
  else s

/-- A lifetime counter counts up, saturating (R445): keyed by record class and unit. The classes are 0 and 1 corrected and
uncorrectable errors of an L2 slice, 2 and 3 of a scratchpad, 4 and 5 of a vector file, 6 and 7 of an HBM stack, 8 and 9 of a DDR
channel, 10 to 12 replays, half width and down of a link, 13 Chive messages lost, 14 stragglers, 15 retention timeouts,
16 tickets skipped, 17 temperatures, 18 supply droops. -/
def dillAdd (s : State) (cls unit : Nat) : State :=
  s.modPlat fun p =>
    let k := cls * 2 ^ 20 + unit
    { p with dill := tput p.dill k (min (tget 0 p.dill k + 1) (2 ^ 64 - 1)) }

end Sys2Proof.Machine
end

