-- ==== Sys2Proof/Machine/Mem.lean ====
section
/-! DEFINITION. Address kinds, translation, the range checks, the homes, L1 and L2, and the scratchpad (R241–R253, R267–R276,
R347, R395–R404). -/
namespace Sys2Proof.Machine

/-! ### Address kinds and translation -/

/-- The kinds of R395 and R242: 0 translated, 1 invalid, 2 local window, 3 hole, 4 ring window, 5 invalid, 6 global. -/
def kindOf (a : Nat) : Nat :=
  if a < 0x0001000000000000 then 0
  else if a < 0x7F00000000000000 then 1
  else if a < 0x7F00000000200000 then 2
  else if a < 0x7F00000004000000 then 3
  else if a < 0x7F00000004001000 then 4
  else if a < 0x8000000000000000 then 5
  else 6

/-- The local window's base (R242). -/
def localBase : Nat := 0x7F00000000000000
/-- The ring window's base (R242). -/
def ringBase : Nat := 0x7F00000004000000

/-- The 45-bit physical address of a tier and a tier address (R396). -/
def paOf (tier t : Nat) : Nat := tier * 2 ^ 44 + t

/-- Whether `n` bytes at a tier address lie in the tier's valid range (R2, R396). -/
def tierOk (s : State) (tier t n : Nat) : Bool :=
  if tier = 0 then decide (t + n ≤ 768 * 2 ^ 30)
  else if tier = 1 then
    s.plat.ddr && decide (t + n ≤ 2 ^ 41) && decide (t % 2 ^ 38 + n ≤ s.plat.ddrSize.getD (t / 2 ^ 38) 0 * 2 ^ 30)
  else false

/-- The sector of a physical address is marked with an uncorrectable error or poison (R275). -/
def secFault (s : State) (pa : Nat) : Option Code :=
  if s.ue.contains (pa / 64) then some .memue else if s.poison.contains (pa / 64) then some .poison else none

/-- A 64-bit word of device memory. -/
def memWord (s : State) (pa : Nat) : Nat := leNat (memRead s.mem pa 8)

/-- A page-table entry's validity at a level (R396, R398, R399): reserved bits, tier, range, alignment and leaf level. -/
def pteOk (s : State) (lvl e : Nat) : Bool :=
  let leaf := fld e 62 62 = 1
  let tier := fld e 49 48
  let t := fld e 47 8 * 256
  let size := if lvl = 2 then 2 ^ 30 else if lvl = 1 then 2 ^ 21 else 2 ^ 16
  fld e 57 50 = 0 && fld e 7 0 = 0 &&
  (if leaf then lvl != 3 && t % size = 0 && tierOk s tier t size
   else lvl != 0 && fld e 61 58 = 0 && t % (if lvl = 1 then 256 else 4096) = 0 &&
        tierOk s tier t (if lvl = 1 then 256 else 4096))

/-- The index of a virtual address at a level (R398). -/
def ptIndex (va lvl : Nat) : Nat :=
  match lvl with
  | 3 => fld va 47 39
  | 2 => fld va 38 30
  | 1 => fld va 29 21
  | _ => fld va 20 16

/-- The bytes that a leaf at a level maps (R398). -/
def pageSize (lvl : Nat) : Nat := if lvl = 2 then 2 ^ 30 else if lvl = 1 then 2 ^ 21 else 2 ^ 16

/-- The walk from a table at a level (R400): the leaf and its level. -/
def walkFrom (s : State) (va : Nat) : (lvl : Nat) → (tab : Nat) → Except Code (Nat × Nat)
  | 0, tab => step 0 tab (fun _ => .error .xprot)
  | 1, tab => step 1 tab (walkFrom s va 0)
  | 2, tab => step 2 tab (walkFrom s va 1)
  | _ + 3, tab => step 3 tab (walkFrom s va 2)
where
  step (lvl tab : Nat) (next : Nat → Except Code (Nat × Nat)) : Except Code (Nat × Nat) :=
    let a := tab + 8 * ptIndex va lvl
    match secFault s a with
    | some c => .error c
    | none =>
      let e := memWord s a
      if fld e 63 63 = 0 then .error .xmiss
      else if !pteOk s lvl e then .error .xprot
      else if fld e 62 62 = 1 then .ok (e, lvl)
      else next (paOf (fld e 49 48) (fld e 47 8 * 256))

/-- A whole walk under an interface's translation word (R397, R400). -/
def walk (s : State) (ifc va : Nat) : Except Code (Nat × Nat) :=
  let r := (s.ifc ifc).xlat.toNat
  let t := fld r 47 12 * 4096
  if fld r 0 0 = 0 then .error .xmiss
  else if !tierOk s (fld r 11 10) t 4096 then .error .xprot
  else walkFrom s va 3 (paOf (fld r 11 10) t)

/-- The generation of an interface's translation word (R397). -/
def xlatGen (s : State) (ifc : Nat) : Nat := fld (s.ifc ifc).xlat.toNat 63 48

/-- On whose behalf an access is made: its core, its interface and the physical pages behind its local window; `eng` marks the port engine
of the core's station, which has the station's translation cache alone (R402). -/
structure Who where
  core : Nat
  ifc : Nat
  pages : List Nat
  eng : Bool := false
  deriving DecidableEq, Repr

/-- A context's own accesses. -/
def State.who (s : State) (cid : Nat) : Who := { core := coreOf cid, ifc := (s.ctx cid).ifc, pages := (s.ctx cid).pages.map (·.phys) }

/-- An operation's accesses: the pages are those its owner held when it started (R265). -/
def Op.who (o : Op) : Who := { core := coreOf o.own.cid, ifc := o.own.ifc, pages := o.pages }

/-- The accesses of the port engine that serves a core (R402). -/
def portWho (core ifc : Nat) : Who := { core := core, ifc := ifc, pages := [], eng := true }

/-- A translation cache's entry for an address (R402); one whose parity fails is no entry (R444). -/
def tlbHit (t : List Xlat) (ifc va : Nat) : Option Xlat :=
  t.find? fun x => !x.bad && x.ifc == ifc && decide (x.va ≤ va) && decide (va < x.va + x.size)

/-- The core cache's entry for an access, which a port engine has none of (R402). -/
def coreHit (s : State) (w : Who) (va : Nat) : Option Xlat := if w.eng then none else tlbHit (s.core w.core).tlb w.ifc va

/-- The entry that an access finds in the caches: its core's, else its station's (R402). -/
def cachedXlat (s : State) (w : Who) (va : Nat) : Option Xlat :=
  match coreHit s w va with
  | some x => some x
  | none => tlbHit (s.stn (stationOf w.core)).tlb w.ifc va

/-- The translation an access uses: a cached one, or that of a walk (R402). -/
def pteOf (s : State) (w : Who) (va : Nat) : Except Code Xlat :=
  match cachedXlat s w va with
  | some x => .ok x
  | none =>
    match walk s w.ifc va with
    | .ok (e, lvl) =>
      .ok { ifc := w.ifc, va := va / pageSize lvl * pageSize lvl, size := pageSize lvl, pte := wd e, gen := xlatGen s w.ifc }
    | .error c => .error c

/-- The entries that a walk reads from a table on, down to the one that ends it (R400); `n` is the table's level and one more. -/
def walkPath (s : State) (va : Nat) : (n : Nat) → (tab : Nat) → List Nat
  | 0, _ => []
  | n + 1, tab =>
    let a := tab + 8 * ptIndex va n
    let e := memWord s a
    if (secFault s a).isSome || fld e 63 63 == 0 || !pteOk s n e || fld e 62 62 == 1 then [a]
    else a :: walkPath s va n (paOf (fld e 49 48) (fld e 47 8 * 256))

/-- The entries that an access's translation reads (R400, R402): none where a cache has it. -/
def walkSegs (s : State) (w : Who) (va : Nat) : List Seg :=
  let r := (s.ifc w.ifc).xlat.toNat
  let t := fld r 47 12 * 4096
  if (cachedXlat s w va).isSome || fld r 0 0 == 0 || !tierOk s (fld r 11 10) t 4096 then []
  else (walkPath s va 4 (paOf (fld r 11 10) t)).map fun a => ⟨.dev a, 8⟩

/-- The sector of the entry at which a walk meets an uncorrectable error (R275, R400). -/
def walkBad (s : State) (w : Who) (va : Nat) : List Seg :=
  (walkSegs s w va).filter fun g => match g.loc with
    | .dev a => s.ue.contains (a / 64)
    | _ => false

/-- An entry put first in a cache of `n` entries, least recently used out (R402); entries whose parity fails go (R444). -/
def tlbPut (n : Nat) (t : List Xlat) (x : Xlat) : List Xlat :=
  (x :: t.filter fun y => !y.bad && !(y.ifc == x.ifc && y.va == x.va && y.size == x.size)).take n

/-- The caches after an access used a translation (R402): a hit in the core cache leaves the station's as it is. -/
def installXlat (s : State) (w : Who) (x : Xlat) : State :=
  let hit := (coreHit s w x.va).isSome
  let s := if w.eng then s else s.modCore w.core fun c => { c with tlb := tlbPut 64 c.tlb x }
  if hit then s else s.modStn (stationOf w.core) fun t => { t with tlb := tlbPut 1024 t.tlb x }

/-- The physical address an entry gives (R399). -/
def Xlat.pa (x : Xlat) (va : Nat) : Nat := paOf (fld x.pte.toNat 49 48) (fld x.pte.toNat 47 8 * 256 + (va - x.va))

/-- What an access does and where it may go (R242, R243, R401). -/
structure Acc where
  wr : Bool := false
  fetch : Bool := false
  ring : Bool := false
  glob : Bool := false
  loc : Bool := true
  dev : Bool := true
  deriving DecidableEq, Repr

/-- The physical offset of a page offset in a view (R250). -/
def viewOff (sw : Bool) (o : Nat) : Nat :=
  if sw then o / 256 * 256 + 8 * ((o % 256 / 8 + o / 256) % 32) + o % 8 else o

/-- The translated pieces of a range, page by page of 64 KiB (R401); `n` bounds the pieces. -/
def devSegs (s : State) (w : Who) (acc : Acc) : (fuel : Nat) → (va len : Nat) → Except (Code × Nat) (List Seg)
  | 0, _, _ => .ok []
  | n + 1, va, len =>
    if len = 0 then .ok [] else
    match pteOf s w va with
    | .error c => .error (c, va)
    | .ok x =>
      if acc.wr && x.pte.getLsbD 59 then .error (.xprot, va)
      else if acc.fetch && !x.pte.getLsbD 58 then .error (.xprot, va)
      else
        let k := min len (65536 - va % 65536)
        match devSegs s w acc n (va + k) (len - k) with
        | .ok l => .ok (⟨.dev (x.pa va), k⟩ :: l)
        | .error e => .error e

/-- Local-window bytes: logical page and page offset to scratchpad addresses in a view, cut into runs (R242, R250). -/
def spSegs (st : Nat) (pages : List Nat) (sw : Bool) : (fuel : Nat) → (off len : Nat) → List Seg
  | 0, _, _ => []
  | n + 1, off, len =>
    if len = 0 then [] else
    let k := if sw then min len (8 - off % 8) else min len (65536 - off % 65536)
    ⟨.sp (st * 2 ^ 21 + pages.getD (off / 65536) 0 * 65536 + viewOff sw (off % 65536)), k⟩ :: spSegs st pages sw n (off + k) (len - k)

/-- The checks of R243, R347, R395 and R401 on a range of a context, and where its bytes are. The error holds the fault and
the lowest faulting byte. -/
def resolve (s : State) (w : Who) (acc : Acc) (sw : Bool) (va len : Nat) : Except (Code × Nat) (List Seg) :=
  let k := kindOf va
  let last := va + (len - 1)
  if len = 0 then .ok []
  else if 2 ^ 64 ≤ last then .error (.straddle, va)
  else if kindOf last ≠ k then .error (.straddle, va)
  else match k with
  | 0 =>
    if acc.dev then devSegs s w acc (len / 65536 + 2) va len
    else .error (.xprot, va)
  | 2 =>
    if !acc.loc then .error (.xprot, va)
    else if w.pages.length * 65536 < last + 1 - localBase then .error (.xprot, max va (localBase + w.pages.length * 65536))
    else .ok (spSegs (stationOf w.core) w.pages sw (if sw then len / 8 + 2 else len / 65536 + 2) (va - localBase) len)
  | 4 => if acc.ring then .ok [⟨.ring (w.core * 4096 + (va - ringBase)), len⟩] else .error (.xprot, va)
  | 6 =>
    if !acc.glob then .error (.xprot, va)
    else if fld va 62 51 ≠ fld last 62 51 then .error (.straddle, va)
    else if fld va 62 51 ≠ s.fab.part ∧ tget 0 s.fab.route (fld va 62 51) = 0 then .error (.xprot, va)
    else .ok [⟨.glob va, len⟩]
  | _ => .error (.xprot, va)

/-- Where the bytes of a range are, up to the first that its checks refuse, and the refusal. -/
def reach (s : State) (w : Who) (acc : Acc) (sw : Bool) (va len : Nat) : List Seg × Option (Code × Nat) :=
  match resolve s w acc sw va len with
  | .ok l => (l, none)
  | .error (c, a) => ((match resolve s w acc sw va (a - va) with | .ok l => l | .error _ => []), some (c, a))

/-- The logical pages of a local-window range. -/
def pagesOf (va len : Nat) : List Nat :=
  if kindOf va = 2 ∧ len ≠ 0 then upto ((va - localBase) / 65536) ((va - localBase + len - 1) / 65536 + 1 - (va - localBase) / 65536)
  else []

/-- Pages of a range that still wait for their refill (R246). -/
def fillPages (c : Ctx) (va len : Nat) : List Nat :=
  (pagesOf va len).filter fun j => (c.pages.getD j ⟨0, .zero⟩).st == .fill

/-- Pages of a range that a retention slot of the task holds (R321), by their logical numbers (DESIGN CHOICE, log entry 126). -/
def heldPages (s : State) (cid va len : Nat) : List Nat :=
  let c := s.ctx cid
  (pagesOf va len).filter fun j => (s.core (coreOf cid)).ret.any fun r =>
    match r.2.holder with
    | some o => sameTask cid c o && r.2.pages.contains j
    | none => false

/-! ### Homes -/

/-- The home die of a physical address (R396). -/
def homeDie (pa : Nat) : Nat := if pa < 2 ^ 44 then pa / (192 * 2 ^ 30) else (pa - 2 ^ 44) / 2 ^ 38 / 2

/-- The home slice within the die (R272). -/
def sliceOf (pa : Nat) : Nat :=
  let l := pa / 256
  fld l 8 0 ^^^ fld l 17 9 ^^^ fld l 26 18 ^^^ fld l 35 27 ^^^ fld l 44 36

/-- The line's set within its slice (R272). -/
def setOf (pa : Nat) : Nat := fld (pa / 256) 15 9

/-- The slice and set of a line as one number. -/
def l2Key (line : Nat) : Nat := (homeDie (line * 256) * 512 + sliceOf (line * 256)) * 128 + setOf (line * 256)

/-- The slices after an access to sectors of a line: allocated, marked, and the least recently used unpinned line of a full
set gone (R274); where every way is pinned nothing is allocated. -/
def l2Touch (t : List L2Line) (line : Nat) (secs dirty : BitVec 4) : List L2Line :=
  let old := (t.find? (·.line == line)).getD { line := line }
  let new := { old with valid := old.valid ||| secs, dirty := old.dirty ||| dirty }
  let rest := t.filter (·.line != line)
  let same := rest.filter fun x => l2Key x.line == l2Key line
  if 16 ≤ same.length then
    match (same.filter (·.pins == 0)).getLast? with
    | some v => new :: rest.filter (·.line != v.line)
    | none => t
  else new :: rest

/-- A line that is not in its slice and finds every way of its set pinned: its fill waits (R229, R274). -/
def l2Full (t : List L2Line) (line : Nat) : Bool :=
  let same := t.filter fun x => l2Key x.line == l2Key line
  !t.any (·.line == line) && decide (16 ≤ same.length) && same.all fun x => x.pins != 0

/-- The mask of sectors of a line that a run touches. -/
def secMask (a n : Nat) : BitVec 4 :=
  (List.range 4).foldl (fun m i => if a / 64 % 4 ≤ i ∧ i ≤ a / 64 % 4 + (a % 64 + n - 1) / 64 then m ||| (1#4 <<< i) else m) 0

/-- The lines of a run of device memory, as (address, bytes) within each line. -/
def lineRuns : (fuel : Nat) → (a n : Nat) → List (Nat × Nat)
  | 0, _, _ => []
  | f + 1, a, n => if n = 0 then [] else let k := min n (256 - a % 256); (a, k) :: lineRuns f (a + k) (n - k)

/-- Located bytes with a line whose fill must wait for a way (R274, R291). -/
def l2Waits (s : State) (segs : List Seg) : Bool :=
  segs.any fun g => match g.loc with
    | .dev a => (lineRuns (g.len / 256 + 2) a g.len).any fun r => l2Full s.l2 (r.1 / 256)
    | _ => false

/-- The slices after a run of device memory was read or written at its homes. -/
def l2Access (s : State) (a n : Nat) (wr : Bool) : State :=
  (lineRuns (n / 256 + 2) a n).foldl (init := s) fun s r =>
    { s with l2 := l2Touch s.l2 (r.1 / 256) (secMask r.1 r.2) (if wr then secMask r.1 r.2 else 0) }

/-- Where a byte of the scratchpad arrays stands in their error marks (R241): the pages first, then the ring stores. -/
def arrayAt : Loc → Option Nat
  | .sp a => some a
  | .ring a => some (2 ^ 29 + a)
  | _ => none

/-- The scratchpad, by station, of a sector of the arrays (R241, R444). -/
def arrayUnit (q : Nat) : Nat := if q < 2 ^ 23 then q * 64 / 2 ^ 21 else (q * 64 - 2 ^ 29) / 4096 / 4

/-- The first sector of located bytes that reads `MEMUE` or `POISON`, as (code, offset within the bytes) (R241, R275). -/
def badSeg (s : State) : (off : Nat) → (segs : List Seg) → Option (Code × Nat)
  | _, [] => none
  | off, g :: gs =>
    let look := fun (ue ps : List Nat) (a : Nat) =>
      (upto (a / 64) (sectors a g.len)).findSome? fun q =>
        if ue.contains q then some (Code.memue, off + (q * 64 - a)) else if ps.contains q then some (Code.poison, off + (q * 64 - a)) else none
    let r := match g.loc with
      | .dev a => look s.ue s.poison a
      | l => (arrayAt l).bind (look s.spUe s.spPoison)
    match r with
    | some x => some x
    | none => badSeg s (off + g.len) gs

/-- A detected uncorrectable error becomes poison (R275); that of a scratchpad counts when it is detected (R241, R444). -/
def markPoison (s : State) (segs : List Seg) : State :=
  segs.foldl (init := s) fun s g =>
    match g.loc with
    | .dev a =>
      let hit := (upto (a / 64) (sectors a g.len)).filter s.ue.contains
      { s with ue := s.ue.filter (!hit.contains ·), poison := s.poison ++ hit.filter (!s.poison.contains ·) }
    | l => match arrayAt l with
      | none => s
      | some a =>
        let hit := (upto (a / 64) (sectors a g.len)).filter s.spUe.contains
        hit.foldl (fun s q => dillAdd s 3 (arrayUnit q))
          { s with spUe := s.spUe.filter (!hit.contains ·), spPoison := s.spPoison ++ hit.filter (!s.spPoison.contains ·) }

/-- The bytes at a location, at its home. -/
def readSeg (s : State) (g : Seg) : List Byte :=
  match g.loc with
  | .dev a => memRead s.mem a g.len
  | .sp a => memRead s.spad a g.len
  | .ring a => memRead s.ringMem a g.len
  | .glob _ => List.replicate g.len 0

/-- The bytes of located pieces, at their homes. -/
def readSegs (s : State) (segs : List Seg) : List Byte := segs.flatMap (readSeg s)

/-- A read given witness `win` must see a write of the other view (R251): the witness is at least one that spans both views and that was
produced after the write. -/
def spansAfter (v : ViewWrite) (win : Word) : Bool :=
  match v.joined with
  | some t => !wNull win && decide (t ≤ wTick win)
  | none => false

/-- A witness at tick `t` spans both views: one of a direct writer or of `vjoin` (R251). Writes that performed by then are joined to it (log
entry 115). -/
def joinViews (s : State) (t : Nat) : State :=
  if s.views.isEmpty then s
  else { s with views := s.views.map fun v => if v.joined.isNone && decide (v.tick ≤ t) then { v with joined := some t } else v }

/-- Correctable errors among located bytes are corrected as they are read, and counted for the slice or the scratchpad (R241, R275,
R444; log entry 116). -/
def noteCe (s : State) (segs : List Seg) : State :=
  if s.ce.isEmpty && s.spCe.isEmpty then s
  else segs.foldl (init := s) fun s g =>
    match g.loc with
    | .dev a =>
      let hit := (upto (a / 64) (sectors a g.len)).filter s.ce.contains
      hit.foldl (fun s q => dillAdd s 0 (homeDie (q * 64) * 512 + sliceOf (q * 64))) { s with ce := s.ce.filter (!hit.contains ·) }
    | l => match arrayAt l with
      | none => s
      | some a =>
        let hit := (upto (a / 64) (sectors a g.len)).filter s.spCe.contains
        hit.foldl (fun s q => dillAdd s 2 (arrayUnit q)) { s with spCe := s.spCe.filter (!hit.contains ·) }

/-- The caches after a range's translations were used (R402). Correctable errors that the walks met are corrected and counted (R275,
R400). -/
def touchXlat (s : State) (w : Who) (va len : Nat) : State :=
  if kindOf va ≠ 0 then s else
  (List.range ((va % 65536 + len - 1) / 65536 + 1)).foldl (init := s) fun s i =>
    let a := if i = 0 then va else (va / 65536 + i) * 65536
    match pteOf s w a with
    | .ok x => installXlat (noteCe s (walkSegs s w a)) w x
    | .error _ => s

/-- A translation that failed (R275, R400): what its walk read is corrected and counted, and an uncorrectable entry becomes poison. -/
def noteWalk (s : State) (w : Who) (va : Nat) : State := if kindOf va ≠ 0 then s else markPoison (noteCe s (walkSegs s w va)) (walkBad s w va)

/-- Runs cut at 64-byte sectors. -/
def sectorSegs (segs : List Seg) : List Seg :=
  segs.flatMap fun g => match g.loc with
    | .sp a => cut (fun x => .sp x) (g.len / 64 + 2) a g.len
    | .dev a => cut (fun x => .dev x) (g.len / 64 + 2) a g.len
    | .glob a => cut (fun x => .glob x) (g.len / 64 + 2) a g.len
    | l => [⟨l, g.len⟩]
where
  cut (mk : Nat → Loc) : Nat → Nat → Nat → List Seg
    | 0, _, _ => []
    | f + 1, a, n => if n = 0 then [] else let k := min n (64 - a % 64); ⟨mk a, k⟩ :: cut mk f (a + k) (n - k)

/-- The sectors of scratchpad runs that an access in view `sw`, given a witness, may read as they were before a write of the other view that
is not joined yet (R251), with that write. -/
def staleSecs (s : State) (sw : Bool) (win : Word) (segs : List Seg) : List (Nat × ViewWrite) :=
  let qs := ((sectorSegs segs).filterMap fun g => match g.loc with | .sp a => some (a / 64) | _ => none).eraseDups
  qs.filterMap fun q => (s.views.find? fun v => v.sw != sw && v.addr / 64 == q && !spansAfter v win).map fun v => (q, v)

/-- Engine and slot reads of scratchpad and device memory in a view (R251, R298): each sector of the scratchpad is read old or new. -/
def readIn (s : State) (sw : Bool) (win : Word) (segs : List Seg) : State × List Byte :=
  let s := noteCe s segs
  let l := if s.views.isEmpty then [] else staleSecs s sw win segs
  if l.isEmpty then (s, readSegs s segs)
  else
    let old := (l.zipIdx.filter fun p => Config.viewOld (s.fresh + p.2)).map (·.1)
    let get := fun (g : Seg) => match g.loc with
      | .sp a => match old.find? (·.1 == a / 64) with
        | some x => (x.2.old.drop (a % 64)).take g.len
        | none => readSeg s g
      | _ => readSeg s g
    ({ s with fresh := s.fresh + l.length }, (sectorSegs segs).flatMap get)

/-- The bytes of a run of located bytes from an offset. -/
def cutSegs : (segs : List Seg) → (off n : Nat) → List Seg
  | [], _, _ => []
  | g :: gs, off, n =>
    if n = 0 then []
    else if g.len ≤ off then cutSegs gs (off - g.len) n
    else
      let k := min n (g.len - off)
      let l := match g.loc with
        | .dev x => Loc.dev (x + off)
        | .sp x => Loc.sp (x + off)
        | .ring x => Loc.ring (x + off)
        | .glob x => Loc.glob (x + off)
      ⟨l, k⟩ :: cutSegs gs 0 (n - k)

/-- Located bytes read up to the first sector that reads `MEMUE` or `POISON` (R255, R275, R287): the state, in which an error found is
poison, the bytes before it, and its code. -/
def readUpTo (s : State) (sw : Bool) (win : Word) (segs : List Seg) : State × List Byte × Option Code :=
  match badSeg s 0 segs with
  | none => let r := readIn s sw win segs; (r.1, r.2, none)
  | some (c, off) =>
    let good := cutSegs segs 0 (off / 64 * 64)
    let r := readIn s sw win good
    (markPoison r.1 (cutSegs segs (off / 64 * 64) 1), r.2, some c)

/-- The contexts of a station: its four cores' contexts. -/
def stationCids (st : Nat) : List Nat := upto (st * 32) 32

/-- A page that is written leaves state ZERO (R246). -/
def markPresent (s : State) (addr : Nat) : State :=
  let st := addr / 2 ^ 21
  let ph := addr / 65536 % 32
  (stationCids st).foldl (init := s) fun s cid =>
    let c := s.ctx cid
    if c.pages.any fun p => p.phys == ph && p.st == .zero then
      s.setCtx cid { c with pages := c.pages.map fun p => if p.phys == ph && p.st == .zero then { p with st := .present } else p }
    else s

/-- Whole sectors written lose their poison mark (R275). -/
def clearMarks (l : List Nat) (a n : Nat) : List Nat :=
  l.filter fun q => !(decide (a ≤ q * 64) && decide (q * 64 + 64 ≤ a + n))

/-- The sectors that `n` bytes at an address write in part only. -/
def partSecs (a n : Nat) : List Nat := (upto (a / 64) (sectors a n)).filter fun q => !(decide (a ≤ q * 64) && decide (q * 64 + 64 ≤ a + n))

/-- The marks of sectors after a write (R275): a sector written whole is clean again, and one with an uncorrectable error that is written
in part, which its fill detects, is poisoned. As (uncorrectable, poisoned). -/
def marksAfter (ue poison : List Nat) (a n : Nat) : List Nat × List Nat :=
  let hit := (partSecs a n).filter ue.contains
  ((clearMarks ue a n).filter (!hit.contains ·), clearMarks poison a n ++ hit.filter (!poison.contains ·))

/-- The bytes of a sector after bytes were written at an address. -/
def patchSec (q : Nat) (old : List Byte) (a : Nat) (bs : List Byte) : List Byte :=
  (List.range 64).map fun i =>
    let b := q * 64 + i
    if a ≤ b ∧ b < a + bs.length then bs.getD (b - a) 0 else old.getD i 0

/-- The sectors of a line's copy after bytes were written at an address of this part or of another. -/
def patchSecs (x : L1Line) (a : Nat) (bs : List Byte) : L1Line :=
  { x with secs := x.secs.map fun q => (q.1, patchSec (x.line * 4 + q.1) q.2 a bs) }

/-- Copies filled at this very tick see a write that performs now: at one tick, writes come before reads (R298; log entry 111). -/
def patchFills (s : State) (a : Nat) (bs : List Byte) : State :=
  let now := fun (x : L1Line) => !x.glob && x.tick == s.tick
  if s.cores.any fun p => p.2.l1.any now then
    let upd := fun (k : Core) => { k with l1 := k.l1.map fun x => if now x then patchSecs x a bs else x }
    { s with cores := s.cores.map fun (p : Nat × Core) => (p.1, upd p.2) }
  else s

/-- Bytes written at a location, at its home (R274–R276). -/
def writeLoc (s : State) (l : Loc) (bs : List Byte) : State :=
  match l with
  | .dev a =>
    let s := patchFills (l2Access s a bs.length true) a bs
    let m := marksAfter s.ue s.poison a bs.length
    { s with mem := memPut s.mem a bs, ue := m.1, poison := m.2, ce := clearMarks s.ce a bs.length }
  | .sp a =>
    let s := markPresent s a
    let m := marksAfter s.spUe s.spPoison a bs.length
    let hit := (partSecs a bs.length).filter s.spUe.contains
    hit.foldl (fun s q => dillAdd s 3 (arrayUnit q))
      { s with spad := memPut s.spad a bs, spUe := m.1, spPoison := m.2, spCe := clearMarks s.spCe a bs.length }
  | .ring a =>
    let e := 2 ^ 29 + a
    let m := marksAfter s.spUe s.spPoison e bs.length
    let hit := (partSecs e bs.length).filter s.spUe.contains
    hit.foldl (fun s q => dillAdd s 3 (arrayUnit q))
      { s with ringMem := memPut s.ringMem a bs, spUe := m.1, spPoison := m.2, spCe := clearMarks s.spCe e bs.length }
  | .glob _ => s

/-- Bytes laid over located runs, as pieces. -/
def piecesOf : (segs : List Seg) → (bs : List Byte) → List Piece
  | [], _ => []
  | g :: gs, bs => ⟨g.loc, bs.take g.len⟩ :: piecesOf gs (bs.drop g.len)

/-- What a read of another view may still find after a write (R251): the bytes of a write that this view sees, whoever wrote before. A direct
write is seen in both. -/
def overwriteOld (sw : Option Bool) (p : Piece) (v : ViewWrite) : ViewWrite :=
  match p.loc with
  | .sp a => if sw == some v.sw then v else { v with old := patchSec (v.addr / 64) v.old a p.bytes }
  | _ => v

/-- A piece written, in one view or directly (R251). -/
def writePiece (s : State) (sw : Option Bool) (p : Piece) : State :=
  let s := writeLoc s p.loc p.bytes
  if s.views.isEmpty then s else { s with views := s.views.map (overwriteOld sw p) }

/-- A direct write of located runs (R251). -/
def writeSegs (s : State) (segs : List Seg) (bs : List Byte) : State := (piecesOf segs bs).foldl (fun s p => writePiece s none p) s

/-- A write through a view's write buffer: performed in its view, and noted for the other (R251). -/
def writeView (s : State) (id : Nat) (o : Owner) (sw : Bool) (p : Piece) : State :=
  match p.loc with
  | .sp a =>
    let old := (upto (a / 64) (sectors a p.bytes.length)).map fun q =>
      { id := id, own := o, sw := sw, addr := q * 64, tick := s.tick, old := memRead s.spad (q * 64) 64 : ViewWrite }
    let s := writePiece s (some sw) p
    { s with views := s.views ++ old }
  | _ => writeLoc s p.loc p.bytes

/-! ### The static mesh -/

/-- The link of a port that a hash picks: that link, or the next one that works (R346, R349), so that a link that fails moves no line but its
own. -/
def linkAt (x : FPort) (h : Nat) : Nat := (((upto (h % 4) 4).map (· % 4)).find? (linksUp x).contains).getD 0

/-- The port among some that a hash picks: that port, or the next one that has a working link (R346, R349), with its link. -/
def portPath (s : State) (ps : List Nat) (h : Nat) : Option (Nat × Nat) :=
  ((ps.drop (h % ps.length) ++ ps.take (h % ps.length)).find? fun p => !(linksUp (s.port p)).isEmpty).map fun p => (p, linkAt (s.port p) (h / 32))

/-- The port and link of a line's requests to a part, less ports with no working link (R346, R347, R349). -/
def pathTo (s : State) (part line : Nat) : Option (Nat × Nat) :=
  let h := Config.lineHash line
  if part = s.fab.part then some (h % 32, 0) else portPath s (routePorts s part) h

/-- The path of an `fmst` copy toward the switches (R345, R362): through a switched port. -/
def mcastPath (s : State) (line : Nat) : Option (Nat × Nat) :=
  portPath s ((List.range 32).filter fun p => !(s.port p).circuit) (Config.lineHash line)

/-- The port and link toward a switch (R345, R369). -/
def switchPath (s : State) (sw line : Nat) : Option (Nat × Nat) :=
  portPath s ((List.range 32).filter fun p => !(s.port p).circuit && (s.port p).sw == sw) (Config.lineHash line)

/-- The station at which an optical port's engine sits (R16). -/
def portStation (p : Nat) : Nat :=
  match p / 8 with
  | 0 | 1 => 64 * (p / 8) + p % 8
  | 2 => 64 * 2 + 8 * 7 + p % 8 / 2
  | _ => 64 * 3 + 8 * 7 + 4 + p % 8 / 2

/-- The part of a global address (R347). -/
def partOf (va : Nat) : Nat := fld va 62 51

/-- The station of a location and the router input or output code of its unit there (R14, R16, R340): 6 for the L2 slices, 4 for the
cluster, 5 for the port engine that a global address goes through. -/
def locStation (s : State) : Loc → Nat × Nat
  | .dev pa => (64 * homeDie pa + sliceOf pa / 8, 6)
  | .sp a => (a / 2 ^ 21, 4)
  | .ring a => (a / 4096 / 4, 4)
  | .glob va => (portStation ((pathTo s (partOf va) (va / 256)).getD (0, 0)).1, 5)

/-- A request to another part that no working port reaches cannot be queued, and its bundle waits (R346, R350). -/
def noPath (s : State) (segs : List Seg) : Bool :=
  segs.any fun g => match g.loc with
    | .glob va => (pathTo s (partOf va) (va / 256)).isNone
    | _ => false

/-- A station's place on the part's grid (R14, R15). -/
def gridOf (st : Nat) : Nat × Nat := (8 * (st / 64 % 2) + st % 8, 8 * (st / 128) + st / 8 % 8)

/-- The station at a place of the grid. -/
def gridStation (x y : Nat) : Nat := 64 * (2 * (y / 8) + x / 8) + 8 * (y % 8) + x % 8

/-- The hops of a flit, X then Y, as (station, output, input) (R340, R341). -/
def hops (fuel : Nat) (x y dx dy inp out : Nat) : List (Nat × Nat × Nat) :=
  match fuel with
  | 0 => []
  | n + 1 =>
    let st := gridStation x y
    if x < dx then (st, 1, inp) :: hops n (x + 1) y dx dy 3 out
    else if dx < x then (st, 3, inp) :: hops n (x - 1) y dx dy 1 out
    else if y < dy then (st, 2, inp) :: hops n x (y + 1) dx dy 0 out
    else if dy < y then (st, 0, inp) :: hops n x (y - 1) dx dy 2 out
    else [(st, out, inp)]

/-- A router output has a valid slot of the interface for an input (R340, R341). -/
def slotFor (s : State) (ifc : Nat) (h : Nat × Nat × Nat) : Bool :=
  s.thyme.any fun (p : Nat × BitVec 32) =>
    p.1 / 1024 == h.1 * 7 + h.2.1 && fld p.2.toNat 31 31 == 1 && fld p.2.toNat 30 25 == ifc && fld p.2.toNat 24 22 == h.2.2

/-- A bulk transfer of an interface between two units can cross the mesh: every hop has a slot for it (R340, R341; log entry 22). -/
def pathOpen (s : State) (ifc : Nat) (a b : Nat × Nat) : Bool :=
  let p := gridOf a.1
  let q := gridOf b.1
  a == b || (hops 33 p.1 p.2 q.1 q.2 a.2 b.2).all (slotFor s ifc)

/-- As `pathOpen`, between two locations. -/
def meshOpen (s : State) (ifc : Nat) (a b : Loc) : Bool := pathOpen s ifc (locStation s a) (locStation s b)

/-- The homes of located bytes as stations and units (R272, R340). -/
def homesOf (s : State) (segs : List Seg) : List (Nat × Nat) :=
  (segs.flatMap fun g => match g.loc with
    | .dev a => (upto (a / 256) ((a + g.len - 1) / 256 + 1 - a / 256)).map fun n => locStation s (.dev (n * 256))
    | l => [locStation s l]).eraseDups

/-- Located bytes can cross the mesh from their homes to a place. -/
def crossesTo (s : State) (ifc : Nat) (segs : List Seg) (to' : Loc) : Bool := (homesOf s segs).all fun h => pathOpen s ifc h (locStation s to')

/-- A place's bytes can cross the mesh to the homes of located ones. -/
def crossesBack (s : State) (ifc : Nat) (from' : Loc) (segs : List Seg) : Bool := (homesOf s segs).all fun h => pathOpen s ifc (locStation s from') h

/-- The scope of a witness for locations (R295). -/
def scopeOf (l : Loc) : Nat :=
  match l with
  | .dev _ => 2
  | .glob _ => 3
  | _ => 1

/-! ### L1 -/

/-- The core whose L1 holds a line for a core (R271). -/
def l1Core (s : State) (core line : Nat) : Nat :=
  if (s.stn (stationOf core)).fused then core / 4 * 4 + line % 4 else core

/-- A line within its lifetime (R269), whose parity is good (R444). -/
def l1Live (s : State) (x : L1Line) : Bool := !x.bad && decide (s.tick < x.tick + 65536)

/-- L1 after a line was put first in its set of eight ways (R268). -/
def l1Put (t : List L1Line) (x : L1Line) : List L1Line :=
  let rest := t.filter fun y => !(y.line == x.line && y.glob == x.glob)
  let set := Config.l1Set x.line % 64
  let same := rest.filter fun y => Config.l1Set y.line % 64 == set
  if 8 ≤ same.length then
    match same.getLast? with
    | some v => x :: rest.filter fun y => !(y.line == v.line && y.glob == v.glob)
    | none => x :: rest
  else x :: rest

/-- A load given witness `win` may use a copy of a line (R269, R298): one whose fill tick is not below the witness's, and with a windowed
witness none of a line of another part. -/
def l1Fresh (x : L1Line) (win : Word) : Bool := wNull win || (decide (wTick win ≤ x.tick) && !(wWin win && x.glob))

/-- The copy of a line that a load given witness `win` may use (R269, R298). -/
def l1Find (s : State) (core line : Nat) (glob : Bool) (win : Word) : Option L1Line :=
  (s.core (l1Core s core line)).l1.find? fun x => x.line == line && x.glob == glob && l1Live s x && l1Fresh x win

/-- Sectors of a device line filled into L1 from the home; a line refused or expired is replaced (R269). -/
def l1Fill (s : State) (core line : Nat) (secs : List Nat) (win : Word) : State :=
  let home := l1Core s core line
  let old := l1Find s core line false win
  let keep := (old.map (·.secs)).getD []
  let new := (secs.filter fun q => !keep.any (·.1 == q)).map fun q => (q, memRead s.mem (line * 256 + q * 64) 64)
  let x : L1Line := { line := line, tick := (old.map (·.tick)).getD s.tick, secs := keep ++ new }
  let s := noteCe (l2Access s (line * 256) 256 false) (secs.map fun q => ⟨.dev (line * 256 + q * 64), 64⟩)
  s.modCore home fun c => { c with l1 := l1Put c.l1 x }

/-- The result of a read through L1: bytes, a fault, or sectors of a line of another part still to arrive. -/
inductive L1Res where
  | ok (bs : List Byte)
  | fault (c : Code) (off : Nat)
  | wait (line lo n : Nat)
  deriving DecidableEq, Repr

/-- Lines invalidated in a core's L1 (R269, R278). -/
def l1Drop (s : State) (core line : Nat) (glob : Bool) : State :=
  s.modCore (l1Core s core line) fun c => { c with l1 := c.l1.filter fun x => !(x.line == line && x.glob == glob) }

/-- The bytes of a run among the sectors of its line. -/
def takeSecs (secs : List (Nat × List Byte)) (a n : Nat) : List Byte :=
  (List.range n).map fun i =>
    let b := a % 256 + i
    (((secs.find? (·.1 == b / 64)).map (·.2)).getD []).getD (b % 64) 0

/-- What another part has answered to the executing bundle's load of a run (R275, R298): the fault of a sector that it reads, or its
bytes, which `secs` names; nothing for the lines of this part. -/
def lentFor (s : State) (glob : Bool) (a n : Nat) (secs : List Nat) (win : Word) : Option L1Res :=
  let l := if glob then (s.ctx s.iss.cid).lent.filter fun x => x.line == a / 256 && x.win == win else []
  match l.findSome? fun x => x.fault.filter fun f => secs.contains f.2 with
  | some (c, q) => some (.fault (if c = Code.memue.num then .memue else .poison) (max (a / 256 * 256 + q * 64) a - a))
  | none => (l.find? fun x => secs.all fun q => x.secs.any (·.1 == q)).map fun x => .ok (takeSecs x.secs a n)

/-- A run within one line read through L1 (R268, R269, R275): `glob` for a line of another part. A copy that the load refuses leaves. -/
def l1Run (s : State) (core : Nat) (glob : Bool) (a n : Nat) (win : Word) : State × L1Res :=
  let line := a / 256
  let secs := upto (a / 64 % 4) (sectors a n)
  let hit := l1Find s core line glob win
  match hit.filter fun x => secs.all fun q => x.secs.any (·.1 == q) with
  | some x => (s.modCore (l1Core s core line) fun c => { c with l1 := l1Put c.l1 x }, .ok (takeSecs x.secs a n))
  | none =>
    let s := if hit.isNone then l1Drop s core line glob else s
    if glob then (s, (lentFor s glob a n secs win).getD (.wait line (a / 64 % 4) (sectors a n)))
    else
      let have' := (hit.map fun x => x.secs.map (·.1)).getD []
      let need := secs.filter (!have'.contains ·)
      match need.find? fun q => (secFault s (line * 256 + q * 64)).isSome with
      | some q =>
        let p := line * 256 + q * 64
        (s, .fault ((secFault s p).getD .poison) (max p a - a))
      | none =>
        let s := l1Fill s core line secs win
        (s, .ok (match l1Find s core line false win with | some x => takeSecs x.secs a n | none => memRead s.mem a n))

/-- A fetched chunk may still be popped (R190, R269, R308): its fault is held with it, or the copies of the lines that it was read from still
stand in L1, so that no access of the context has seen newer bytes. -/
def chunkHeld (s : State) (core : Nat) (c : Chunk) : Bool :=
  decide (s.tick < c.tick + 65536) &&
  (c.fault.isSome || c.runs.all fun r => (upto (r.1 / 256) ((r.1 + r.2 - 1) / 256 + 1 - r.1 / 256)).all fun n =>
    match l1Find s core n false 0 with
    | some x => decide (x.tick ≤ c.tick)
    | none => false)

/-- Located runs cut at lines where L1 serves them (R268). -/
def l1Items (segs : List Seg) : List Seg :=
  segs.flatMap fun g => match g.loc with
    | .dev a => (lineRuns (g.len / 256 + 2) a g.len).map fun r => ⟨.dev r.1, r.2⟩
    | .glob a => (lineRuns (g.len / 256 + 2) a g.len).map fun r => ⟨.glob r.1, r.2⟩
    | _ => [g]

/-- One located run read by a slot or a port: device memory and other parts through L1, the windows at their banks (R268). -/
def l1One (s : State) (core : Nat) (win : Word) (g : Seg) : State × L1Res :=
  match g.loc with
  | .dev a => l1Run s core false a g.len win
  | .glob a => l1Run s core true a g.len win
  | _ =>
    match badSeg s 0 [g] with
    | some (c, o) => (s, .fault c o)
    | none => let r := readIn s false win [g]; (r.1, .ok r.2)

/-- Located runs read by a slot or a port, up to the first that faults or must wait. -/
def l1Read (s : State) (core : Nat) (win : Word) (segs : List Seg) : State × L1Res :=
  let r := (l1Items segs).foldl (init := (s, L1Res.ok [], 0)) fun (st : State × L1Res × Nat) g =>
    match st.2.1 with
    | .ok bs =>
      let y := l1One st.1 core win g
      match y.2 with
      | .ok b2 => (y.1, .ok (bs ++ b2), st.2.2 + g.len)
      | .fault c o => (y.1, .fault c (st.2.2 + o), st.2.2)
      | .wait l q k => (y.1, .wait l q k, st.2.2)
    | _ => st
  (r.1, r.2.1)

/-- A committed store's bytes written into a valid copy of the line in the core's own L1, its fill tick kept (R270). -/
def l1Write (s : State) (core : Nat) (p : Piece) : State :=
  let upd := fun (glob : Bool) (a : Nat) =>
    (lineRuns (p.bytes.length / 256 + 2) a p.bytes.length).foldl (init := s) fun s r =>
      s.modCore (l1Core s core (r.1 / 256)) fun c =>
        { c with l1 := c.l1.map fun x => if x.line == r.1 / 256 && x.glob == glob && l1Live s x then patchSecs x a p.bytes else x }
  match p.loc with
  | .dev a => upd false a
  | .glob a => upd true a
  | _ => s

/-- Whether two located runs share a byte. -/
def overlap (l1 : Loc) (n1 : Nat) (l2 : Loc) (n2 : Nat) : Bool :=
  match l1, l2 with
  | .dev a, .dev b => decide (a < b + n2) && decide (b < a + n1)
  | .sp a, .sp b => decide (a < b + n2) && decide (b < a + n1)
  | .glob a, .glob b => decide (a < b + n2) && decide (b < a + n1)
  | _, _ => false

/-- A committed store or atomic of the context that has not performed and shares a byte with the runs: a later load of the
same context waits for it (R270, R308). -/
def storePending (s : State) (cid : Nat) (segs : List Seg) : Bool :=
  s.ops.any fun o => o.own.cid == cid && o.own.uid == (s.ctx cid).uid && (match o.kind with
    | .store x => x.left.any fun p => segs.any fun g => overlap p.loc p.bytes.length g.loc g.len
    | .atomic x => segs.any fun g => overlap x.loc 8 g.loc g.len
    | _ => false)

end Sys2Proof.Machine
end

