-- ==== Sys2Proof/WellFormed.lean ====
section
/-! DEFINITION. The field rules of every instruction (R33, R40–R48, R55 excepted, and each entry): what the check of R50 step 2
admits. A row that is a step of the part's engines has no fields. -/
namespace Sys2Proof

/-- The fields of an S.R word that an entry may use. -/
inductive SField where
  | ty | d | a | b | c | wi1 | wi2 | wo | fn
  deriving DecidableEq, Repr

/-- The fields of a matrix word that an entry may use. -/
inductive MField where
  | stk | acc | tda | tdb | ea | eb | fa | fb | wi | wo | fn
  deriving DecidableEq, Repr

/-- The fields of a copy word that an entry may use. -/
inductive CField where
  | stk | ch | d | a | b | wi | wo
  deriving DecidableEq, Repr

/-- Every field but those listed is zero (R48). -/
def SR.only (f : SR) (l : List SField) : Bool :=
  (l.contains .ty || f.ty == 0) && (l.contains .d || f.d == 0) && (l.contains .a || f.a == 0) &&
  (l.contains .b || f.b == 0) && (l.contains .c || f.c == 0) && (l.contains .wi1 || f.wi1 == none) &&
  (l.contains .wi2 || f.wi2 == none) && (l.contains .wo || f.wo == none) && (l.contains .fn || f.fn == 0)

/-- Every field but those listed is zero; KSTEP is zero without STK (R48). -/
def MO.only (f : MO) (l : List MField) : Bool :=
  (l.contains .stk || !f.stk) && (f.stk || f.kstep == 0) && (l.contains .acc || f.acc == 0) &&
  (l.contains .tda || f.tda == 0) && (l.contains .tdb || f.tdb == 0) && (l.contains .ea || f.ea == 0) &&
  (l.contains .eb || f.eb == 0) && (l.contains .fa || f.fa == 0) && (l.contains .fb || f.fb == 0) &&
  (l.contains .wi || (f.wi1 == none && f.wi2 == none && f.wi3 == none)) && (l.contains .wo || f.wo == none) &&
  (l.contains .fn || f.fn == 0)

/-- Every field but those listed is zero; STEP is zero without STK (R48). -/
def CO.only (f : CO) (l : List CField) : Bool :=
  (l.contains .stk || !f.stk) && (f.stk || f.step == 0) && (l.contains .ch || f.ch == 0) && (l.contains .d || f.d == 0) &&
  (l.contains .a || f.a == 0) && (l.contains .b || f.b == 0) &&
  (l.contains .wi || (f.wi1 == none && f.wi2 == none && f.wi3 == none)) && (l.contains .wo || f.wo == none)

/-- A source k field: 0–7 (R136). -/
def kSrc (x : BitVec 6) : Bool := x < 8

/-- A destination k field: 1–7 (R33, R136). -/
def kDst (x : BitVec 6) : Bool := 0 < x && x < 8

/-- `.f32`, `.bf16` or `.f16`. -/
def fmtFl3 (x : BitVec 4) : Bool := x == 8 || x == 9 || x == 10

/-- An integer format, codes 0–5. -/
def fmtInt (x : BitVec 4) : Bool := x < 6

/-- A floating format: codes 8–15 (`.e8m0` apart). -/
def fmtFloat (x : BitVec 4) : Bool := 8 ≤ x

/-- An MX element format: codes 0xB–0xF. -/
def fmtMx (x : BitVec 4) : Bool := 11 ≤ x

/-- The width of an element in a vector register (R77). -/
def fmtW (x : BitVec 4) : Nat :=
  match x.toNat with
  | 0 => 8 | 1 => 16 | 2 => 32 | 3 => 8 | 4 => 16 | 5 => 32 | 6 => 2 | 7 => 8
  | 8 => 32 | 9 => 16 | 10 => 16 | 11 => 8 | 12 => 8 | 13 => 8 | 14 => 8 | _ => 4

/-- Elements per register (R77). -/
def fmtE (x : BitVec 4) : Nat := 2048 / fmtW x

/-- A vector register field (R43). -/
def vReg (x : BitVec 11) : Bool := x < 1536

/-- A vector source field: a register, a port, `mrow` or `bimm` (R43). -/
def vSrc (x : BitVec 11) : Bool := x < 1546

/-- A port field (R191, R192). -/
def vPort (x : BitVec 11) : Bool := 1536 ≤ x && x < 1544

/-- A predicate destination q1–q15 (R195). -/
def qDst (x : BitVec 11) : Bool := 0 < x && x < 16

/-- A predicate source q0–q15 (R195). -/
def qSrc (x : BitVec 11) : Bool := x < 16

/-- A witness field held in the low bits of an operand field, with the bits above free (R40). -/
def wfLow (x : BitVec 11) : Bool := x.getLsbD 5 || x.extractLsb' 0 5 == 0

/-- A rounding mode in C, with C[10:3] zero (R83, R174). -/
def modeC (x : BitVec 11) : Bool := x < 5

/-- No governing predicate. -/
def VO.noQ (f : VO) : Bool := f.qp == 0 && !f.pn

/-- The pairs of formats that `vcvt` accepts (R200). -/
def cvtPair (src dst : BitVec 4) : Bool :=
  (fmtFloat src && fmtFloat dst && src != dst) || (fmtInt src && fmtFloat dst) || (fmtFloat src && fmtInt dst) ||
  (fmtInt src && fmtInt dst && src != dst) || (src == 6 && dst == 0) || (src == 7 && dst == 8)

/-- The ratio of two widths. -/
def cvtRatio (ws wd : Nat) : Nat := max ws wd / min ws wd

/-- The shape rule of a reduction (R206): 2^s elements a segment, results from element t on. -/
def redShape (f : VO) (dstE : Nat) : Bool :=
  let s := (f.c.extractLsb' 0 4).toNat
  let t := (f.c.extractLsb' 4 7).toNat
  2 ^ s ≤ fmtE f.fmt && t + fmtE f.fmt / 2 ^ s ≤ dstE

/-- The operand pairs of `mma` and `mmaz` (R225). -/
def mmaPair (a b : BitVec 4) : Bool :=
  (fmtMx a && fmtMx b) || (a == 9 && b == 9) || (a == 10 && b == 10) || (a == 0 && b == 0) || (a == 6 && b == 0) ||
  (a == 0 && b == 6)

/-- The special registers of R149 that `mfsr` and `mtsr` know. -/
def srNumber (n : Nat) : Bool :=
  n < 6 || n == 0x10 || n == 0x11 || (0x20 ≤ n && n ≤ 0x24) || (0x30 ≤ n && n ≤ 0x37) || (0x40 ≤ n && n ≤ 0x44)

/-- The special registers of a stream-core context (R149). -/
def srStream (n : Nat) : Bool := n < 6 || n == 0x11 || (0x40 ≤ n && n ≤ 0x44)

/-- A witness field inside an immediate (R148). -/
def wfImm (x : BitVec 6) : Bool := x.getLsbD 5 || x == 0

/-- An atomic's width (R279). -/
def atomTy (t : BitVec 3) : Bool := t == 2 || t == 3 || t == 6 || t == 7

/-- An atomic of format S.M: no STK, an accepted width, the float flag only where `fl` allows it (R279). -/
def SM.atom (f : SM) (fl : Bool) : Bool :=
  !f.stk && atomTy f.ty && (!f.addr.getLsbD 17 || (fl && f.ty == 2))

/-- Successor fields of `exit` beyond the count are zero (R127). -/
def exitRegs (f : SR) : Bool :=
  f.fn ≤ 4 && (1 ≤ f.fn || f.d == 0) && (2 ≤ f.fn || f.a == 0) && (3 ≤ f.fn || f.b == 0) && (4 ≤ f.fn || f.c == 0)

/-- A `cslot` word carrying item `n` (R413, R418). -/
def cslotOk (n : Nat) (f : SR) : Bool := !f.stk && f.fn.toNat == n && f.only [.d, .a, .b, .fn]

/-- The field rules of each instruction. -/
def Instr.wf (i : Instr) : Bool :=
  match i with
  | .nop _ _ => true
  | .add f | .sub f | .mul f => f.only [.ty, .d, .a, .b, .fn] && f.fn < 2
  | .mulh f | .div f | .rem f | .min f | .max f | .and f | .or f | .xor f | .shl f | .shr f | .rot f =>
    f.only [.ty, .d, .a, .b]
  | .sel f => f.only [.ty, .d, .a, .b, .c] && kSrc f.c
  | .addi _ | .muli _ | .andi _ | .ori _ | .xori _ => true
  | .shli f | .shri f => f.imm < 64
  | .li f => f.a == 0
  | .lih f => f.ty == 7 && f.imm.extractLsb' 28 8 == 0
  | .cmpeq f | .cmpne f | .cmplt f | .cmple f => f.only [.ty, .d, .a, .b] && kDst f.d
  | .cmpeqi f | .cmpnei f | .cmplti f | .cmplei f => kDst f.d
  | .kand f | .kor f | .kxor f => f.only [.d, .a, .b] && kDst f.d && kSrc f.a && kSrc f.b
  | .knot f => f.only [.d, .a] && kDst f.d && kSrc f.a
  | .kmovK f => f.only [.d, .a] && kDst f.d && kSrc f.a
  | .kmovToS f => f.only [.d, .a, .fn] && f.fn == 1 && kSrc f.a
  | .kmovFromS f => f.only [.d, .a, .fn] && f.fn == 2 && kDst f.d
  | .bfx f => f.only [.ty, .d, .a, .c, .fn] && (f.ty == 3 || f.ty == 7) && f.c.toNat + f.fn.toNat < 64
  | .bfi f => f.only [.ty, .d, .a, .b, .c, .fn] && f.ty == 7 && f.c.toNat + f.fn.toNat < 64
  | .clz f | .ctz f | .popc f | .bswap f => f.only [.ty, .d, .a]
  | .br f => f.ty == 0 && f.d == 0 && f.a == 0
  | .call f | .loop f => f.ty == 0 && f.a == 0
  | .brr f | .ret f => f.only [.a]
  | .callr f => f.only [.d, .a]
  | .trap f => f.ty == 0 && f.d == 0 && f.a == 0 && f.imm.extractLsb' 16 20 == 0
  | .mfsr f => f.ty == 0 && f.a == 0 && f.imm.extractLsb' 24 12 == 0 && wfImm (f.imm.extractLsb' 12 6) &&
      wfImm (f.imm.extractLsb' 18 6) && srNumber (f.imm.extractLsb' 0 12).toNat
  | .mtsr f => f.ty == 0 && f.d == 0 && f.imm.extractLsb' 12 24 == 0 && srNumber (f.imm.extractLsb' 0 12).toNat
  | .bari f => f.ty == 0 && f.a == 0 && f.d < 32 && f.imm.extractLsb' 12 24 == 0
  | .barl f => f.only [.d, .wi1, .wi2] && f.d < 32
  | .barv f => f.only [.a, .wi1, .wi2, .wo] && f.wo.isSome
  | .barw f => f.only [.d, .b, .wo] && f.b < 32 && f.wo.isSome
  | .barwRearm f => f.only [.d, .b, .wo, .fn] && f.fn == 1 && f.b < 32 && f.wo.isSome
  | .barwTest f => f.only [.d, .b, .wo, .fn] && f.fn == 2 && f.b < 32 && f.wo.isSome
  | .tret f => f.only []
  | .tkill f => f.only [.a]
  | .ld f => f.wo == none
  | .st _ => true
  | .pref f => f.ty == 0 && f.d == 0 && f.wo == none
  | .wb f => f.ty == 0 && f.d == 0
  | .inv f => f.ty == 0 && f.d == 0 && f.wi1 == none && f.wi2 == none && f.wo == none
  | .aadd f | .amin f | .amax f => f.atom true
  | .aand f | .aor f | .axor f | .aswp f => f.atom false
  | .acas f => f.only [.ty, .d, .a, .b, .c, .wi1, .wi2, .wo] && atomTy f.ty
  | .vjoin f => f.only [.wi1, .wi2, .wo]
  | .wmrg f => f.only [.wi1, .wi2, .wo] && f.wi1.isSome && f.wo.isSome
  | .wall f => f.only [.wo, .fn] && f.fn < 2 && f.wo.isSome
  | .wtst f => f.only [.d, .wi1] && kDst f.d && f.wi1.isSome
  | .wtstPoisoned f => f.only [.d, .wi1, .fn] && f.fn == 1 && kDst f.d && f.wi1.isSome
  | .wtstLanded f => f.only [.d, .wi1, .fn] && f.fn == 2 && kDst f.d && f.wi1.isSome
  | .wwait f => f.only [.wi1, .wi2] && f.wi1.isSome
  | .wrd f => f.only [.d, .wi1] && f.wi1.isSome
  | .wset f => f.only [.a, .wo] && f.wo.isSome
  | .exit f => f.only [.d, .a, .b, .c, .wi1, .wi2, .fn] && exitRegs f && !f.stk
  | .contLabel f => f.ty == 0 && f.d == 0 && f.a == 0 && !f.stk
  | .contReg f => f.ty == 1 && f.d == 0 && !f.stk
  | .budrd f => f.only [.ty, .d, .a, .fn] && f.ty == 7 && f.fn < 3
  | .budadd f => f.only [.ty, .d, .a, .b, .c] && f.ty == 7
  | .gjoin f => f.ty == 0 && f.a == 0 && !f.stk && f.imm.extractLsb' 10 26 == 0
  | .gleave f => f.ty == 0 && f.a == 0 && !f.stk && f.imm.extractLsb' 2 34 == 0
  | .launch f => !f.stk && f.only [.d, .a, .wi1, .wi2]
  | .cwait f => !f.stk && f.only [.d, .a, .b, .wi1]
  | .hsig f => !f.stk && f.only [.d, .a, .b, .wi1, .wi2]
  | .xinv f => !f.stk && f.only [.d, .a, .b, .wi1, .wi2, .wo] && f.wo.isSome
  | .cslotXlat f => cslotOk 0 f
  | .cslotQi f => cslotOk 1 f
  | .cslotQm f => cslotOk 2 f
  | .cslotPolicy f => cslotOk 3 f
  | .cslotDump f => cslotOk 4 f
  | .cslotDumpack f => cslotOk 5 f
  | .cslotEvents f => cslotOk 6 f
  | .cslotThyme f => cslotOk 7 f
  | .cslotGroup f => cslotOk 8 f
  | .cslotSched f => cslotOk 9 f
  | .cslotT0 f => cslotOk 10 f
  | .cslotRoute f => cslotOk 11 f
  | .cslotWindow f => cslotOk 12 f
  | .cslotCallmax f => cslotOk 13 f
  | .cslotThaw f => cslotOk 14 f
  | .fdrain f => !f.stk && f.only [.d, .a, .wo] && f.wo.isSome
  | .fdrainLock f => !f.stk && f.only [.d, .wo, .fn] && f.fn == 1 && f.wo.isSome
  | .snapAt f => !f.stk && f.only [.d, .a, .b, .wi1, .wi2, .wo] && f.wo.isSome
  | .snapAtStep f => !f.stk && f.only [.d, .wi1, .wi2, .wo, .fn] && f.fn == 1 && f.wi1.isSome && f.wo.isSome
  | .snapDis f => !f.stk && f.only [.d]
  | .vadd f | .vsub f | .vmul f => fmtFl3 f.fmt && vReg f.d && vSrc f.a && vSrc f.b && modeC f.c
  | .vfma f | .vfms f | .vfnma f => fmtFl3 f.fmt && vReg f.d && vSrc f.a && vSrc f.b && vSrc f.c
  | .vmax f | .vmin f | .vcpsg f => fmtFl3 f.fmt && vReg f.d && vSrc f.a && vSrc f.b && f.c == 0 && !f.sat
  | .vabs f | .vneg f | .vexp2 f | .vlog2 f | .vrcp f | .vrsqrt f | .vtanh f =>
    fmtFl3 f.fmt && vReg f.d && vSrc f.a && f.b == 0 && f.c == 0 && !f.sat
  | .viadd f | .visub f | .vimul f => fmtInt f.fmt && vReg f.d && vSrc f.a && vSrc f.b && f.c == 0
  | .vimad f => fmtInt f.fmt && vReg f.d && vSrc f.a && vSrc f.b && vSrc f.c
  | .vimax f | .vimin f => fmtInt f.fmt && vReg f.d && vSrc f.a && vSrc f.b && f.c == 0 && !f.sat
  | .viabs f => f.fmt < 3 && vReg f.d && vSrc f.a && f.b == 0 && f.c == 0
  | .vand f | .vor f | .vxor f => fmtInt f.fmt && vReg f.d && vSrc f.a && vSrc f.b && f.c == 0 && !f.sat
  | .vnot f => fmtInt f.fmt && vReg f.d && vSrc f.a && f.b == 0 && f.c == 0 && !f.sat
  | .vshl f => fmtInt f.fmt && vReg f.d && vSrc f.a && vSrc f.b && f.c == 0
  | .vshr f => fmtInt f.fmt && vReg f.d && vSrc f.a && vSrc f.b && f.c == 0 && !f.sat
  | .vcmpEq f | .vcmpNe f | .vcmpLt f | .vcmpLe f =>
    (fmtFl3 f.fmt || fmtInt f.fmt) && qDst f.d && vSrc f.a && vSrc f.b && f.c < 2 && (fmtW f.fmt != 32 || f.c == 0) &&
      !f.sat && !f.e
  | .vcmpTord f | .vcmpUn f =>
    fmtFl3 f.fmt && qDst f.d && vSrc f.a && vSrc f.b && f.c < 2 && (fmtW f.fmt != 32 || f.c == 0) && !f.sat && !f.e
  | .vsel f => vReg f.d && vSrc f.a && vSrc f.b && qSrc f.c && !f.sat
  | .vcxc f => (f.fmt == 8 || f.fmt == 2 || f.fmt == 5) && vReg f.d && vSrc f.a && vSrc f.b && f.c < 2 && !f.sat
  | .vcvt f =>
    let src := f.c.extractLsb' 3 4
    cvtPair src f.fmt && vReg f.d && vSrc f.a && f.b == 0 && f.c.extractLsb' 0 3 < 5 && !f.c.getLsbD 7 &&
      (f.c.extractLsb' 8 3).toNat < cvtRatio (fmtW src) (fmtW f.fmt)
  | .vpack f | .vunpk f =>
    (f.fmt == 13 || f.fmt == 14) && vReg f.d && vSrc f.a && f.noQ && f.b == 0 && f.c == 0 && !f.sat
  | .vscl f => fmtMx f.fmt && vReg f.d && vSrc f.a && f.b == 0 && f.c == 0 && !f.sat
  | .vqmx f => fmtMx f.fmt && vReg f.d && vSrc f.a && vSrc f.b && f.c.extractLsb' 0 3 < 5 &&
      (f.c.extractLsb' 3 3).toNat < 2048 / (64 * fmtW f.fmt)
  | .vseed f => f.fmt == 5 && f.d == 0 && vSrc f.a && f.b == 0 && f.c == 0 && !f.sat && !f.e
  | .vperm f => (fmtInt f.fmt || (7 ≤ f.fmt && f.fmt < 15)) && vReg f.d && vSrc f.a && vSrc f.b && f.c == 0 && !f.sat
  | .vbcast f => vReg f.d && vSrc f.a && f.b == 0 && f.c.toNat < fmtE f.fmt && !f.sat
  | .vzip f | .vuzp f => vReg f.d && vSrc f.a && vSrc f.b && f.c < 2 && !f.sat
  | .vrsum f => fmtFl3 f.fmt && vReg f.d && vSrc f.a && f.b == 0 && redShape f (fmtE f.fmt)
  | .vrmax f | .vrmin f =>
    (fmtFl3 f.fmt || fmtInt f.fmt) && vReg f.d && vSrc f.a && f.b == 0 && redShape f (fmtE f.fmt) && !f.sat
  | .vramax f => fmtFl3 f.fmt && vReg f.d && vSrc f.a && f.b == 0 && redShape f (fmtE f.fmt) && !f.sat
  | .virsum f => fmtInt f.fmt && vReg f.d && vSrc f.a && f.b == 0 && redShape f 64
  | .vmov f => vReg f.d && vSrc f.a && f.b == 0 && f.c == 0 && !f.sat
  | .xmvVec f => f.fmt == 0 && f.noQ && !f.e && !f.sat && f.c == 0 && vReg f.d && vSrc f.a && f.b == 0
  | .xmvPred f => f.fmt == 0 && f.noQ && !f.e && !f.sat && f.c == 1 && qDst f.d && qSrc f.a && f.b == 0
  | .xmvToS f => f.fmt == 0 && f.noQ && !f.e && !f.sat && f.c == 2 && f.d < 64 && vSrc f.a && f.b < 32
  | .xmvFromS f => f.fmt == 0 && f.noQ && !f.e && !f.sat && f.c == 3 && vReg f.d && f.a < 64 && f.b == 0
  | .xmvToC f => f.fmt == 0 && f.noQ && !f.e && !f.sat && f.c == 4 && f.d < 64 && vSrc f.a && f.b < 32
  | .xmvPredToS f => f.fmt == 0 && f.noQ && !f.e && !f.sat && f.c == 5 && f.d < 64 && qSrc f.a && f.b == 0
  | .vld f => f.fmt == 0 && !f.sat && vReg f.d && vReg f.a && f.b == 0 && wfLow f.c
  | .vst f => f.fmt == 0 && !f.sat && !f.e && f.d < 64 && wfLow f.d && vReg f.a && vSrc f.b && wfLow f.c
  | .vgth f => (f.fmt == 2 || f.fmt == 5 || f.fmt == 8) && !f.sat && vReg f.d && vSrc f.a && vSrc f.b && f.c < 64 && wfLow f.c
  | .vsct f => (f.fmt == 2 || f.fmt == 5 || f.fmt == 8) && !f.sat && !f.e && f.d < 64 && wfLow f.d && vSrc f.a && vSrc f.b &&
      vSrc f.c
  | .pcfg f => f.fmt == 0 && f.noQ && !f.e && !f.sat && !f.stk && vPort f.d && vReg f.a && vReg f.b && f.c < 64 && wfLow f.c
  | .pskip f => f.fmt == 0 && f.noQ && !f.e && !f.sat && !f.stk && vPort f.d && f.a == 0 && f.b == 0 && 0 < f.c
  | .qand f | .qor f | .qxor f =>
    f.fmt == 0 && f.noQ && !f.e && !f.sat && qDst f.d && qSrc f.a && qSrc f.b && f.c == 0
  | .qnot f => f.fmt == 0 && f.noQ && !f.e && !f.sat && qDst f.d && qSrc f.a && f.b == 0 && f.c == 0
  | .qsetNone f => f.fmt == 0 && f.noQ && !f.e && !f.sat && qDst f.d && f.a == 0 && f.b == 0 && f.c == 0
  | .qsetAll f => f.fmt == 0 && f.noQ && !f.e && !f.sat && qDst f.d && f.a == 0 && f.b == 0 && f.c == 1
  | .qsetFirst f => f.fmt == 0 && f.noQ && !f.e && !f.sat && qDst f.d && f.a == 0 && f.b == 0 && f.c == 2
  | .qsetNz f => f.fmt == 0 && f.noQ && !f.e && !f.sat && qDst f.d && vSrc f.a && f.b == 0 && f.c == 3
  | .mma f | .mmaz f => f.only [.stk, .acc, .tda, .tdb, .ea, .eb, .fa, .fb, .wi, .wo, .fn] && mmaPair f.fa f.fb
  | .tdld f => f.only [.tda, .tdb, .wi, .fn] && f.fn < 3 && (f.fn == 2 || f.tdb == 0)
  | .tdsetAdd f => f.only [.tda]
  | .tdsetLo f => f.only [.tda, .fn] && f.fn == 1
  | .tdsetHi f => f.only [.tda, .fn] && f.fn == 2
  | .tdsetKorg f => f.only [.tda, .fn] && f.fn == 3
  | .tdsetShape f => f.only [.tda, .fn] && f.fn == 4
  | .tdsetStride f => f.only [.tda, .fn] && f.fn == 5
  | .tdsetView f => f.only [.tda, .fn] && f.fn == 6
  | .mscl f => f.only [.ea, .tdb, .wi, .fn] && f.fn < 3 && (f.fn == 2 || f.tdb == 0)
  | .mdrn f => f.only [.stk, .acc, .tda, .tdb, .fn] && f.tda < 8 && f.fn < 2
  | .mst f => f.only [.acc, .tda, .fa, .wi, .wo, .fn] && (f.fa == 2 || f.fa == 8 || f.fa == 9 || f.fa == 10) && f.fn < 2
  | .mld f => f.only [.acc, .tda, .fa, .wi, .wo] && (f.fa == 2 || f.fa == 8)
  | .mzero f => f.only [.acc]
  | .mmov f => f.only [.acc, .tda] && f.tda < 8
  | .cp f | .cps f | .mcst f => f.only [.stk, .ch, .d, .a, .b, .wi, .wo]
  | .gld f => f.only [.stk, .ch, .d, .a, .b, .wi, .wo]
  | .pgret f | .pgrel f => f.only [.a]
  | .pgwb f => f.only [.ch, .a, .wi, .wo]
  | .l2pf f | .l2wb f | .l2inv f => f.only [.stk, .d, .a, .wi, .wo]
  | .pub f => f.only [.d, .a, .b, .wi, .wo]
  | .decl f => f.only [.d, .a]
  | .scfgLand f => f.only [.ch, .d, .a] && f.ch == 0
  | .scfgUnland f => f.only [.ch, .d, .a] && f.ch == 1
  | .scfgMbox f => f.only [.ch, .d, .a] && f.ch == 2
  | .scfgLimits f => f.only [.ch, .d, .a] && f.ch == 3
  | .scfgClass f => f.only [.ch, .d, .a] && f.ch == 4
  | .scfgPace f => f.only [.ch, .d, .a] && f.ch == 5
  | .scfgRead f => f.only [.ch, .d] && f.ch == 6
  | .walk f => f.only [.d, .a, .wi, .wo]
  | .permit f => f.only [.a, .b, .wi, .wo]
  | .rtset f => f.only [.d, .a, .b]
  | .rtrel f => f.only [.d, .a]
  | .fst f | .fmst f => f.only [.stk, .ch, .d, .a, .b, .wi, .wo] && f.ch < 4
  | .tkget f => f.only [.d, .a]
  | .tkwait f => f.only [.a, .wo] && f.wo.isSome
  | .tkdone f => f.only [.d, .a]
  | .rslot f => f.only [.d, .a]
  | .rsto f => f.only [.d, .a, .b, .wi, .wo]
  | .shcp f | .shdrn f => f.only [.a, .wo]
  | .partReset | .firmwareVerify | .clusterStart | .powerRampStep | .acceptStarts | .spdmGetVersion
  | .spdmGetCapabilities | .spdmNegotiateAlgorithms | .spdmGetDigests | .spdmGetCertificate | .spdmChallenge
  | .spdmGetMeasurements | .envelopeSelect | .accountingPeriodStart | .powerGrantDecision | .matrixBlockPowerRequest
  | .dillCommit | .dillRead | .temperatureSample | .mgmtAssignCore | .mgmtSetThymeIfc | .mgmtSetGroup
  | .mgmtSetFabricItems | .mgmtSetQuantumCeiling | .entryWrite | .registerWrite | .bundleIssue | .bundleCommit
  | .yieldBundle | .resultLanding | .asyncFaultDelivery | .hangDetect | .ephemeralExpiry | .refreshCycle
  | .launchEnqueue | .heldEntryPlace | .startWitnessSatisfied | .admission | .schedulerPick | .priorityAging
  | .contextWake | .budgetTopupApply | .exitQueueRetry | .evictionSaveDone | .portChunkArrival | .msclLanding
  | .mmaPerform | .engineFault | .mdrnPerform | .mstPerform | .mldPerform | .tileOpPerform | .l1Fill | .l1LineExpiry
  | .l1ModeChange | .l2Fill | .storePerform | .atomicPerform | .translationWalk | .pageRefillComplete | .copyStart
  | .copyTileComplete | .copyComplete | .mcstBranchArrival | .l2RangeComplete | .groupJoinArrival
  | .gldRequestArrival | .gldHoldEntryFreed | .holdTimerExpiry | .trailingEntryTimeout | .groupFillComplete
  | .barrierArrival | .witnessCollapse | .noticeArrival | .noticeResend | .retentionAnswer | .retentionTimeout
  | .pullStart | .autoDecline | .pullRead | .pullComplete | .walkTileMove | .thymeRevolution | .meshCrcReplay
  | .chiveMessageArrival | .chiveResendTimeout | .linkCrcRetry | .linkDown | .linkDownFlitReceipt
  | .circuitSlotBoundary | .fabricRequestDepart | .windowEnd | .closeMarkerReceipt | .windowTimeout
  | .fabricRequestArrival | .fabricReplyArrival | .retransmitTimeout | .replyCacheExpiry | .ticketCall
  | .ticketTimeout | .switchMulticastSplit | .reductionSlotAlloc | .reductionContribution | .reductionTimeout
  | .reductionResultWrite | .drainMarkerReceipt | .circuitSwitch | .relock | .remoteNoticeForward | .markedPageWrite
  | .bayDrainPage | .snapshotComplete | .supplyDroop | .writePerformedInBothViews | .fabricStoreSourceRead
  | .ticketRequestArrival => true

end Sys2Proof
end

