-- ==== Sys2Proof/Decode.lean ====
section
/-! DEFINITION. The decoder of slot words and bundle headers (R34–R55), total on any bits, and the encoder, both written from
the encoding tables of the manual. -/
namespace Sys2Proof

/-- Bit `i` of a word. -/
def bitAt {n : Nat} (w : BitVec n) (i : Nat) : Bool := w.getLsbD i

/-- The `len` bits of `w` from bit `lo`. -/
abbrev bits {n : Nat} (w : BitVec n) (lo len : Nat) : BitVec len := w.extractLsb' lo len

/-- A witness field (R40): none where V = 0 and the index is not zero. -/
def parseWF (f : BitVec 6) : Option WF :=
  if bitAt f 5 then some (some (bits f 0 5)) else if f = 0 then some none else none

/-- The six bits of a witness field (R40). -/
def wfBits : WF → BitVec 6
  | none => 0
  | some x => 1#1 ++ x

/-- The fields of an S.R word (R45). -/
def parseSR (w : Word) : Option SR :=
  match parseWF (bits w 18 6), parseWF (bits w 12 6), parseWF (bits w 6 6) with
  | some wi1, some wi2, some wo =>
    some { stk := bitAt w 55, ty := bits w 52 3, kneg := bitAt w 51, k := bits w 48 3, d := bits w 42 6, a := bits w 36 6,
           b := bits w 30 6, c := bits w 24 6, wi1 := wi1, wi2 := wi2, wo := wo, fn := bits w 0 6 }
  | _, _, _ => none

/-- The word of an S.R instruction (R45). -/
def SR.word (op : BitVec 8) (f : SR) : Word :=
  op ++ BitVec.ofBool f.stk ++ f.ty ++ BitVec.ofBool f.kneg ++ f.k ++ f.d ++ f.a ++ f.b ++ f.c ++ wfBits f.wi1 ++
    wfBits f.wi2 ++ wfBits f.wo ++ f.fn

/-- The fields of an S.I word (R45). -/
def parseSI (w : Word) : SI :=
  { stk := bitAt w 55, ty := bits w 52 3, kneg := bitAt w 51, k := bits w 48 3, d := bits w 42 6, a := bits w 36 6,
    imm := bits w 0 36 }

/-- The word of an S.I instruction (R45). -/
def SI.word (op : BitVec 8) (f : SI) : Word :=
  op ++ BitVec.ofBool f.stk ++ f.ty ++ BitVec.ofBool f.kneg ++ f.k ++ f.d ++ f.a ++ f.imm

/-- The fields of an S.M word (R45). -/
def parseSM (w : Word) : Option SM :=
  match parseWF (bits w 30 6), parseWF (bits w 24 6), parseWF (bits w 18 6) with
  | some wi1, some wi2, some wo =>
    some { stk := bitAt w 55, ty := bits w 52 3, kneg := bitAt w 51, k := bits w 48 3, d := bits w 42 6, base := bits w 36 6,
           wi1 := wi1, wi2 := wi2, wo := wo, addr := bits w 0 18 }
  | _, _, _ => none

/-- The word of an S.M instruction (R45). -/
def SM.word (op : BitVec 8) (f : SM) : Word :=
  op ++ BitVec.ofBool f.stk ++ f.ty ++ BitVec.ofBool f.kneg ++ f.k ++ f.d ++ f.base ++ wfBits f.wi1 ++ wfBits f.wi2 ++
    wfBits f.wo ++ f.addr

/-- The fields of a vector word (R41), in slot V0 (`file` false) or V1. -/
def parseVO (file : Bool) (w : Word) : VO :=
  { file := file, stk := bitAt w 55, fmt := bits w 51 4, qp := bits w 47 4, d := bits w 36 11, a := bits w 25 11,
    b := bits w 14 11, c := bits w 3 11, e := bitAt w 2, pn := bitAt w 1, sat := bitAt w 0 }

/-- The word of a vector instruction (R41). -/
def VO.word (op : BitVec 8) (f : VO) : Word :=
  op ++ BitVec.ofBool f.stk ++ f.fmt ++ f.qp ++ f.d ++ f.a ++ f.b ++ f.c ++ BitVec.ofBool f.e ++ BitVec.ofBool f.pn ++
    BitVec.ofBool f.sat

/-- The fields of a matrix word (R46). -/
def parseMO (w : Word) : Option MO :=
  match parseWF (bits w 24 6), parseWF (bits w 18 6), parseWF (bits w 12 6), parseWF (bits w 6 6) with
  | some wi1, some wi2, some wi3, some wo =>
    some { stk := bitAt w 55, acc := bits w 52 3, tda := bits w 48 4, tdb := bits w 44 4, ea := bits w 41 3,
             eb := bits w 38 3, fa := bits w 34 4, fb := bits w 30 4, wi1 := wi1, wi2 := wi2, wi3 := wi3, wo := wo,
             fn := bits w 3 3, kstep := bits w 0 3 }
  | _, _, _, _ => none

/-- The word of a matrix instruction (R46). -/
def MO.word (op : BitVec 8) (f : MO) : Word :=
  op ++ BitVec.ofBool f.stk ++ f.acc ++ f.tda ++ f.tdb ++ f.ea ++ f.eb ++ f.fa ++ f.fb ++ wfBits f.wi1 ++ wfBits f.wi2 ++
    wfBits f.wi3 ++ wfBits f.wo ++ f.fn ++ f.kstep

/-- The fields of a copy word (R47), in slot C0 (`file` false) or C1. -/
def parseCO (file : Bool) (w : Word) : Option CO :=
  match parseWF (bits w 31 6), parseWF (bits w 25 6), parseWF (bits w 19 6), parseWF (bits w 13 6) with
  | some wi1, some wi2, some wi3, some wo =>
    some { file := file, stk := bitAt w 55, ch := bits w 52 3, d := bits w 47 5, a := bits w 42 5, b := bits w 37 5,
           wi1 := wi1, wi2 := wi2, wi3 := wi3, wo := wo, step := bits w 0 13 }
  | _, _, _, _ => none

/-- The word of a copy instruction (R47). -/
def CO.word (op : BitVec 8) (f : CO) : Word :=
  op ++ BitVec.ofBool f.stk ++ f.ch ++ f.d ++ f.a ++ f.b ++ wfBits f.wi1 ++ wfBits f.wi2 ++ wfBits f.wi3 ++ wfBits f.wo ++
    f.step

/-- Why a slot word is refused: its opcode is missing (`ILLOP`) or a field is forbidden (`ILLENC`) (R50). -/
inductive DecErr where
  | illop | illenc
  deriving DecidableEq, Repr

/-- A parsed instruction, refused with `ILLENC` unless its fields are those its entry admits (R48, R50). -/
def checkFields (i : Option Instr) : Except DecErr Instr :=
  match i with
  | some i => if i.wf then .ok i else .error .illenc
  | none => .error .illenc

/-- The rows that share opcode 0x2C, told apart by a field; a value no row has is `none` (`ILLENC`). -/
def pickS2C (f : SR) : Option Instr :=
  match f.fn.toNat with
  | 0 => some (.kmovK f)
  | 1 => some (.kmovToS f)
  | 2 => some (.kmovFromS f)
  | _ => none

/-- The rows that share opcode 0x82, told apart by a field; a value no row has is `none` (`ILLENC`). -/
def pickS82 (f : SR) : Option Instr :=
  match f.fn.toNat with
  | 0 => some (.wtst f)
  | 1 => some (.wtstPoisoned f)
  | 2 => some (.wtstLanded f)
  | _ => none

/-- The rows that share opcode 0x93, told apart by a field; a value no row has is `none` (`ILLENC`). -/
def pickS93 (f : SR) : Option Instr :=
  match f.fn.toNat with
  | 0 => some (.barw f)
  | 1 => some (.barwRearm f)
  | 2 => some (.barwTest f)
  | _ => none

/-- The rows that share opcode 0xC4, told apart by a field; a value no row has is `none` (`ILLENC`). -/
def pickSC4 (f : SR) : Option Instr :=
  match f.fn.toNat with
  | 0 => some (.cslotXlat f)
  | 1 => some (.cslotQi f)
  | 2 => some (.cslotQm f)
  | 3 => some (.cslotPolicy f)
  | 4 => some (.cslotDump f)
  | 5 => some (.cslotDumpack f)
  | 6 => some (.cslotEvents f)
  | 7 => some (.cslotThyme f)
  | 8 => some (.cslotGroup f)
  | 9 => some (.cslotSched f)
  | 10 => some (.cslotT0 f)
  | 11 => some (.cslotRoute f)
  | 12 => some (.cslotWindow f)
  | 13 => some (.cslotCallmax f)
  | 14 => some (.cslotThaw f)
  | _ => none

/-- The rows that share opcode 0xC5, told apart by a field; a value no row has is `none` (`ILLENC`). -/
def pickSC5 (f : SR) : Option Instr :=
  match f.fn.toNat with
  | 0 => some (.fdrain f)
  | 1 => some (.fdrainLock f)
  | _ => none

/-- The rows that share opcode 0xC6, told apart by a field; a value no row has is `none` (`ILLENC`). -/
def pickSC6 (f : SR) : Option Instr :=
  match f.fn.toNat with
  | 0 => some (.snapAt f)
  | 1 => some (.snapAtStep f)
  | _ => none

/-- The rows that share opcode 0xA1, told apart by a field; a value no row has is `none` (`ILLENC`). -/
def pickA1 (f : SI) : Option Instr :=
  match f.ty.toNat with
  | 0 => some (.contLabel f)
  | 1 => some (.contReg f)
  | _ => none

/-- The rows that share opcode 0xC1, told apart by a field; a value no row has is `none` (`ILLENC`). -/
def pickXmv (f : VO) : Option Instr :=
  match f.c.toNat % 8 with
  | 0 => some (.xmvVec f)
  | 1 => some (.xmvPred f)
  | 2 => some (.xmvToS f)
  | 3 => some (.xmvFromS f)
  | 4 => some (.xmvToC f)
  | 5 => some (.xmvPredToS f)
  | _ => none

/-- The rows that share opcode 0xD6, told apart by a field; a value no row has is `none` (`ILLENC`). -/
def pickQset (f : VO) : Option Instr :=
  match f.c.toNat with
  | 0 => some (.qsetNone f)
  | 1 => some (.qsetAll f)
  | 2 => some (.qsetFirst f)
  | 3 => some (.qsetNz f)
  | _ => none

/-- The rows that share opcode 0x11, told apart by a field; a value no row has is `none` (`ILLENC`). -/
def pickTdset (f : MO) : Option Instr :=
  match f.fn.toNat with
  | 0 => some (.tdsetAdd f)
  | 1 => some (.tdsetLo f)
  | 2 => some (.tdsetHi f)
  | 3 => some (.tdsetKorg f)
  | 4 => some (.tdsetShape f)
  | 5 => some (.tdsetStride f)
  | 6 => some (.tdsetView f)
  | _ => none

/-- The rows that share opcode 0x42, told apart by a field; a value no row has is `none` (`ILLENC`). -/
def pickScfg (f : CO) : Option Instr :=
  match f.ch.toNat with
  | 0 => some (.scfgLand f)
  | 1 => some (.scfgUnland f)
  | 2 => some (.scfgMbox f)
  | 3 => some (.scfgLimits f)
  | 4 => some (.scfgClass f)
  | 5 => some (.scfgPace f)
  | 6 => some (.scfgRead f)
  | _ => none

/-- The instruction of a slot word under the S map (R51). -/
def decodeS (w : Word) : Except DecErr Instr :=
  match (bits w 56 8).toNat with
  | 0x00 => if bits w 0 55 = 0 then .ok (.nop .s (bitAt w 55)) else .error .illenc
  | 0x01 => checkFields ((parseSR w).map Instr.add)
  | 0x02 => checkFields ((parseSR w).map Instr.sub)
  | 0x03 => checkFields ((parseSR w).map Instr.mul)
  | 0x04 => checkFields ((parseSR w).map Instr.mulh)
  | 0x05 => checkFields ((parseSR w).map Instr.div)
  | 0x06 => checkFields ((parseSR w).map Instr.rem)
  | 0x07 => checkFields ((parseSR w).map Instr.min)
  | 0x08 => checkFields ((parseSR w).map Instr.max)
  | 0x09 => checkFields ((parseSR w).map Instr.and)
  | 0x0A => checkFields ((parseSR w).map Instr.or)
  | 0x0B => checkFields ((parseSR w).map Instr.xor)
  | 0x0C => checkFields ((parseSR w).map Instr.shl)
  | 0x0D => checkFields ((parseSR w).map Instr.shr)
  | 0x0E => checkFields ((parseSR w).map Instr.rot)
  | 0x0F => checkFields ((parseSR w).map Instr.sel)
  | 0x10 => checkFields (some (.addi (parseSI w)))
  | 0x11 => checkFields (some (.muli (parseSI w)))
  | 0x12 => checkFields (some (.andi (parseSI w)))
  | 0x13 => checkFields (some (.ori (parseSI w)))
  | 0x14 => checkFields (some (.xori (parseSI w)))
  | 0x15 => checkFields (some (.shli (parseSI w)))
  | 0x16 => checkFields (some (.shri (parseSI w)))
  | 0x17 => checkFields (some (.li (parseSI w)))
  | 0x18 => checkFields (some (.lih (parseSI w)))
  | 0x20 => checkFields ((parseSR w).map Instr.cmpeq)
  | 0x21 => checkFields ((parseSR w).map Instr.cmpne)
  | 0x22 => checkFields ((parseSR w).map Instr.cmplt)
  | 0x23 => checkFields ((parseSR w).map Instr.cmple)
  | 0x24 => checkFields (some (.cmpeqi (parseSI w)))
  | 0x25 => checkFields (some (.cmpnei (parseSI w)))
  | 0x26 => checkFields (some (.cmplti (parseSI w)))
  | 0x27 => checkFields (some (.cmplei (parseSI w)))
  | 0x28 => checkFields ((parseSR w).map Instr.kand)
  | 0x29 => checkFields ((parseSR w).map Instr.kor)
  | 0x2A => checkFields ((parseSR w).map Instr.kxor)
  | 0x2B => checkFields ((parseSR w).map Instr.knot)
  | 0x2C => checkFields ((parseSR w).bind pickS2C)
  | 0x30 => checkFields ((parseSR w).map Instr.bfx)
  | 0x31 => checkFields ((parseSR w).map Instr.bfi)
  | 0x32 => checkFields ((parseSR w).map Instr.clz)
  | 0x33 => checkFields ((parseSR w).map Instr.ctz)
  | 0x34 => checkFields ((parseSR w).map Instr.popc)
  | 0x35 => checkFields ((parseSR w).map Instr.bswap)
  | 0x40 => checkFields (some (.br (parseSI w)))
  | 0x41 => checkFields (some (.call (parseSI w)))
  | 0x42 => checkFields ((parseSR w).map Instr.brr)
  | 0x43 => checkFields ((parseSR w).map Instr.callr)
  | 0x44 => checkFields ((parseSR w).map Instr.ret)
  | 0x48 => checkFields (some (.loop (parseSI w)))
  | 0x4A => checkFields (some (.trap (parseSI w)))
  | 0x60 => checkFields ((parseSM w).map Instr.ld)
  | 0x61 => checkFields ((parseSM w).map Instr.st)
  | 0x62 => checkFields ((parseSM w).map Instr.pref)
  | 0x63 => checkFields ((parseSM w).map Instr.wb)
  | 0x64 => checkFields ((parseSM w).map Instr.inv)
  | 0x65 => checkFields ((parseSR w).map Instr.vjoin)
  | 0x70 => checkFields ((parseSM w).map Instr.aadd)
  | 0x71 => checkFields ((parseSM w).map Instr.amin)
  | 0x72 => checkFields ((parseSM w).map Instr.amax)
  | 0x73 => checkFields ((parseSM w).map Instr.aand)
  | 0x74 => checkFields ((parseSM w).map Instr.aor)
  | 0x75 => checkFields ((parseSM w).map Instr.axor)
  | 0x76 => checkFields ((parseSM w).map Instr.aswp)
  | 0x77 => checkFields ((parseSR w).map Instr.acas)
  | 0x80 => checkFields ((parseSR w).map Instr.wmrg)
  | 0x81 => checkFields ((parseSR w).map Instr.wall)
  | 0x82 => checkFields ((parseSR w).bind pickS82)
  | 0x83 => checkFields ((parseSR w).map Instr.wwait)
  | 0x84 => checkFields ((parseSR w).map Instr.wrd)
  | 0x85 => checkFields ((parseSR w).map Instr.wset)
  | 0x90 => checkFields (some (.bari (parseSI w)))
  | 0x91 => checkFields ((parseSR w).map Instr.barl)
  | 0x92 => checkFields ((parseSR w).map Instr.barv)
  | 0x93 => checkFields ((parseSR w).bind pickS93)
  | 0x98 => checkFields (some (.gjoin (parseSI w)))
  | 0x99 => checkFields (some (.gleave (parseSI w)))
  | 0xA0 => checkFields ((parseSR w).map Instr.exit)
  | 0xA1 => checkFields ((some (parseSI w)).bind pickA1)
  | 0xA2 => checkFields ((parseSR w).map Instr.budrd)
  | 0xA3 => checkFields ((parseSR w).map Instr.budadd)
  | 0xB0 => checkFields (some (.mfsr (parseSI w)))
  | 0xB1 => checkFields (some (.mtsr (parseSI w)))
  | 0xB2 => checkFields ((parseSR w).map Instr.tret)
  | 0xB3 => checkFields ((parseSR w).map Instr.tkill)
  | 0xC0 => checkFields ((parseSR w).map Instr.launch)
  | 0xC1 => checkFields ((parseSR w).map Instr.cwait)
  | 0xC2 => checkFields ((parseSR w).map Instr.hsig)
  | 0xC3 => checkFields ((parseSR w).map Instr.xinv)
  | 0xC4 => checkFields ((parseSR w).bind pickSC4)
  | 0xC5 => checkFields ((parseSR w).bind pickSC5)
  | 0xC6 => checkFields ((parseSR w).bind pickSC6)
  | 0xC7 => checkFields ((parseSR w).map Instr.snapDis)
  | _ => .error .illop

/-- The instruction of a slot word under the V map (R52). -/
def decodeV (file : Bool) (w : Word) : Except DecErr Instr :=
  match (bits w 56 8).toNat with
  | 0x00 => if bits w 0 55 = 0 then .ok (.nop (if file then .v1 else .v0) (bitAt w 55)) else .error .illenc
  | 0x01 => checkFields (some (.vadd (parseVO file w)))
  | 0x02 => checkFields (some (.vsub (parseVO file w)))
  | 0x03 => checkFields (some (.vmul (parseVO file w)))
  | 0x04 => checkFields (some (.vfma (parseVO file w)))
  | 0x05 => checkFields (some (.vfms (parseVO file w)))
  | 0x06 => checkFields (some (.vfnma (parseVO file w)))
  | 0x07 => checkFields (some (.vmax (parseVO file w)))
  | 0x08 => checkFields (some (.vmin (parseVO file w)))
  | 0x09 => checkFields (some (.vabs (parseVO file w)))
  | 0x0A => checkFields (some (.vneg (parseVO file w)))
  | 0x0B => checkFields (some (.vcpsg (parseVO file w)))
  | 0x20 => checkFields (some (.vexp2 (parseVO file w)))
  | 0x21 => checkFields (some (.vlog2 (parseVO file w)))
  | 0x22 => checkFields (some (.vrcp (parseVO file w)))
  | 0x23 => checkFields (some (.vrsqrt (parseVO file w)))
  | 0x24 => checkFields (some (.vtanh (parseVO file w)))
  | 0x40 => checkFields (some (.viadd (parseVO file w)))
  | 0x41 => checkFields (some (.visub (parseVO file w)))
  | 0x42 => checkFields (some (.vimul (parseVO file w)))
  | 0x43 => checkFields (some (.vimad (parseVO file w)))
  | 0x44 => checkFields (some (.vimax (parseVO file w)))
  | 0x45 => checkFields (some (.vimin (parseVO file w)))
  | 0x46 => checkFields (some (.viabs (parseVO file w)))
  | 0x60 => checkFields (some (.vand (parseVO file w)))
  | 0x61 => checkFields (some (.vor (parseVO file w)))
  | 0x62 => checkFields (some (.vxor (parseVO file w)))
  | 0x63 => checkFields (some (.vnot (parseVO file w)))
  | 0x64 => checkFields (some (.vshl (parseVO file w)))
  | 0x65 => checkFields (some (.vshr (parseVO file w)))
  | 0x70 => checkFields (some (.vcmpEq (parseVO file w)))
  | 0x71 => checkFields (some (.vcmpNe (parseVO file w)))
  | 0x72 => checkFields (some (.vcmpLt (parseVO file w)))
  | 0x73 => checkFields (some (.vcmpLe (parseVO file w)))
  | 0x74 => checkFields (some (.vcmpTord (parseVO file w)))
  | 0x75 => checkFields (some (.vcmpUn (parseVO file w)))
  | 0x78 => checkFields (some (.vsel (parseVO file w)))
  | 0x79 => checkFields (some (.vcxc (parseVO file w)))
  | 0x80 => checkFields (some (.vcvt (parseVO file w)))
  | 0x81 => checkFields (some (.vpack (parseVO file w)))
  | 0x82 => checkFields (some (.vunpk (parseVO file w)))
  | 0x83 => checkFields (some (.vscl (parseVO file w)))
  | 0x84 => checkFields (some (.vqmx (parseVO file w)))
  | 0x85 => checkFields (some (.vseed (parseVO file w)))
  | 0xA0 => checkFields (some (.vperm (parseVO file w)))
  | 0xA1 => checkFields (some (.vbcast (parseVO file w)))
  | 0xA2 => checkFields (some (.vzip (parseVO file w)))
  | 0xA3 => checkFields (some (.vuzp (parseVO file w)))
  | 0xB0 => checkFields (some (.vrsum (parseVO file w)))
  | 0xB1 => checkFields (some (.vrmax (parseVO file w)))
  | 0xB2 => checkFields (some (.vrmin (parseVO file w)))
  | 0xB3 => checkFields (some (.vramax (parseVO file w)))
  | 0xB4 => checkFields (some (.virsum (parseVO file w)))
  | 0xC0 => checkFields (some (.vmov (parseVO file w)))
  | 0xC1 => checkFields ((some (parseVO file w)).bind pickXmv)
  | 0xC2 => checkFields (some (.vld (parseVO file w)))
  | 0xC3 => checkFields (some (.vst (parseVO file w)))
  | 0xC4 => checkFields (some (.vgth (parseVO file w)))
  | 0xC5 => checkFields (some (.vsct (parseVO file w)))
  | 0xD0 => checkFields (some (.pcfg (parseVO file w)))
  | 0xD1 => checkFields (some (.pskip (parseVO file w)))
  | 0xD2 => checkFields (some (.qand (parseVO file w)))
  | 0xD3 => checkFields (some (.qor (parseVO file w)))
  | 0xD4 => checkFields (some (.qxor (parseVO file w)))
  | 0xD5 => checkFields (some (.qnot (parseVO file w)))
  | 0xD6 => checkFields ((some (parseVO file w)).bind pickQset)
  | _ => .error .illop

/-- The instruction of a slot word under the M map (R53). -/
def decodeM (w : Word) : Except DecErr Instr :=
  match (bits w 56 8).toNat with
  | 0x00 => if bits w 0 55 = 0 then .ok (.nop .m (bitAt w 55)) else .error .illenc
  | 0x01 => checkFields ((parseMO w).map Instr.mma)
  | 0x02 => checkFields ((parseMO w).map Instr.mmaz)
  | 0x10 => checkFields ((parseMO w).map Instr.tdld)
  | 0x11 => checkFields ((parseMO w).bind pickTdset)
  | 0x12 => checkFields ((parseMO w).map Instr.mscl)
  | 0x20 => checkFields ((parseMO w).map Instr.mdrn)
  | 0x21 => checkFields ((parseMO w).map Instr.mst)
  | 0x22 => checkFields ((parseMO w).map Instr.mzero)
  | 0x23 => checkFields ((parseMO w).map Instr.mmov)
  | 0x24 => checkFields ((parseMO w).map Instr.mld)
  | _ => .error .illop

/-- The instruction of a slot word under the C map (R54). -/
def decodeC (file : Bool) (w : Word) : Except DecErr Instr :=
  match (bits w 56 8).toNat with
  | 0x00 => if bits w 0 55 = 0 then .ok (.nop (if file then .c1 else .c0) (bitAt w 55)) else .error .illenc
  | 0x01 => checkFields ((parseCO file w).map Instr.cp)
  | 0x02 => checkFields ((parseCO file w).map Instr.cps)
  | 0x03 => checkFields ((parseCO file w).map Instr.mcst)
  | 0x04 => checkFields ((parseCO file w).map Instr.gld)
  | 0x20 => checkFields ((parseCO file w).map Instr.pgret)
  | 0x21 => checkFields ((parseCO file w).map Instr.pgrel)
  | 0x22 => checkFields ((parseCO file w).map Instr.pgwb)
  | 0x28 => checkFields ((parseCO file w).map Instr.l2pf)
  | 0x29 => checkFields ((parseCO file w).map Instr.l2wb)
  | 0x2A => checkFields ((parseCO file w).map Instr.l2inv)
  | 0x40 => checkFields ((parseCO file w).map Instr.pub)
  | 0x41 => checkFields ((parseCO file w).map Instr.decl)
  | 0x42 => checkFields ((parseCO file w).bind pickScfg)
  | 0x43 => checkFields ((parseCO file w).map Instr.walk)
  | 0x44 => checkFields ((parseCO file w).map Instr.permit)
  | 0x45 => checkFields ((parseCO file w).map Instr.rtset)
  | 0x46 => checkFields ((parseCO file w).map Instr.rtrel)
  | 0x60 => checkFields ((parseCO file w).map Instr.fst)
  | 0x61 => checkFields ((parseCO file w).map Instr.fmst)
  | 0x62 => checkFields ((parseCO file w).map Instr.tkget)
  | 0x63 => checkFields ((parseCO file w).map Instr.tkwait)
  | 0x64 => checkFields ((parseCO file w).map Instr.tkdone)
  | 0x65 => checkFields ((parseCO file w).map Instr.rslot)
  | 0x66 => checkFields ((parseCO file w).map Instr.rsto)
  | 0x80 => checkFields ((parseCO file w).map Instr.shcp)
  | 0x81 => checkFields ((parseCO file w).map Instr.shdrn)
  | _ => .error .illop

/-- The instruction of a slot word in a slot: the slot picks the map, and the opcode in bits 63:56 the instruction (R39). -/
def decodeSlot (sl : Slot) (w : Word) : Except DecErr Instr :=
  match sl with
  | .s => decodeS w
  | .v0 => decodeV false w
  | .v1 => decodeV true w
  | .m => decodeM w
  | .c0 => decodeC false w
  | .c1 => decodeC true w

/-- The slot of a V word's or a C word's file. -/
def vSlot (file : Bool) : Slot := if file then .v1 else .v0

/-- The slot of a C word's file. -/
def cSlot (file : Bool) : Slot := if file then .c1 else .c0

/-- The slot and word of an instruction that is a slot word; a step of the part's engines has none. -/
def encode (i : Instr) : Option (Slot × Word) :=
  match i with
  | .nop sl stk => some (sl, 0#8 ++ BitVec.ofBool stk ++ 0#55)
  | .add f => some (.s, f.word 0x01)
  | .sub f => some (.s, f.word 0x02)
  | .mul f => some (.s, f.word 0x03)
  | .mulh f => some (.s, f.word 0x04)
  | .div f => some (.s, f.word 0x05)
  | .rem f => some (.s, f.word 0x06)
  | .min f => some (.s, f.word 0x07)
  | .max f => some (.s, f.word 0x08)
  | .and f => some (.s, f.word 0x09)
  | .or f => some (.s, f.word 0x0A)
  | .xor f => some (.s, f.word 0x0B)
  | .shl f => some (.s, f.word 0x0C)
  | .shr f => some (.s, f.word 0x0D)
  | .rot f => some (.s, f.word 0x0E)
  | .sel f => some (.s, f.word 0x0F)
  | .addi f => some (.s, f.word 0x10)
  | .muli f => some (.s, f.word 0x11)
  | .andi f => some (.s, f.word 0x12)
  | .ori f => some (.s, f.word 0x13)
  | .xori f => some (.s, f.word 0x14)
  | .shli f => some (.s, f.word 0x15)
  | .shri f => some (.s, f.word 0x16)
  | .li f => some (.s, f.word 0x17)
  | .lih f => some (.s, f.word 0x18)
  | .cmpeq f => some (.s, f.word 0x20)
  | .cmpne f => some (.s, f.word 0x21)
  | .cmplt f => some (.s, f.word 0x22)
  | .cmple f => some (.s, f.word 0x23)
  | .cmpeqi f => some (.s, f.word 0x24)
  | .cmpnei f => some (.s, f.word 0x25)
  | .cmplti f => some (.s, f.word 0x26)
  | .cmplei f => some (.s, f.word 0x27)
  | .kand f => some (.s, f.word 0x28)
  | .kor f => some (.s, f.word 0x29)
  | .kxor f => some (.s, f.word 0x2A)
  | .knot f => some (.s, f.word 0x2B)
  | .kmovK f => some (.s, f.word 0x2C)
  | .kmovToS f => some (.s, f.word 0x2C)
  | .kmovFromS f => some (.s, f.word 0x2C)
  | .bfx f => some (.s, f.word 0x30)
  | .bfi f => some (.s, f.word 0x31)
  | .clz f => some (.s, f.word 0x32)
  | .ctz f => some (.s, f.word 0x33)
  | .popc f => some (.s, f.word 0x34)
  | .bswap f => some (.s, f.word 0x35)
  | .br f => some (.s, f.word 0x40)
  | .call f => some (.s, f.word 0x41)
  | .brr f => some (.s, f.word 0x42)
  | .callr f => some (.s, f.word 0x43)
  | .ret f => some (.s, f.word 0x44)
  | .loop f => some (.s, f.word 0x48)
  | .trap f => some (.s, f.word 0x4A)
  | .mfsr f => some (.s, f.word 0xB0)
  | .mtsr f => some (.s, f.word 0xB1)
  | .bari f => some (.s, f.word 0x90)
  | .barl f => some (.s, f.word 0x91)
  | .barv f => some (.s, f.word 0x92)
  | .barw f => some (.s, f.word 0x93)
  | .barwRearm f => some (.s, f.word 0x93)
  | .barwTest f => some (.s, f.word 0x93)
  | .tret f => some (.s, f.word 0xB2)
  | .tkill f => some (.s, f.word 0xB3)
  | .ld f => some (.s, f.word 0x60)
  | .st f => some (.s, f.word 0x61)
  | .pref f => some (.s, f.word 0x62)
  | .wb f => some (.s, f.word 0x63)
  | .inv f => some (.s, f.word 0x64)
  | .aadd f => some (.s, f.word 0x70)
  | .amin f => some (.s, f.word 0x71)
  | .amax f => some (.s, f.word 0x72)
  | .aand f => some (.s, f.word 0x73)
  | .aor f => some (.s, f.word 0x74)
  | .axor f => some (.s, f.word 0x75)
  | .aswp f => some (.s, f.word 0x76)
  | .acas f => some (.s, f.word 0x77)
  | .vjoin f => some (.s, f.word 0x65)
  | .wmrg f => some (.s, f.word 0x80)
  | .wall f => some (.s, f.word 0x81)
  | .wtst f => some (.s, f.word 0x82)
  | .wtstPoisoned f => some (.s, f.word 0x82)
  | .wtstLanded f => some (.s, f.word 0x82)
  | .wwait f => some (.s, f.word 0x83)
  | .wrd f => some (.s, f.word 0x84)
  | .wset f => some (.s, f.word 0x85)
  | .exit f => some (.s, f.word 0xA0)
  | .contLabel f => some (.s, f.word 0xA1)
  | .contReg f => some (.s, f.word 0xA1)
  | .budrd f => some (.s, f.word 0xA2)
  | .budadd f => some (.s, f.word 0xA3)
  | .gjoin f => some (.s, f.word 0x98)
  | .gleave f => some (.s, f.word 0x99)
  | .launch f => some (.s, f.word 0xC0)
  | .cwait f => some (.s, f.word 0xC1)
  | .hsig f => some (.s, f.word 0xC2)
  | .xinv f => some (.s, f.word 0xC3)
  | .cslotXlat f => some (.s, f.word 0xC4)
  | .cslotQi f => some (.s, f.word 0xC4)
  | .cslotQm f => some (.s, f.word 0xC4)
  | .cslotPolicy f => some (.s, f.word 0xC4)
  | .cslotDump f => some (.s, f.word 0xC4)
  | .cslotDumpack f => some (.s, f.word 0xC4)
  | .cslotEvents f => some (.s, f.word 0xC4)
  | .cslotThyme f => some (.s, f.word 0xC4)
  | .cslotGroup f => some (.s, f.word 0xC4)
  | .cslotSched f => some (.s, f.word 0xC4)
  | .cslotT0 f => some (.s, f.word 0xC4)
  | .cslotRoute f => some (.s, f.word 0xC4)
  | .cslotWindow f => some (.s, f.word 0xC4)
  | .cslotCallmax f => some (.s, f.word 0xC4)
  | .cslotThaw f => some (.s, f.word 0xC4)
  | .fdrain f => some (.s, f.word 0xC5)
  | .fdrainLock f => some (.s, f.word 0xC5)
  | .snapAt f => some (.s, f.word 0xC6)
  | .snapAtStep f => some (.s, f.word 0xC6)
  | .snapDis f => some (.s, f.word 0xC7)
  | .vadd f => some (vSlot f.file, f.word 0x01)
  | .vsub f => some (vSlot f.file, f.word 0x02)
  | .vmul f => some (vSlot f.file, f.word 0x03)
  | .vfma f => some (vSlot f.file, f.word 0x04)
  | .vfms f => some (vSlot f.file, f.word 0x05)
  | .vfnma f => some (vSlot f.file, f.word 0x06)
  | .vmax f => some (vSlot f.file, f.word 0x07)
  | .vmin f => some (vSlot f.file, f.word 0x08)
  | .vabs f => some (vSlot f.file, f.word 0x09)
  | .vneg f => some (vSlot f.file, f.word 0x0A)
  | .vcpsg f => some (vSlot f.file, f.word 0x0B)
  | .vexp2 f => some (vSlot f.file, f.word 0x20)
  | .vlog2 f => some (vSlot f.file, f.word 0x21)
  | .vrcp f => some (vSlot f.file, f.word 0x22)
  | .vrsqrt f => some (vSlot f.file, f.word 0x23)
  | .vtanh f => some (vSlot f.file, f.word 0x24)
  | .viadd f => some (vSlot f.file, f.word 0x40)
  | .visub f => some (vSlot f.file, f.word 0x41)
  | .vimul f => some (vSlot f.file, f.word 0x42)
  | .vimad f => some (vSlot f.file, f.word 0x43)
  | .vimax f => some (vSlot f.file, f.word 0x44)
  | .vimin f => some (vSlot f.file, f.word 0x45)
  | .viabs f => some (vSlot f.file, f.word 0x46)
  | .vand f => some (vSlot f.file, f.word 0x60)
  | .vor f => some (vSlot f.file, f.word 0x61)
  | .vxor f => some (vSlot f.file, f.word 0x62)
  | .vnot f => some (vSlot f.file, f.word 0x63)
  | .vshl f => some (vSlot f.file, f.word 0x64)
  | .vshr f => some (vSlot f.file, f.word 0x65)
  | .vcmpEq f => some (vSlot f.file, f.word 0x70)
  | .vcmpNe f => some (vSlot f.file, f.word 0x71)
  | .vcmpLt f => some (vSlot f.file, f.word 0x72)
  | .vcmpLe f => some (vSlot f.file, f.word 0x73)
  | .vcmpTord f => some (vSlot f.file, f.word 0x74)
  | .vcmpUn f => some (vSlot f.file, f.word 0x75)
  | .vsel f => some (vSlot f.file, f.word 0x78)
  | .vcxc f => some (vSlot f.file, f.word 0x79)
  | .vcvt f => some (vSlot f.file, f.word 0x80)
  | .vpack f => some (vSlot f.file, f.word 0x81)
  | .vunpk f => some (vSlot f.file, f.word 0x82)
  | .vscl f => some (vSlot f.file, f.word 0x83)
  | .vqmx f => some (vSlot f.file, f.word 0x84)
  | .vseed f => some (vSlot f.file, f.word 0x85)
  | .vperm f => some (vSlot f.file, f.word 0xA0)
  | .vbcast f => some (vSlot f.file, f.word 0xA1)
  | .vzip f => some (vSlot f.file, f.word 0xA2)
  | .vuzp f => some (vSlot f.file, f.word 0xA3)
  | .vrsum f => some (vSlot f.file, f.word 0xB0)
  | .vrmax f => some (vSlot f.file, f.word 0xB1)
  | .vrmin f => some (vSlot f.file, f.word 0xB2)
  | .vramax f => some (vSlot f.file, f.word 0xB3)
  | .virsum f => some (vSlot f.file, f.word 0xB4)
  | .vmov f => some (vSlot f.file, f.word 0xC0)
  | .xmvVec f => some (vSlot f.file, f.word 0xC1)
  | .xmvPred f => some (vSlot f.file, f.word 0xC1)
  | .xmvToS f => some (vSlot f.file, f.word 0xC1)
  | .xmvFromS f => some (vSlot f.file, f.word 0xC1)
  | .xmvToC f => some (vSlot f.file, f.word 0xC1)
  | .xmvPredToS f => some (vSlot f.file, f.word 0xC1)
  | .vld f => some (vSlot f.file, f.word 0xC2)
  | .vst f => some (vSlot f.file, f.word 0xC3)
  | .vgth f => some (vSlot f.file, f.word 0xC4)
  | .vsct f => some (vSlot f.file, f.word 0xC5)
  | .pcfg f => some (vSlot f.file, f.word 0xD0)
  | .pskip f => some (vSlot f.file, f.word 0xD1)
  | .qand f => some (vSlot f.file, f.word 0xD2)
  | .qor f => some (vSlot f.file, f.word 0xD3)
  | .qxor f => some (vSlot f.file, f.word 0xD4)
  | .qnot f => some (vSlot f.file, f.word 0xD5)
  | .qsetNone f => some (vSlot f.file, f.word 0xD6)
  | .qsetAll f => some (vSlot f.file, f.word 0xD6)
  | .qsetFirst f => some (vSlot f.file, f.word 0xD6)
  | .qsetNz f => some (vSlot f.file, f.word 0xD6)
  | .mma f => some (.m, f.word 0x01)
  | .mmaz f => some (.m, f.word 0x02)
  | .tdld f => some (.m, f.word 0x10)
  | .tdsetAdd f => some (.m, f.word 0x11)
  | .tdsetLo f => some (.m, f.word 0x11)
  | .tdsetHi f => some (.m, f.word 0x11)
  | .tdsetKorg f => some (.m, f.word 0x11)
  | .tdsetShape f => some (.m, f.word 0x11)
  | .tdsetStride f => some (.m, f.word 0x11)
  | .tdsetView f => some (.m, f.word 0x11)
  | .mscl f => some (.m, f.word 0x12)
  | .mdrn f => some (.m, f.word 0x20)
  | .mst f => some (.m, f.word 0x21)
  | .mld f => some (.m, f.word 0x24)
  | .mzero f => some (.m, f.word 0x22)
  | .mmov f => some (.m, f.word 0x23)
  | .cp f => some (cSlot f.file, f.word 0x01)
  | .cps f => some (cSlot f.file, f.word 0x02)
  | .mcst f => some (cSlot f.file, f.word 0x03)
  | .gld f => some (cSlot f.file, f.word 0x04)
  | .pgret f => some (cSlot f.file, f.word 0x20)
  | .pgrel f => some (cSlot f.file, f.word 0x21)
  | .pgwb f => some (cSlot f.file, f.word 0x22)
  | .l2pf f => some (cSlot f.file, f.word 0x28)
  | .l2wb f => some (cSlot f.file, f.word 0x29)
  | .l2inv f => some (cSlot f.file, f.word 0x2A)
  | .pub f => some (cSlot f.file, f.word 0x40)
  | .decl f => some (cSlot f.file, f.word 0x41)
  | .scfgLand f => some (cSlot f.file, f.word 0x42)
  | .scfgUnland f => some (cSlot f.file, f.word 0x42)
  | .scfgMbox f => some (cSlot f.file, f.word 0x42)
  | .scfgLimits f => some (cSlot f.file, f.word 0x42)
  | .scfgClass f => some (cSlot f.file, f.word 0x42)
  | .scfgPace f => some (cSlot f.file, f.word 0x42)
  | .scfgRead f => some (cSlot f.file, f.word 0x42)
  | .walk f => some (cSlot f.file, f.word 0x43)
  | .permit f => some (cSlot f.file, f.word 0x44)
  | .rtset f => some (cSlot f.file, f.word 0x45)
  | .rtrel f => some (cSlot f.file, f.word 0x46)
  | .fst f => some (cSlot f.file, f.word 0x60)
  | .fmst f => some (cSlot f.file, f.word 0x61)
  | .tkget f => some (cSlot f.file, f.word 0x62)
  | .tkwait f => some (cSlot f.file, f.word 0x63)
  | .tkdone f => some (cSlot f.file, f.word 0x64)
  | .rslot f => some (cSlot f.file, f.word 0x65)
  | .rsto f => some (cSlot f.file, f.word 0x66)
  | .shcp f => some (cSlot f.file, f.word 0x80)
  | .shdrn f => some (cSlot f.file, f.word 0x81)
  | .partReset => none
  | .firmwareVerify => none
  | .clusterStart => none
  | .powerRampStep => none
  | .acceptStarts => none
  | .spdmGetVersion => none
  | .spdmGetCapabilities => none
  | .spdmNegotiateAlgorithms => none
  | .spdmGetDigests => none
  | .spdmGetCertificate => none
  | .spdmChallenge => none
  | .spdmGetMeasurements => none
  | .envelopeSelect => none
  | .accountingPeriodStart => none
  | .powerGrantDecision => none
  | .matrixBlockPowerRequest => none
  | .dillCommit => none
  | .dillRead => none
  | .temperatureSample => none
  | .mgmtAssignCore => none
  | .mgmtSetThymeIfc => none
  | .mgmtSetGroup => none
  | .mgmtSetFabricItems => none
  | .mgmtSetQuantumCeiling => none
  | .entryWrite => none
  | .registerWrite => none
  | .bundleIssue => none
  | .bundleCommit => none
  | .yieldBundle => none
  | .resultLanding => none
  | .asyncFaultDelivery => none
  | .hangDetect => none
  | .ephemeralExpiry => none
  | .refreshCycle => none
  | .launchEnqueue => none
  | .heldEntryPlace => none
  | .startWitnessSatisfied => none
  | .admission => none
  | .schedulerPick => none
  | .priorityAging => none
  | .contextWake => none
  | .budgetTopupApply => none
  | .exitQueueRetry => none
  | .evictionSaveDone => none
  | .portChunkArrival => none
  | .msclLanding => none
  | .mmaPerform => none
  | .engineFault => none
  | .mdrnPerform => none
  | .mstPerform => none
  | .mldPerform => none
  | .tileOpPerform => none
  | .l1Fill => none
  | .l1LineExpiry => none
  | .l1ModeChange => none
  | .l2Fill => none
  | .storePerform => none
  | .atomicPerform => none
  | .translationWalk => none
  | .pageRefillComplete => none
  | .copyStart => none
  | .copyTileComplete => none
  | .copyComplete => none
  | .mcstBranchArrival => none
  | .l2RangeComplete => none
  | .groupJoinArrival => none
  | .gldRequestArrival => none
  | .gldHoldEntryFreed => none
  | .holdTimerExpiry => none
  | .trailingEntryTimeout => none
  | .groupFillComplete => none
  | .barrierArrival => none
  | .witnessCollapse => none
  | .noticeArrival => none
  | .noticeResend => none
  | .retentionAnswer => none
  | .retentionTimeout => none
  | .pullStart => none
  | .autoDecline => none
  | .pullRead => none
  | .pullComplete => none
  | .walkTileMove => none
  | .thymeRevolution => none
  | .meshCrcReplay => none
  | .chiveMessageArrival => none
  | .chiveResendTimeout => none
  | .linkCrcRetry => none
  | .linkDown => none
  | .linkDownFlitReceipt => none
  | .circuitSlotBoundary => none
  | .fabricRequestDepart => none
  | .windowEnd => none
  | .closeMarkerReceipt => none
  | .windowTimeout => none
  | .fabricRequestArrival => none
  | .fabricReplyArrival => none
  | .retransmitTimeout => none
  | .replyCacheExpiry => none
  | .ticketCall => none
  | .ticketTimeout => none
  | .switchMulticastSplit => none
  | .reductionSlotAlloc => none
  | .reductionContribution => none
  | .reductionTimeout => none
  | .reductionResultWrite => none
  | .drainMarkerReceipt => none
  | .circuitSwitch => none
  | .relock => none
  | .remoteNoticeForward => none
  | .markedPageWrite => none
  | .bayDrainPage => none
  | .snapshotComplete => none
  | .supplyDroop => none
  | .writePerformedInBothViews => none
  | .fabricStoreSourceRead => none
  | .ticketRequestArrival => none

/-- A bundle header (R35). -/
structure Header where
  bimm : BitVec 32
  wk : Nat
  wr : Nat
  immv : Bool
  sync : BitVec 6
  rep : Nat
  yield : Bool
  stop : Bool
  pres : BitVec 6
  deriving DecidableEq, Repr

/-- The header of a bundle, or none for a header fault (R35–R38). `stream` tells a stream core, where YIELD is a fault. -/
def decodeHeader (stream : Bool) (h : Word) : Option Header :=
  let wk := (bits h 29 3).toNat
  let wr := (bits h 24 5).toNat
  let immv := bitAt h 18
  let rep := (bits h 8 4).toNat
  let yield := bitAt h 7
  let stop := bitAt h 6
  let wrOk := if wk = 1 ∨ wk = 2 then True else if wk = 3 then wr < 4 else wr = 0
  if bitAt h 19 = false ∧ bits h 20 4 = 1 ∧ wk < 6 ∧ wrOk ∧ (yield = true → stop = true ∧ rep = 0 ∧ stream = false) ∧
      (yield = false → wk = 0 ∧ wr = 0) ∧ (immv = false → bits h 32 32 = 0) then
    some { bimm := bits h 32 32, wk := wk, wr := wr, immv := immv, sync := bits h 12 6, rep := rep, yield := yield,
           stop := stop, pres := bits h 0 6 }
  else none

/-- The slots of a PRES field, in order (R34). -/
def presSlots (p : BitVec 6) : List Slot :=
  (if bitAt p 0 then [.s] else []) ++ (if bitAt p 1 then [.v0] else []) ++ (if bitAt p 2 then [.v1] else []) ++
  (if bitAt p 3 then [.m] else []) ++ (if bitAt p 4 then [.c0] else []) ++ (if bitAt p 5 then [.c1] else [])

/-- The instruction of a bundle that holds one slot word: `w` is the header in bits 63:0 and the slot word in bits 127:64
(R34), as the hardware stores them in ascending little-endian words. -/
def decodeTableWord (_nbits w : Nat) : Option Instr :=
  match decodeHeader false (BitVec.ofNat 64 w) with
  | some h =>
    match presSlots h.pres with
    | [sl] =>
      match decodeSlot sl (BitVec.ofNat 64 (w / 2 ^ 64)) with
      | .ok i => some i
      | .error _ => none
    | _ => none
  | none => none

end Sys2Proof
end

