-- ==== Sys2Proof/Machine/Regs.lean ====
section
/-! DEFINITION. The registers an operation names: its footprint check (R44), its crossing names (R56), the sources of a vector
operation (R43, R173), and the bundle immediate (R37). -/
namespace Sys2Proof.Machine

/-- The register names of one slot word: scalar, vector of the slot's own file, vector of the other file, accumulator,
descriptor, scale and address registers (own file, other file), and the crossing names named and written. -/
structure Uses where
  s : List Nat := []
  v : List Nat := []
  vo : List Nat := []
  acc : List Nat := []
  td : List Nat := []
  e : List Nat := []
  a0 : List Nat := []
  a1 : List Nat := []
  nm : List Nat := []
  wr : List Nat := []
  deriving DecidableEq, Repr

/-- The crossing name of the latch (R56). -/
def mrowName : Nat := 32

/-- Witness names among fields. -/
def wfNames (l : List WF) : List Nat := l.filterMap WFi

/-- A witness field read from a low part of a vector field (R210, R211). -/
def wfOf (x : BitVec 11) : WF := if x.getLsbD 5 then some (x.extractLsb' 0 5) else none

/-- A witness field inside `mfsr`'s immediate (R148). -/
def wfAt (x : BitVec 36) (lo : Nat) : WF := if x.getLsbD (lo + 5) then some (x.extractLsb' lo 5) else none

end Sys2Proof.Machine

namespace Sys2Proof
open Machine

/-- A scalar operation with its scalar registers. -/
def SR.uses (f : SR) (regs : List (BitVec 6)) : Uses :=
  { s := regs.map BitVec.toNat, nm := wfNames [f.wi1, f.wi2, f.wo], wr := wfNames [f.wo] }

/-- A scalar immediate operation with its scalar registers. -/
def SI.uses (regs : List (BitVec 6)) : Uses := { s := regs.map BitVec.toNat }

/-- A scalar memory operation with its scalar registers. -/
def SM.uses (f : SM) (regs : List (BitVec 6)) : Uses :=
  { s := regs.map BitVec.toNat, nm := wfNames [f.wi1, f.wi2, f.wo], wr := wfNames [f.wo] }

/-- A vector operation: its destination register, its sources, and its witness fields. -/
def VO.uses (d : Option (BitVec 11)) (src : List (BitVec 11)) (wi wo : WF := none) : Uses :=
  { v := d.toList.map BitVec.toNat ++ (src.filter (· < 1536)).map BitVec.toNat,
    nm := wfNames [wi, wo] ++ (if src.contains 1544 then [mrowName] else []), wr := wfNames [wo] }

/-- A matrix operation. -/
def MO.uses (f : MO) (acc td : List Nat) (e : List Nat := []) (row : Bool := false) : Uses :=
  { acc := acc, td := td, e := e, nm := wfNames [f.wi1, f.wi2, f.wi3, f.wo] ++ (if row then [mrowName] else []),
    wr := wfNames [f.wo] ++ (if row then [mrowName] else []) }

/-- A copy-slot operation with its address registers. -/
def CO.uses (f : CO) (regs : List (BitVec 5)) : Uses :=
  let r := regs.map BitVec.toNat
  { a0 := if f.file then [] else r, a1 := if f.file then r else [], nm := wfNames [f.wi1, f.wi2, f.wi3, f.wo], wr := wfNames [f.wo] }

/-- The source fields of a vector operation, in the order A, B, C (R43, R173). -/
def Instr.vSources (i : Instr) : List (BitVec 11) :=
  match i with
  | .vadd f | .vsub f | .vmul f | .vmax f | .vmin f | .vcpsg f | .viadd f | .visub f | .vimul f | .vimax f | .vimin f
  | .vand f | .vor f | .vxor f | .vshl f | .vshr f | .vcmpEq f | .vcmpNe f | .vcmpLt f | .vcmpLe f | .vcmpTord f
  | .vcmpUn f | .vsel f | .vcxc f | .vqmx f | .vperm f | .vzip f | .vuzp f | .vgth f => [f.a, f.b]
  | .vfma f | .vfms f | .vfnma f | .vimad f | .vsct f => [f.a, f.b, f.c]
  | .vabs f | .vneg f | .vexp2 f | .vlog2 f | .vrcp f | .vrsqrt f | .vtanh f | .viabs f | .vnot f | .vcvt f | .vpack f
  | .vunpk f | .vscl f | .vseed f | .vbcast f | .vrsum f | .vrmax f | .vrmin f | .vramax f | .virsum f | .vmov f
  | .xmvVec f | .xmvToS f | .xmvToC f | .qsetNz f => [f.a]
  | .vst f => [f.b]
  | _ => []

/-- The registers that a word names. -/
def Instr.uses (i : Instr) : Uses :=
  match i with
  | .add f | .sub f | .mul f | .mulh f | .div f | .rem f | .min f | .max f | .and f | .or f | .xor f | .shl f | .shr f
  | .rot f | .sel f => f.uses [f.d, f.a, f.b]
  | .addi f | .muli f | .andi f | .ori f | .xori f | .shli f | .shri f | .lih f | .loop f => SI.uses [f.d, f.a]
  | .li f | .call f | .gjoin f | .gleave f => SI.uses [f.d]
  | .cmpeq f | .cmpne f | .cmplt f | .cmple f => f.uses [f.a, f.b]
  | .cmpeqi f | .cmpnei f | .cmplti f | .cmplei f | .mtsr f | .contReg f => SI.uses [f.a]
  | .kmovToS f => f.uses [f.d]
  | .kmovFromS f => f.uses [f.a]
  | .bfx f | .clz f | .ctz f | .popc f | .bswap f => f.uses [f.d, f.a]
  | .bfi f => f.uses [f.d, f.a, f.b]
  | .brr f | .ret f | .tkill f | .wset f => f.uses [f.a]
  | .callr f => f.uses [f.d, f.a]
  | .mfsr f =>
    { s := [f.d.toNat], nm := wfNames [wfAt f.imm 12, wfAt f.imm 18] }
  | .barl f => f.uses []
  | .barv f => f.uses [f.a]
  | .barw f | .barwRearm f | .barwTest f => f.uses [f.d]
  | .ld f | .st f | .aadd f | .amin f | .amax f | .aand f | .aor f | .axor f | .aswp f => f.uses [f.d, f.base]
  | .pref f | .wb f | .inv f => f.uses [f.base]
  | .acas f | .exit f | .budadd f => f.uses [f.d, f.a, f.b, f.c]
  | .vjoin f | .wmrg f | .wall f | .wwait f | .wtst f | .wtstPoisoned f | .wtstLanded f => f.uses []
  | .wrd f | .fdrainLock f | .snapAtStep f | .snapDis f => f.uses [f.d]
  | .budrd f | .launch f | .fdrain f => f.uses [f.d, f.a]
  | .cwait f | .hsig f | .xinv f | .snapAt f | .cslotXlat f | .cslotQi f | .cslotQm f | .cslotPolicy f | .cslotDump f
  | .cslotDumpack f | .cslotEvents f | .cslotThyme f | .cslotGroup f | .cslotSched f | .cslotT0 f | .cslotRoute f
  | .cslotWindow f | .cslotCallmax f | .cslotThaw f => f.uses [f.d, f.a, f.b]
  | .vcmpEq f | .vcmpNe f | .vcmpLt f | .vcmpLe f | .vcmpTord f | .vcmpUn f => VO.uses none [f.a, f.b]
  | .vadd f | .vsub f | .vmul f | .vmax f | .vmin f | .vcpsg f | .viadd f | .visub f | .vimul f | .vimax f | .vimin f
  | .vand f | .vor f | .vxor f | .vshl f | .vshr f | .vsel f | .vcxc f | .vqmx f | .vperm f | .vzip f | .vuzp f =>
    VO.uses (some f.d) [f.a, f.b]
  | .vfma f | .vfms f | .vfnma f | .vimad f => VO.uses (some f.d) [f.a, f.b, f.c]
  | .vabs f | .vneg f | .vexp2 f | .vlog2 f | .vrcp f | .vrsqrt f | .vtanh f | .viabs f | .vnot f | .vcvt f | .vpack f
  | .vunpk f | .vscl f | .vbcast f | .vrsum f | .vrmax f | .vrmin f | .vramax f | .virsum f | .vmov f =>
    VO.uses (some f.d) [f.a]
  | .vseed f | .qsetNz f => VO.uses none [f.a]
  | .xmvVec f => { VO.uses none [f.a] with vo := [f.d.toNat] }
  | .xmvToS f => { VO.uses none [f.a] with s := [f.d.toNat] }
  | .xmvFromS f => { VO.uses (some f.d) [] with s := [f.a.toNat] }
  | .xmvToC f =>
    let r := f.d.toNat % 32
    { VO.uses none [f.a] with a0 := if f.d.getLsbD 5 then [] else [r], a1 := if f.d.getLsbD 5 then [r] else [] }
  | .xmvPredToS f => { VO.uses none [] with s := [f.d.toNat] }
  | .vld f => VO.uses (some f.d) [f.a] (wfOf f.c)
  | .vst f => VO.uses none [f.a, f.b] (wfOf f.c) (wfOf f.d)
  | .vgth f => VO.uses (some f.d) [f.a, f.b] (wfOf f.c)
  | .vsct f => VO.uses none [f.a, f.b, f.c] none (wfOf f.d)
  | .pcfg f => VO.uses none [f.a, f.b] (wfOf f.c)
  | .mma f | .mmaz f => f.uses [f.acc.toNat] [f.tda.toNat, f.tdb.toNat]
      ((if f.fn.getLsbD 0 then [f.ea.toNat] else []) ++ (if f.fn.getLsbD 1 then [f.eb.toNat] else []))
  | .tdld f => f.uses [] (if f.fn == 2 then [f.tda.toNat, f.tdb.toNat] else [f.tda.toNat])
  | .tdsetAdd f | .tdsetLo f | .tdsetHi f | .tdsetKorg f | .tdsetShape f | .tdsetStride f | .tdsetView f =>
    f.uses [] [f.tda.toNat]
  | .mscl f => f.uses [] (if f.fn == 2 then [f.tdb.toNat] else []) [f.ea.toNat]
  | .mdrn f => f.uses [f.acc.toNat] [] [] true
  | .mst f | .mld f => f.uses [f.acc.toNat] [f.tda.toNat]
  | .mzero f => f.uses [f.acc.toNat] []
  | .mmov f => f.uses [f.acc.toNat, f.tda.toNat] []
  | .cp f | .cps f | .mcst f | .gld f | .pub f | .rtset f | .fst f | .fmst f | .rsto f => f.uses [f.d, f.a, f.b]
  | .pgret f | .pgrel f | .pgwb f | .tkwait f | .shcp f | .shdrn f => f.uses [f.a]
  | .l2pf f | .l2wb f | .l2inv f | .decl f | .scfgLand f | .scfgUnland f | .scfgMbox f | .scfgLimits f | .scfgClass f
  | .scfgPace f | .walk f | .rtrel f | .tkget f | .tkdone f | .rslot f => f.uses [f.d, f.a]
  | .scfgRead f => f.uses [f.d]
  | .permit f => f.uses [f.a, f.b]
  | _ => {}

end Sys2Proof

namespace Sys2Proof.Machine

/-- Whether every register of a word lies in the footprint (R44); `sl` is the word's slot. -/
def Uses.fits (u : Uses) (lb : LaunchBlk) (sl : Slot) : Bool :=
  let own := if sl == .v1 then lb.vp1 else lb.vp0
  let oth := if sl == .v1 then lb.vp0 else lb.vp1
  u.s.all (· < lb.sreg) && u.v.all (· < 64 * own) && u.vo.all (· < 64 * oth) && u.acc.all (· < lb.acc) && u.td.all (· < lb.td) &&
    u.e.all (· < lb.esc) && u.a0.all (· < lb.ca0) && u.a1.all (· < lb.ca1)

end Sys2Proof.Machine

namespace Sys2Proof
open Machine

/-- Words that need the bundle immediate (R43, R196, R220, R222). -/
def Instr.needsImm (i : Instr) : Bool :=
  match i with
  | .qsetFirst _ | .tdld _ | .tdsetAdd _ | .tdsetLo _ | .tdsetHi _ | .tdsetKorg _ | .tdsetShape _ | .tdsetStride _
  | .tdsetView _ | .mscl _ => true
  | i => i.vSources.contains 1545

/-- Whether a word's immediate operand is one its entry forbids, as the check of the fields sees it (R50, R196, R222). -/
def Instr.badImm (i : Instr) (immv : Bool) (bimm : BitVec 32) : Bool :=
  (i.needsImm && !immv) ||
  match i with
  | .qsetFirst _ => decide (64 < bimm.toNat)
  | .tdsetKorg _ => decide (2 ^ 16 ≤ bimm.toNat) || bimm.toNat % 32 != 0
  | .tdsetShape _ => decide (2 ^ 12 ≤ bimm.toNat)
  | .tdsetStride _ => bimm.toNat % 8 != 0
  | .tdsetView _ => decide (3 ≤ bimm.toNat)
  | _ => false

/-- The sticky bit of a word. -/
def Instr.stk (i : Instr) : Bool :=
  match encode i with
  | some (_, w) => w.getLsbD 55
  | none => false

/-- The opcode of a word. -/
def Instr.opcode (i : Instr) : Nat :=
  match encode i with
  | some (_, w) => fld w.toNat 63 56
  | none => 0

end Sys2Proof
end

