-- ==== Sys2Proof/Machine/Issue.lean ====
section
/-! DEFINITION. What a slot does while it executes a dynamic bundle: reading registers and witnesses, holding effects, faults,
stalls and charges in the commit buffer (R57, R58, R65, R116, R133–R136, R299, R301), and the reads and writes of memory by a
slot (R243, R246, R268–R270, R298, R321). -/
namespace Sys2Proof.Machine

/-- What a meaning answers. -/
abbrev Res := Host.Outcome State Fault Refusal

/-- The context that issues. -/
def State.me (s : State) : Ctx := s.ctx s.iss.cid

/-- The owner of what the bundle starts. -/
def State.owner (s : State) : Owner := { cid := s.iss.cid, uid := s.me.uid, ifc := s.me.ifc, tseq := s.me.tseq }

/-- Whether the issuing core is a stream core (R22). -/
def State.onStream (s : State) : Bool := isStream s.iss.cid

/-- The latencies in force: the image's, or the native ones on a stream core (R65, R411). -/
def State.lat (s : State) : Lat := if s.onStream then {} else s.me.lat

/-- An effect held until commit (R58). -/
def State.eff (s : State) (e : Eff) : State := s.modIss fun i => { i with effs := i.effs ++ [e] }

/-- Units and sectors charged to the bundle (R116). -/
def State.charge (s : State) (u m : Nat) : State := s.modIss fun i => { i with ci := i.ci + u, cm := i.cm + m }

/-- The slot faults precisely (R374, R375); where the walk of its translation met an uncorrectable error, that sector is to be marked
(R275, R400). -/
def State.faultAt (s : State) (c : Code) (addr : Nat) (cause : Nat := 0) : State :=
  let walked := if c = .memue ∧ kindOf addr = 0 then walkBad s (s.who s.iss.cid) addr else []
  s.modIss fun i =>
    { i with flts := i.flts ++ [(i.cur, { cls := 1, code := c.num, addr := wd addr, cause := cause })], marks := i.marks ++ walked }

/-- A precise fault whose rule names no address (R376). -/
def State.faultB (s : State) (c : Code) : State := s.faultAt c s.iss.pc.toNat

/-- The slot waits: the bundle is tried again later, and the wait counts towards a hang (R65, R386). -/
def State.wait (s : State) : State := s.modIss fun i => { i with stall := true }

/-- The slot waits where the cycles do not count towards a hang (R386). -/
def State.waitIdle (s : State) : State := s.modIss fun i => { i with stall := true, idle := true }

/-- A number for a new operation. -/
def State.newId (s : State) : Nat × State := (s.nextId, { s with nextId := s.nextId + 1 })

/-- Scalar register n of a context. -/
def Ctx.sreg (c : Ctx) (n : BitVec 6) : Word := tget 0 c.s n.toNat

/-- Predicate register n: k0 reads as true (R33). -/
def Ctx.kreg (c : Ctx) (n : Nat) : Bool := n == 0 || c.k.getLsbD n

/-- The predicate of a scalar word (R45, R135). -/
def Ctx.kp (c : Ctx) (neg : Bool) (k : BitVec 3) : Bool := c.kreg k.toNat != neg

/-- An address register. -/
def Ctx.areg (c : Ctx) (file : Bool) (n : BitVec 5) : Word := tget 0 (if file then c.a1 else c.a0) n.toNat

/-- A scalar result with its latency (R64). -/
def State.landS (s : State) (r : BitVec 6) (v : Word) (lat : Nat) : State :=
  s.eff (.land { dst := .s r.toNat, due := s.me.n + lat, val := v.zeroExtend 2048, mask := (BitVec.allOnes 64).zeroExtend 2048 })

/-- A predicate result (R136). -/
def State.landK (s : State) (r : BitVec 6) (v : Bool) : State :=
  s.eff (.land { dst := .k r.toNat, due := s.me.n + s.lat.salu, val := if v then 1 else 0, mask := 1 })

/-- A scalar result that an operation supplies later (R65). -/
def State.landLateS (s : State) (r : BitVec 6) (id lat : Nat) : State :=
  s.eff (.land { dst := .s r.toNat, due := s.me.n + lat, val := 0, mask := (BitVec.allOnes 64).zeroExtend 2048, late := some id })

/-- An address register result, V.alu or C.* class. -/
def State.landA (s : State) (file : Bool) (r : BitVec 5) (v : Word) (lat : Nat) : State :=
  s.eff (.land { dst := .a file r.toNat, due := s.me.n + lat, val := v.zeroExtend 2048, mask := (BitVec.allOnes 64).zeroExtend 2048 })

/-- An address register result that an operation supplies later. -/
def State.landLateA (s : State) (file : Bool) (r : BitVec 5) (id : Nat) : State :=
  s.eff (.land { dst := .a file r.toNat, due := s.me.n + s.lat.cst, val := 0, mask := (BitVec.allOnes 64).zeroExtend 2048, late := some id })

/-! ### Witness inputs -/

/-- The registers of witness fields. -/
def State.wregs (s : State) (l : List WF) : List WReg := (l.filterMap WFi).map fun r => tget {} s.me.w r

/-- Witness inputs as data: a pending register stalls (R301). -/
def withData (s : State) (l : List WF) (k : Word → State) : State :=
  let r := s.wregs l
  if r.any (·.pend.isSome) then s.wait else k ((r.map (·.val)).foldl wMerge 0)

/-- Witness inputs of a consumer: a pending register stalls, a poisoned value faults (R299, R301, R313). -/
def withWin (s : State) (l : List WF) (k : Word → State) : State :=
  withData s l fun w => if wPsn w then s.faultB .wpoison else k w

/-- Witness inputs that the slot waits for at the core (R298): the wait ends when they are satisfied, or with WINTMO (R356). -/
def withSat (s : State) (l : List WF) (k : Word → State) : State :=
  withWin s l fun w =>
    if sat s w then k w
    else match winTimedOut s w with
      | some p => s.faultAt .wintmo s.iss.pc.toNat p
      | none => s.wait

/-! ### Memory accesses of a slot -/

/-- The runs of sectors of a copy, in delivery order (R256, R257): the addresses of sector `i`. -/
def CopyOp.sector (o : CopyOp) (i : Nat) : Nat × Nat :=
  let r := i / o.rlen
  let c := i % o.rlen
  ((o.dst.toNat + 64 * (o.dstr * r + c)) % 2 ^ 64, (o.src.toNat + 64 * (o.sstr * r + c)) % 2 ^ 64)

/-- The sectors of a copy. -/
def CopyOp.total (o : CopyOp) : Nat := o.rows * o.rlen

/-- The number of sectors from `i` on that fall in the tile of sector `i` (R253). -/
def CopyOp.tileLen (o : CopyOp) : (fuel : Nat) → (i : Nat) → Nat
  | 0, _ => 0
  | f + 1, i =>
    if o.total ≤ i then 0
    else if i = o.pos ∨ (o.sector i).1 / 8192 = (o.sector o.pos).1 / 8192 then 1 + CopyOp.tileLen o f (i + 1) else 0

/-- The scratchpad block of 8 KiB that a running copy of a core has locked (R253). -/
def lockOf (core : Nat) (o : Op) : Option Nat :=
  match o.kind with
  | .copy x =>
    let d := (x.sector x.pos).1
    if x.core == core && x.lock && x.stop.isNone && decide (x.pos < x.total) && kindOf d == 2 then
      some ((stationOf core * 2 ^ 21 + o.pages.getD ((d - localBase) / 65536) 0 * 65536 + d % 65536) / 8192)
    else none
  | _ => none

/-- The scratchpad blocks of 8 KiB that the running copies of a core lock (R253). -/
def lockedTiles (s : State) (core : Nat) : List Nat := s.ops.filterMap (lockOf core)

/-- Whether located runs touch one of some blocks of 8 KiB. -/
def touchTiles (t : List Nat) (segs : List Seg) : Bool :=
  !t.isEmpty && segs.any fun g => match g.loc with
    | .sp a => (upto (a / 8192) ((a + g.len - 1) / 8192 + 1 - a / 8192)).any t.contains
    | _ => false

/-- Whether located runs touch a locked tile. -/
def tileLocked (s : State) (core : Nat) (segs : List Seg) : Bool := touchTiles (lockedTiles s core) segs

/-- The physical pages, as station · 32 + page, of located runs. -/
def physPages (segs : List Seg) : List Nat :=
  segs.filterMap fun g => match g.loc with
    | .sp a => some (a / 65536)
    | _ => none

/-- The physical pages of a local range of an operation. -/
def opPages (o : Op) (va len : Nat) : List Nat :=
  (pagesOf va len).map fun j => cidStation o.own.cid * 32 + o.pages.getD j 0

/-- The physical pages, as station · 32 + page, that a multicast branch writes while its receiver holds the task (R263). -/
def branchPages (s : State) (b : Branch) (len : Nat) : List Nat :=
  let c := s.ctx b.cid
  if b.done || b.dropped || c.tseq % 2 ^ 30 != b.tseq then []
  else (pagesOf (localBase + b.page * 65536 + b.sect * 64) len).filterMap fun j =>
    (c.pages[j]?).map fun p => cidStation b.cid * 32 + p.phys

/-- The physical pages that an operation in flight still writes as a copy, fill, pull or multicast (R249, R298). -/
def writesPages (s : State) (o : Op) : List Nat :=
  match o.kind with
  | .copy x => if x.kind = 3 then [] else ((List.range x.rows).flatMap fun r => opPages o (x.sector (r * x.rlen)).1 (x.rlen * 64))
  | .mcst x => x.br.flatMap fun b => branchPages s b x.len
  | .gld x => if x.read then opPages o x.dst.toNat x.len else []
  | .pull p => opPages o (localBase + 65536 * p.run) p.no.size
  | _ => []

/-- A read of the local window given a witness waits for fills into its pages that began before the witness's tick (R298). -/
def fillsBefore (s : State) (win : Word) (segs : List Seg) : Bool :=
  !wNull win && (let p := physPages segs
    !p.isEmpty && s.ops.any fun o => decide (0 < o.tick ∧ o.tick < wTick win) && (writesPages s o).any p.contains)

/-- The run within `segs` that holds the byte at an offset. -/
def segAt : (segs : List Seg) → (off : Nat) → List Seg
  | [], _ => []
  | g :: gs, off =>
    if off < g.len then
      match g.loc with
      | .dev a => [⟨.dev (a + off), 1⟩]
      | .sp a => [⟨.sp (a + off), 1⟩]
      | .ring a => [⟨.ring (a + off), 1⟩]
      | .glob _ => []
    else segAt gs (off - g.len)

/-- The L1s of a core's cluster change their mode: its accesses stall (R271). -/
def fusing (s : State) (core : Nat) : Bool := (s.stn (stationOf core)).fusePend.isSome

/-- A read by the slot must wait: for a path, a change of the L1 mode, a way of L2, an older store of the context, a locked tile, or a
fill that its witness covers (R253, R270, R271, R274, R298, R350). -/
def readBlocked (s : State) (core : Nat) (win : Word) (segs : List Seg) : Bool :=
  !satHome s win || noPath s segs || fusing s core || l2Waits s segs || storePending s s.iss.cid segs || tileLocked s core segs || fillsBefore s win segs

/-- What precedes a read by the slot: the range checks, a refill, older stores of the context, a locked tile and fills that a
witness covers (R243, R246, R253, R270, R298). -/
def slotPre (s : State) (acc : Acc) (va len : Nat) (win : Word) (k : State → List Seg → State) : State :=
  let w := s.who s.iss.cid
  match resolve s w acc false va len with
  | .error (c, a) => s.faultAt c a
  | .ok segs =>
    let fp := fillPages s.me va len
    if !fp.isEmpty then s.wait.modIss fun i => { i with fills := i.fills ++ fp }
    else if readBlocked s w.core win segs then s.wait
    else k (touchXlat s w va len) segs

/-- The fault of a sector found bad, with the sector to mark if the trap is taken: its address is the sector's, or with `byte`
the lowest byte's (R188, R275). -/
def State.faultData (s : State) (c : Code) (va off : Nat) (segs : List Seg) (byte : Bool := false) : State :=
  (s.faultAt c (if byte then va + off else (va + off) / 64 * 64)).modIss fun i => { i with marks := i.marks ++ segAt segs off }

/-- A read of `len` bytes through L1 by `ld`, `vld` and ports (R268, R269). -/
def slotRead (s : State) (acc : Acc) (va len : Nat) (win : Word) (k : State → List Byte → State) (byte : Bool := false) : State :=
  slotPre s acc va len win fun s segs =>
    match l1Read s (coreOf s.iss.cid) win segs with
    | (s, .ok bs) => k s bs
    | (s, .fault c off) => s.faultData c va off segs byte
    | (s, .wait l q n) => s.wait.modIss fun i => { i with lines := i.lines ++ [(l, q, n, win)] }

/-- A read of `len` bytes at the homes, which everything else does (R268). -/
def slotHome (s : State) (acc : Acc) (va len : Nat) (win : Word) (k : State → List Byte → State) (byte : Bool := false) : State :=
  slotPre s acc va len win fun s segs =>
    match badSeg s 0 segs with
    | some (c, off) => s.faultData c va off segs byte
    | none => let r := readIn s false win segs; k r.1 r.2

/-- The checks of a write by the slot: range and protection, a refill, a page that a retention slot holds (R243, R246, R321). -/
def slotWrite (s : State) (acc : Acc) (sw : Bool) (va len : Nat) (k : State → List Seg → State) : State :=
  let w := s.who s.iss.cid
  match resolve s w { acc with wr := true } sw va len with
  | .error (c, a) => s.faultAt c a
  | .ok segs =>
    let fp := fillPages s.me va len
    if !(heldPages s s.iss.cid va len).isEmpty then s.waitIdle
    else if !fp.isEmpty then s.wait.modIss fun i => { i with fills := i.fills ++ fp }
    else if noPath s segs || fusing s w.core then s.wait
    else k (touchXlat s w va len) segs

/-- A record read under R9: aligned, whole, at the witness given. -/
def slotRecord (s : State) (acc : Acc) (al va len : Nat) (win : Word) (k : State → Nat → State) : State :=
  if va % al ≠ 0 then s.faultAt .align va
  else slotHome s acc va len win fun s bs => k s (leNat bs)

/-- An operation that the bundle starts at its commit. -/
def State.start (s : State) (win : Word) (wo : WF) (k : OpKind) : Nat × State :=
  let (id, s) := s.newId
  (id, s.eff (.start { id := id, own := s.owner, win := win, wo := WFi wo, pages := s.me.pages.map (·.phys), kind := k }))

/-- The witness of an operation with nothing to do is null (R210, R256). -/
def State.nullWit (s : State) (wo : WF) : State :=
  match WFi wo with
  | some r => s.eff (.wset r 0)
  | none => s

/-- An S-slot word: charged its units, and executed when its predicate is true (R117, R135). -/
def sOp (s : State) (neg : Bool) (k : BitVec 3) (units : Nat) (f : State → State) : State :=
  let s := s.charge units 0
  if s.me.kp neg k then f s else s

/-- Sectors charged to the bundle (R116, R117); the commit charges no memory to a stream context or a handler. -/
def State.sectorsOf (s : State) (n : Nat) : State := s.charge 0 n

end Sys2Proof.Machine
end

