-- ==== Sys2Proof/Machine/Num.lean ====
section
/-! DEFINITION. Numbers (R77–R101): exact dyadic values, the floating formats, one rounding, conversions, and the
transcendental functions inside their bounds. -/
namespace Sys2Proof.Machine

/-- The low `w` bits of `x`, as a signed value when `sg`. -/
def intOf (sg : Bool) (w x : Nat) : Int :=
  let y := x % 2 ^ w
  if sg && 2 ^ w ≤ 2 * y then (y : Int) - 2 ^ w else y

/-- The two's-complement low `w` bits of an exact value. -/
def toBits (w : Nat) (x : Int) : Nat := (x % 2 ^ w).toNat

/-- The least value of an integer format. -/
def minOf (sg : Bool) (w : Nat) : Int := if sg then -(2 ^ (w - 1)) else 0

/-- The largest value of an integer format. -/
def maxOf (sg : Bool) (w : Nat) : Int := if sg then 2 ^ (w - 1) - 1 else 2 ^ w - 1

/-- An exact value clamped to an integer format (R82). -/
def clampInt (sg : Bool) (w : Nat) (x : Int) : Int := max (minOf sg w) (min (maxOf sg w) x)

/-- Arithmetic flags in the layout of R88. -/
abbrev Flags := BitVec 7

/-- NX. -/
def fNX : Flags := 1
/-- UF. -/
def fUF : Flags := 2
/-- OF. -/
def fOF : Flags := 4
/-- DZ. -/
def fDZ : Flags := 8
/-- IV. -/
def fIV : Flags := 16
/-- ST. -/
def fST : Flags := 32
/-- TB. -/
def fTB : Flags := 64

/-- A flag raised under a condition. -/
def fIf (c : Bool) (f : Flags) : Flags := if c then f else 0

/-- A dyadic number m · 2^e. -/
structure Dy where
  m : Int
  e : Int
  deriving DecidableEq, Repr

/-- The integer m · 2^(e − k), for k at or below e. -/
def Dy.at (x : Dy) (k : Int) : Int := x.m * 2 ^ (x.e - k).toNat

/-- Exact sum. -/
def Dy.add (x y : Dy) : Dy := let k := min x.e y.e; ⟨x.at k + y.at k, k⟩

/-- Exact product. -/
def Dy.mul (x y : Dy) : Dy := ⟨x.m * y.m, x.e + y.e⟩

/-- The negation. -/
def Dy.neg (x : Dy) : Dy := ⟨-x.m, x.e⟩

/-- x ≤ y. -/
def Dy.le (x y : Dy) : Bool := let k := min x.e y.e; decide (x.at k ≤ y.at k)

/-- A floating value: a NaN (signalling or quiet, with its sign), an infinity, or ±m · 2^e. -/
inductive FVal where
  | nan (sig neg : Bool)
  | inf (neg : Bool)
  | fin (neg : Bool) (m : Nat) (e : Int)
  deriving DecidableEq, Repr

/-- How a format treats specials: IEEE, E4M3, or no special at all (R78). -/
inductive FSpec where
  | ieee | e4m3 | none
  deriving DecidableEq, Repr

/-- A floating format: exponent and mantissa widths, bias, specials, and the largest finite value as mm · 2^me (R77, R78). -/
structure FF where
  eb : Nat
  mb : Nat
  bias : Nat
  spec : FSpec
  mm : Nat
  me : Int
  deriving DecidableEq, Repr

/-- The format of a code (R42, R77, R78). -/
def ffOf (fmt : BitVec 4) : FF :=
  match fmt.toNat with
  | 8 => ⟨8, 23, 127, .ieee, 2 ^ 24 - 1, 104⟩
  | 9 => ⟨8, 7, 127, .ieee, 255, 120⟩
  | 10 => ⟨5, 10, 15, .ieee, 2047, 5⟩
  | 11 => ⟨4, 3, 7, .e4m3, 14, 5⟩
  | 12 => ⟨5, 2, 15, .ieee, 7, 13⟩
  | 13 => ⟨3, 2, 3, .none, 7, 2⟩
  | 14 => ⟨2, 3, 1, .none, 15, -1⟩
  | _ => ⟨2, 1, 1, .none, 3, 1⟩

/-- Bits of the format. -/
def FF.w (f : FF) : Nat := 1 + f.eb + f.mb

/-- The exponent of the smallest normal number. -/
def FF.emin (f : FF) : Int := 1 - (f.bias : Int)

/-- The value of an encoding (R78). -/
def FF.decode (f : FF) (x : Nat) : FVal :=
  let neg := (x / 2 ^ (f.eb + f.mb)) % 2 == 1
  let e := (x / 2 ^ f.mb) % 2 ^ f.eb
  let m := x % 2 ^ f.mb
  let special := match f.spec with
    | .ieee => e == 2 ^ f.eb - 1
    | .e4m3 => e == 15 && m == 7
    | .none => false
  if special then
    match f.spec with
    | .ieee => if m == 0 then .inf neg else .nan (m < 2 ^ (f.mb - 1)) neg
    | _ => .nan false neg
  else if e == 0 then .fin neg m (f.emin - f.mb)
  else .fin neg (2 ^ f.mb + m) ((e : Int) - f.bias - f.mb)

/-- The sign bit in place. -/
def FF.sign (f : FF) (neg : Bool) : Nat := if neg then 2 ^ (f.eb + f.mb) else 0

/-- The canonical NaN (R78); E4M3's keeps a sign where a conversion asks for it (R87). -/
def FF.nanBits (f : FF) (neg : Bool) : Nat :=
  match f.spec with
  | .ieee => (2 ^ f.eb - 1) * 2 ^ f.mb + 2 ^ (f.mb - 1)
  | .e4m3 => f.sign neg + 127
  | .none => 0

/-- The largest finite value with a sign. -/
def FF.maxBits (f : FF) (neg : Bool) : Nat :=
  f.sign neg + match f.spec with
    | .ieee => (2 ^ f.eb - 1) * 2 ^ f.mb - 1
    | .e4m3 => 126
    | .none => 2 ^ (f.eb + f.mb) - 1

/-- An infinity's encoding. -/
def FF.infBits (f : FF) (neg : Bool) : Nat := f.sign neg + (2 ^ f.eb - 1) * 2 ^ f.mb

/-- A rounded result: bits and flags. -/
structure Rnd where
  bits : Nat
  fl : Flags
  deriving DecidableEq, Repr

/-- The rounding modes of R83; `rs` carries the draw. -/
inductive RMode where
  | rne | rz | rp | rm
  | rs (g : Nat)
  deriving DecidableEq, Repr

/-- One rounding of ±m · 2^e into a format (R84–R86). -/
def FF.round (f : FF) (mode : RMode) (sat neg : Bool) (m : Nat) (e : Int) : Rnd :=
  if m = 0 then ⟨f.sign neg, 0⟩ else
  let q : Int := max ((Nat.log2 m : Int) + e) f.emin - f.mb
  let sh := (q - e).toNat
  let t := if q ≤ e then m * 2 ^ (e - q).toNat else m / 2 ^ sh
  let rem := if q ≤ e then 0 else m % 2 ^ sh
  let inc := match mode with
    | .rne => decide (2 ^ sh < 2 * rem) || (decide (2 * rem = 2 ^ sh) && t % 2 == 1)
    | .rz => false
    | .rp => rem != 0 && !neg
    | .rm => rem != 0 && neg
    | .rs g => decide (65536 ≤ rem * 65536 / 2 ^ sh + g)
  let inc := inc && rem != 0
  let r := if inc then t + 1 else t
  let nx := rem != 0
  if decide (q ≥ f.me) && decide (f.mm < r * 2 ^ (q - f.me).toNat) then
    let tz := match mode with
      | .rne => false
      | .rz => true
      | .rp => neg
      | .rm => !neg
      | .rs _ => !inc
    if sat || f.spec == .none then ⟨f.maxBits neg, fOF ||| fNX ||| fST⟩
    else if tz then ⟨f.maxBits neg, fOF ||| fNX⟩
    else if f.spec == .e4m3 then ⟨f.nanBits neg, fOF ||| fNX⟩
    else ⟨f.infBits neg, fOF ||| fNX⟩
  else
    let tiny := decide (r < 2 ^ f.mb)
    let (r, q) := if 2 ^ (f.mb + 1) ≤ r then (r / 2, q + 1) else (r, q)
    let body := if tiny then r else (q + f.mb + f.bias).toNat * 2 ^ f.mb + (r - 2 ^ f.mb)
    ⟨f.sign neg + body, fIf nx fNX ||| fIf (nx && tiny) fUF⟩

/-- A value, exact or special, into a format: rounding, or the special rules of R87. `keep` keeps an E4M3 NaN's sign. -/
def FF.put (f : FF) (mode : RMode) (sat keep : Bool) (v : FVal) : Rnd :=
  match v with
  | .nan sig neg =>
    if f.spec == .none then ⟨0, fIV⟩ else ⟨f.nanBits (keep && neg), fIf sig fIV⟩
  | .inf neg =>
    match f.spec with
    | .ieee => ⟨f.infBits neg, 0⟩
    | .e4m3 => if sat then ⟨f.maxBits neg, fST⟩ else ⟨f.nanBits neg, fIV⟩
    | .none => ⟨f.maxBits neg, fST⟩
  | .fin neg m e => f.round mode sat neg m e

/-- The signed dyadic of a finite value. -/
def finDy (neg : Bool) (m : Nat) (e : Int) : Dy := ⟨if neg then -(m : Int) else m, e⟩

/-- A dyadic as a finite value, with the sign of a zero given. -/
def dyVal (zneg : Bool) (d : Dy) : FVal := .fin (if d.m = 0 then zneg else decide (d.m < 0)) d.m.natAbs d.e

/-- A signalling NaN. -/
def FVal.sig : FVal → Bool
  | .nan s _ => s
  | _ => false

/-- A NaN. -/
def FVal.isNan : FVal → Bool
  | .nan _ _ => true
  | _ => false

/-- The sign. -/
def FVal.negP : FVal → Bool
  | .nan _ n => n
  | .inf n => n
  | .fin n _ _ => n

/-- The negated value; a NaN stays as it is. -/
def FVal.negate : FVal → FVal
  | .nan s n => .nan s n
  | .inf n => .inf !n
  | .fin n m e => .fin (!n) m e

/-- x + y exactly, with the sign rule of zero sums (R84); the flags are IV for a signalling input or ∞ − ∞ (R90). -/
def fadd (rm : Bool) (x y : FVal) : FVal × Flags :=
  let sig := fIf (x.sig || y.sig) fIV
  match x, y with
  | .nan _ _, _ => (.nan false false, sig)
  | _, .nan _ _ => (.nan false false, sig)
  | .inf a, .inf b => if a == b then (.inf a, 0) else (.nan false false, fIV)
  | .inf a, _ => (.inf a, 0)
  | _, .inf b => (.inf b, 0)
  | .fin a m e, .fin b n k =>
    let zneg := if m = 0 ∧ n = 0 ∧ a = b then a else rm
    (dyVal zneg ((finDy a m e).add (finDy b n k)), 0)

/-- x × y exactly (R90). -/
def fmul (x y : FVal) : FVal × Flags :=
  let sig := fIf (x.sig || y.sig) fIV
  let neg := x.negP != y.negP
  match x, y with
  | .nan _ _, _ => (.nan false false, sig)
  | _, .nan _ _ => (.nan false false, sig)
  | .inf _, .fin _ m _ => if m = 0 then (.nan false false, fIV) else (.inf neg, 0)
  | .fin _ m _, .inf _ => if m = 0 then (.nan false false, fIV) else (.inf neg, 0)
  | .inf _, .inf _ => (.inf neg, 0)
  | .fin _ m e, .fin _ n k => (.fin neg (m * n) (e + k), 0)

/-- x × y + z exactly (R176): an invalid product sets IV even beside a quiet NaN addend. -/
def ffma (x y z : FVal) : FVal × Flags :=
  let p := fmul x y
  let s := fadd false p.1 z
  (s.1, p.2 ||| s.2 ||| fIf z.sig fIV)

/-- The total-order key of R92. -/
def tordKey (f : FF) (x : Nat) : Nat :=
  let w := f.w
  if (f.decode x).isNan then 0
  else if 2 ^ (w - 1) ≤ x % 2 ^ w then 2 ^ w - 1 - x % 2 ^ w + 1
  else x % 2 ^ w + 2 ^ (w - 1) + 1

/-- `vmax` (`mx`) and `vmin` of two encodings (R91, R177). -/
def fmaxmin (f : FF) (mx : Bool) (a b : Nat) : Rnd :=
  let x := f.decode a
  let y := f.decode b
  if x.isNan || y.isNan then ⟨f.nanBits false, fIf (x.sig || y.sig) fIV⟩
  else if (decide (tordKey f b ≤ tordKey f a)) == mx then ⟨a % 2 ^ f.w, 0⟩ else ⟨b % 2 ^ f.w, 0⟩

/-- An ordered comparison of two non-NaN values: x < y as numbers, with −0 = +0. -/
def fltv (x y : FVal) : Bool :=
  match x, y with
  | .inf a, .inf b => a && !b
  | .inf a, _ => a
  | _, .inf b => !b
  | .fin a m e, .fin b n k => !(Dy.le (finDy b n k) (finDy a m e))
  | _, _ => false

/-- The comparisons: 0 eq, 1 ne, 2 lt, 3 le, 4 tord, 5 un, with their flags (R91, R197). -/
def fcmp (f : FF) (cc a b : Nat) : Bool × Flags :=
  let x := f.decode a
  let y := f.decode b
  let n := x.isNan || y.isNan
  let quiet := fIf (x.sig || y.sig) fIV
  let eq := !fltv x y && !fltv y x
  match cc with
  | 0 => (!n && eq, quiet)
  | 1 => (n || !eq, quiet)
  | 2 => if n then (false, fIV) else (fltv x y, 0)
  | 3 => if n then (false, fIV) else (!fltv y x, 0)
  | 4 => (decide (tordKey f a < tordKey f b), 0)
  | _ => (n, quiet)

/-- A float into an integer format: rounded by the mode and clamped (R87, R200). -/
def ftoi (sg : Bool) (w : Nat) (mode : RMode) (v : FVal) : Rnd :=
  match v with
  | .nan _ _ => ⟨0, fIV⟩
  | .inf neg => ⟨toBits w (if neg then minOf sg w else maxOf sg w), fIV⟩
  | .fin neg m e =>
    let sh := (-e).toNat
    let t := if 0 ≤ e then m * 2 ^ e.toNat else m / 2 ^ sh
    let rem := if 0 ≤ e then 0 else m % 2 ^ sh
    let inc := match mode with
      | .rne => decide (2 ^ sh < 2 * rem) || (decide (2 * rem = 2 ^ sh) && t % 2 == 1)
      | .rz => false
      | .rp => rem != 0 && !neg
      | .rm => rem != 0 && neg
      | .rs g => decide (65536 ≤ rem * 65536 / 2 ^ sh + g)
    let r : Int := if inc && rem != 0 then t + 1 else t
    let v := if neg then -r else r
    let c := clampInt sg w v
    if c = v then ⟨toBits w v, fIf (rem != 0) fNX⟩ else ⟨toBits w c, fIV⟩

/-- ⌊log2⌋ of a positive finite value. -/
def flog2 (m : Nat) (e : Int) : Int := (Nat.log2 m : Int) + e

/-- The block-scale helper of R94 on the bits of an `.f32` value, of which it takes the magnitude (log entry 102). -/
def mxScale (amax : Nat) (fmt : BitVec 4) : Rnd :=
  let emax : Int := match fmt.toNat with
    | 11 => 8 | 12 => 15 | 13 => 4 | _ => 2
  match (ffOf 8).decode (amax % 2 ^ 31) with
  | .fin _ m e => if m = 0 then ⟨0, 0⟩ else ⟨(max (-127) (min 127 (flog2 m e - emax)) + 127).toNat, 0⟩
  | _ => ⟨0xFF, fIV⟩

/-- The value of an `.e8m0` scale (R80). -/
def e8m0 (x : Nat) : FVal := if x % 256 = 255 then .nan false false else .fin false 1 ((x % 256 : Nat) - 127)

/-- One step of a lane generator (R85). -/
def lfsr (g : BitVec 16) : BitVec 16 :=
  (g <<< 1) ||| BitVec.zeroExtend 16 (BitVec.ofBool (g.getLsbD 15 ^^ g.getLsbD 13 ^^ g.getLsbD 12 ^^ g.getLsbD 10))

/-! ### Transcendental functions (R99–R101) -/

/-- ⌊ln 2 · 2^192⌋. -/
def ln2Fix : Nat := 4350955369971217654477563090224794165364344896676135745069

/-- ⌊2^192 / ln 2⌋. -/
def log2eFix : Nat := 9055943544797870567083544809312461607371518589544137143473

/-- ⌊√n⌋ by digits, `k` bits of result. -/
def isqrt : (k : Nat) → (n r : Nat) → Nat
  | 0, _, r => r
  | k + 1, n, r => let r' := r + 2 ^ k; isqrt k n (if r' * r' ≤ n then r' else r)

/-- The sum of `y^i / i!` from a running term, in units of 2^−192. -/
def expSum : (fuel : Nat) → (i y term acc : Nat) → Nat
  | 0, _, _, _, acc => acc
  | n + 1, i, y, term, acc => expSum n (i + 1) y (term * y / 2 ^ 192 / (i + 1)) (acc + term)

/-- 2^f · 2^192 for f = x / 2^192 below 1, to about 2^−180. -/
def exp2Fix (x : Nat) : Nat := expSum 48 0 (x * ln2Fix / 2 ^ 192) (2 ^ 192) 0

/-- The sum of `z^(2i+1) / (2i+1)`, in units of 2^−192. -/
def atanhSum : (fuel : Nat) → (i z2 pw acc : Nat) → Nat
  | 0, _, _, _, acc => acc
  | n + 1, i, z2, pw, acc => atanhSum n (i + 1) z2 (pw * z2 / 2 ^ 192) (acc + pw / (2 * i + 1))

/-- log2(m) · 2^192 for m = x / 2^192 in [1, 2), to about 2^−180. -/
def log2Fix (x : Nat) : Nat :=
  let z := (x - 2 ^ 192) * 2 ^ 192 / (x + 2 ^ 192)
  2 * atanhSum 64 0 (z * z / 2 ^ 192) z 0 * log2eFix / 2 ^ 192

/-- An enclosure of the function at a positive or negative finite non-zero argument: a dyadic and the half-width of its error.
Functions: 0 exp2, 1 log2, 2 rcp, 3 rsqrt, 4 tanh (the last at a positive argument). -/
def transRef (fn : Nat) (neg : Bool) (m : Nat) (e : Int) : Dy × Dy :=
  let mant : Nat := m * 2 ^ 192 / 2 ^ Nat.log2 m
  let ex : Int := flog2 m e
  match fn with
  | 0 =>
    let t : Int := (finDy neg m (e + 192)).m * (if 0 ≤ e + 192 then (2 : Int) ^ (e + 192).toNat else 1)
    let t := if 0 ≤ e + 192 then t else t / (2 : Int) ^ (-(e + 192)).toNat
    let n := t / 2 ^ 192
    (⟨exp2Fix (t % 2 ^ 192).toNat, n - 192⟩, ⟨1, n - 170⟩)
  | 1 => (⟨ex * 2 ^ 192 + log2Fix mant, -192⟩, ⟨1, -170⟩)
  | 2 =>
    let r : Int := (2 ^ 384 / mant : Nat)
    (⟨if neg then -r else r, -192 - ex⟩, ⟨1, -190 - ex⟩)
  | 3 =>
    let odd := (ex % 2).toNat
    let r := isqrt 194 (2 ^ 576 / (mant * 2 ^ odd)) 0
    (⟨r, -192 - (ex - odd) / 2⟩, ⟨1, -188 - (ex - odd) / 2⟩)
  | _ =>
    if ex < -14 then
      let c : Int := (m * m * m / 3 : Nat)
      (Dy.add ⟨m, e⟩ ⟨-c, 3 * e⟩, Dy.add ⟨m, e + ex * 4⟩ ⟨1, 3 * e⟩)
    else
      let x2 := if 0 ≤ e + 193 then m * 2 ^ (e + 193).toNat else m / 2 ^ (-(e + 193)).toNat
      let t := x2 * log2eFix / 2 ^ 192
      let n := t / 2 ^ 192
      let ee := exp2Fix (t % 2 ^ 192) * 2 ^ n
      (⟨2 ^ 192 - (2 ^ 385 / (ee + 2 ^ 192) : Nat), -192⟩, ⟨1, -150⟩)

/-- Whether a candidate encoding lies within the bound of R100 of the enclosed value. -/
def transOk (f : FF) (fn : Nat) (cand : Nat) (ref err : Dy) (half2 : Bool) : Bool :=
  match f.decode cand with
  | .fin neg m e =>
    let k : Int := max (flog2 (ref.m.natAbs) ref.e) f.emin
    let ulps : Int := if f.mb = 23 then (match fn with | 2 => 1 | 4 => 3 | _ => 2) else 1
    let bound : Dy := if half2 then ⟨1, -22⟩ else ⟨ulps, k - f.mb⟩
    let d := (finDy neg m e).add ref.neg
    Dy.le ((⟨d.m.natAbs, d.e⟩ : Dy).add err) bound
  | _ => false

/-- The result of a transcendental on an ordinary input: the implementation's candidate where it lies within the bounds of
R100, else the correctly rounded value. -/
def transOrd (f : FF) (fmt fn : Nat) (x : Nat) (neg : Bool) (m : Nat) (e : Int) : Rnd :=
  let re := transRef fn neg m e
  let v := dyVal false re.1
  let r := f.put .rne false false v
  let half2 := fn == 1 && f.mb == 23 && Dy.le ⟨1, -1⟩ ⟨m, e⟩ && Dy.le ⟨m, e⟩ ⟨2, 0⟩
  let cand := Config.transc fn fmt x % 2 ^ f.w
  let ovf := r.fl &&& fOF != 0
  if !ovf && transOk f fn cand re.1 re.2 half2 then
    let tiny := match f.decode cand with
      | .fin _ m e => m = 0 || decide (flog2 m e < f.emin)
      | _ => false
    ⟨cand, fNX ||| fIf tiny fUF⟩
  else ⟨r.bits, r.fl ||| fNX⟩

/-- The encoding of ±2^n, when the format holds it. -/
def FF.pow2 (f : FF) (neg : Bool) (n : Int) : Option Nat :=
  let r := f.round .rne false neg 1 n
  if r.fl = 0 then some r.bits else none

/-- A transcendental function of an encoding (R99–R101). -/
def trans (fmt : BitVec 4) (fn : Nat) (x : Nat) : Rnd :=
  let f := ffOf fmt
  let x := x % 2 ^ f.w
  let nan : Rnd := ⟨f.nanBits false, fIV⟩
  match f.decode x with
  | .nan sig _ => ⟨f.nanBits false, fIf sig fIV⟩
  | .inf neg =>
    match fn with
    | 0 => if neg then ⟨0, 0⟩ else ⟨f.infBits false, 0⟩
    | 1 => if neg then nan else ⟨f.infBits false, 0⟩
    | 2 => ⟨f.sign neg, 0⟩
    | 3 => if neg then nan else ⟨0, 0⟩
    | _ => f.round .rne false neg 1 0
  | .fin neg m e =>
    let isP2 := m = 2 ^ Nat.log2 m
    let ex := flog2 m e
    let ord := transOrd f fmt.toNat fn x neg m e
    if m = 0 then
      match fn with
      | 0 => f.round .rne false false 1 0
      | 1 => ⟨f.infBits true, fDZ⟩
      | 2 => ⟨f.infBits neg, fDZ⟩
      | 3 => ⟨f.infBits neg, fDZ⟩
      | _ => ⟨f.sign neg, 0⟩
    else match fn with
    | 0 =>
      let hi : Nat := if f.eb = 5 then 16 else 128
      let lo : Nat := if f.mb = 23 then 150 else if f.eb = 5 then 25 else 134
      let v := finDy neg m e
      if Dy.le ⟨hi, 0⟩ v then ⟨f.infBits false, fOF ||| fNX⟩
      else if Dy.le v ⟨-(lo : Int), 0⟩ then ⟨0, fUF ||| fNX⟩
      else if 0 ≤ e ∨ m % 2 ^ (-e).toNat = 0 then
        let n := if 0 ≤ e then v.m * 2 ^ e.toNat else v.m / 2 ^ (-e).toNat
        match f.pow2 false n with
        | some b => ⟨b, 0⟩
        | none => ord
      else ord
    | 1 =>
      if neg then nan
      else if isP2 then f.put .rne false false (dyVal false ⟨ex, 0⟩)
      else ord
    | 2 =>
      match (if isP2 then f.pow2 neg (-ex) else none) with
      | some b => ⟨b, 0⟩
      | none => ord
    | 3 =>
      if neg then nan
      else
        match (if isP2 && ex % 2 == 0 then f.pow2 false (-(ex / 2)) else none) with
        | some b => ⟨b, 0⟩
        | none => ord
    | _ =>
      let lim : Nat := if f.mb = 23 then 10 else 5
      let r := if Dy.le ⟨lim, 0⟩ ⟨m, e⟩ then ⟨(f.round .rne false false 1 0).bits, fNX⟩
        else transOrd f fmt.toNat 4 (x % 2 ^ (f.eb + f.mb)) false m e
      ⟨r.bits % 2 ^ (f.eb + f.mb) + f.sign neg, r.fl⟩

end Sys2Proof.Machine
end

