-- ==== Sys2Proof/Machine/VecFn.lean ====
section
/-! DEFINITION. What the vector instructions compute from their operands alone (R172–R181, R187, R196–R208): each function
gives the bits written, the mask of bits written, the flags, and the generators after it. -/
namespace Sys2Proof.Machine

/-- The result of a vector operation: bits of `mask` take those of `val`. -/
structure VRes where
  val : Nat
  mask : Nat
  fl : Flags
  gens : List (BitVec 16)
  deriving DecidableEq, Repr

/-- Element `k` of width `w` (R77, R172). -/
def elem (w : Nat) (v : VReg) (k : Nat) : Nat := (v.toNat >>> (w * k)) % 2 ^ w

/-- Lane `i` (R172). -/
abbrev lane (v : VReg) (i : Nat) : Nat := elem 32 v i

/-- Whether element `k` of width `w` is active (R172); `act` holds one bit per lane. -/
def activeE (act : Word) (w k : Nat) : Bool := act.getLsbD (k * w / 32)

/-- The active lanes of a governing predicate and its negation (R172). -/
def actBits (q : Word) (pn : Bool) : Word := if pn then ~~~q else q

/-- Writes the elements `0 … n − 1` for which `on` holds, each at its place `dst k` with width `wd`; `rs` steps the generator
of lane `ln k` before each (R85, R172). -/
def runE (n wd : Nat) (on : Nat → Bool) (dst ln : Nat → Nat) (rs : Bool) (gens : List (BitVec 16)) (f : Nat → Nat → Rnd) : VRes :=
  (List.range n).foldl (init := ⟨0, 0, 0, gens⟩) fun r k =>
    if on k then
      let g := lfsr (r.gens.getD (ln k) 1)
      let x := f k g.toNat
      ⟨r.val + (x.bits % 2 ^ wd) <<< (wd * dst k), r.mask + (2 ^ wd - 1) <<< (wd * dst k), r.fl ||| x.fl,
       if rs then r.gens.set (ln k) g else r.gens⟩
    else r

/-- The element-wise form: element `k` of every active lane. -/
def mapE (w : Nat) (act : Word) (rs : Bool) (gens : List (BitVec 16)) (f : Nat → Nat → Rnd) : VRes :=
  runE (2048 / w) w (activeE act w) id (fun k => k * w / 32) rs gens f

/-- The mode of a code with a draw (R83). -/
def rmode (c g : Nat) : RMode :=
  match c with
  | 0 => .rne | 1 => .rz | 2 => .rp | 3 => .rm | _ => .rs g

/-- An exact result with its flags put into a format. -/
def FF.fin (f : FF) (m : RMode) (sat : Bool) (v : FVal × Flags) : Rnd :=
  let r := f.put m sat false v.1
  ⟨r.bits, r.fl ||| v.2⟩

/-- `vadd`, `vsub`, `vmul` (R175): `op` 0, 1, 2. -/
def vArith (op : Nat) (fmt : BitVec 4) (mode : Nat) (sat : Bool) (act : Word) (gens : List (BitVec 16)) (a b : VReg) : VRes :=
  let f := ffOf fmt
  mapE (fmtW fmt) act (mode == 4) gens fun k g =>
    let x := f.decode (elem (fmtW fmt) a k)
    let y := f.decode (elem (fmtW fmt) b k)
    f.fin (rmode mode g) sat (match op with
      | 0 => fadd (mode == 3) x y
      | 1 => fadd (mode == 3) x y.negate
      | _ => fmul x y)

/-- `vfma`, `vfms`, `vfnma` (R176): `op` 0, 1, 2. -/
def vFused (op : Nat) (fmt : BitVec 4) (sat : Bool) (act : Word) (a b c : VReg) : VRes :=
  let f := ffOf fmt
  mapE (fmtW fmt) act false [] fun k _ =>
    let x := f.decode (elem (fmtW fmt) a k)
    let y := f.decode (elem (fmtW fmt) b k)
    let z := f.decode (elem (fmtW fmt) c k)
    f.fin .rne sat (match op with
      | 0 => ffma x y z
      | 1 => ffma x y z.negate
      | _ => ffma x.negate y z)

/-- `vmax`, `vmin` (R177). -/
def vMaxMin (mx : Bool) (fmt : BitVec 4) (act : Word) (a b : VReg) : VRes :=
  mapE (fmtW fmt) act false [] fun k _ => fmaxmin (ffOf fmt) mx (elem (fmtW fmt) a k) (elem (fmtW fmt) b k)

/-- `vabs`, `vneg`, `vcpsg` (R177): `op` 0, 1, 2. -/
def vSign (op : Nat) (fmt : BitVec 4) (act : Word) (a b : VReg) : VRes :=
  let f := ffOf fmt
  let h := 2 ^ (f.w - 1)
  mapE (fmtW fmt) act false [] fun k _ =>
    let x := elem (fmtW fmt) a k
    let v := f.decode x
    if v.isNan then ⟨f.nanBits false, fIf v.sig fIV⟩
    else match op with
      | 0 => ⟨x % h, 0⟩
      | 1 => ⟨(x + h) % (2 * h), 0⟩
      | _ => ⟨x % h + elem (fmtW fmt) b k / h * h, 0⟩

/-- The transcendental forms (R178). -/
def vTrans (fn : Nat) (fmt : BitVec 4) (act : Word) (a : VReg) : VRes :=
  mapE (fmtW fmt) act false [] fun k _ => trans fmt fn (elem (fmtW fmt) a k)

/-- Signed integer formats are `.i` (R42). -/
def fmtSg (fmt : BitVec 4) : Bool := fmt < 3

/-- An exact integer result, wrapped or clamped with ST (R179). -/
def iput (sg : Bool) (w : Nat) (sat : Bool) (t : Int) : Rnd :=
  if sat && clampInt sg w t != t then ⟨toBits w (clampInt sg w t), fST⟩ else ⟨toBits w t, 0⟩

/-- The integer forms (R179): 0 add, 1 sub, 2 mul, 3 mad, 4 max, 5 min, 6 abs. -/
def vInt (op : Nat) (fmt : BitVec 4) (sat : Bool) (act : Word) (a b c : VReg) : VRes :=
  let w := fmtW fmt
  let sg := fmtSg fmt
  mapE w act false [] fun k _ =>
    let x := intOf sg w (elem w a k)
    let y := intOf sg w (elem w b k)
    iput sg w sat (match op with
      | 0 => x + y
      | 1 => x - y
      | 2 => x * y
      | 3 => x * y + intOf sg w (elem w c k)
      | 4 => max x y
      | 5 => min x y
      | _ => (x.natAbs : Int))

/-- The logic forms (R180): 0 and, 1 or, 2 xor, 3 not. -/
def vLogic (op : Nat) (fmt : BitVec 4) (act : Word) (a b : VReg) : VRes :=
  let w := fmtW fmt
  mapE w act false [] fun k _ =>
    let x := elem w a k
    let y := elem w b k
    ⟨match op with
      | 0 => x &&& y
      | 1 => x ||| y
      | 2 => x ^^^ y
      | _ => 2 ^ w - 1 - x, 0⟩

/-- The shift forms (R181). -/
def vShift (left : Bool) (fmt : BitVec 4) (sat : Bool) (act : Word) (a b : VReg) : VRes :=
  let w := fmtW fmt
  let sg := fmtSg fmt
  mapE w act false [] fun k _ =>
    let x := intOf sg w (elem w a k)
    let n := elem w b k % w
    iput sg w sat (if left then x * 2 ^ n else x / 2 ^ n)

/-- The compares (R197): condition codes of `fcmp`; `any` combines narrow elements of a lane. The result has one bit per lane. -/
def vCmp (cc : Nat) (fmt : BitVec 4) (any : Bool) (act : Word) (a b : VReg) : VRes :=
  let w := fmtW fmt
  let per := 32 / w
  (List.range 64).foldl (init := ⟨0, 0, 0, []⟩) fun r i =>
    if act.getLsbD i then
      let cs := (List.range per).map fun j =>
        let x := elem w a (i * per + j)
        let y := elem w b (i * per + j)
        if fmtFl3 fmt then fcmp (ffOf fmt) cc x y
        else
          let x := intOf (fmtSg fmt) w x
          let y := intOf (fmtSg fmt) w y
          (match cc with
            | 0 => x == y
            | 1 => x != y
            | 2 => decide (x < y)
            | _ => decide (x ≤ y), (0 : Flags))
      let bit := if any then cs.any (·.1) else cs.all (·.1)
      ⟨r.val + (if bit then 2 ^ i else 0), r.mask + 2 ^ i, cs.foldl (fun f c => f ||| c.2) r.fl, []⟩
    else r

/-- An element copied from a register. A ternary code 0b10 reads as 0, sets TB and is written by no instruction (R81; log entry
96). -/
def copyE (fmt : BitVec 4) (x : Nat) : Rnd := if fmt = 6 ∧ x = 2 then ⟨0, fTB⟩ else ⟨x, 0⟩

/-- `vsel` (R198): it raises no flag. -/
def vSel (fmt : BitVec 4) (act q : Word) (a b : VReg) : VRes :=
  let w := fmtW fmt
  mapE w act false [] fun k _ => ⟨if activeE q w k then elem w a k else elem w b k, 0⟩

/-- The key of a `vcxc` pair (R199). -/
def cxcKey (fmt : BitVec 4) (x : Nat) : Nat :=
  if fmt = 8 then tordKey (ffOf 8) x else if fmt = 2 then (x + 2 ^ 31) % 2 ^ 32 else x

/-- `vcxc` (R199). -/
def vCxc (fmt : BitVec 4) (lo : Bool) (act : Word) (a b : VReg) : VRes :=
  (List.range 32).foldl (init := ⟨0, 0, 0, []⟩) fun r j =>
    if act.getLsbD (2 * j) then
      let ka := cxcKey fmt (lane a (2 * j))
      let kb := cxcKey fmt (lane b (2 * j))
      let aw := decide (kb < ka) || (ka == kb && decide (lane a (2 * j + 1) ≤ lane b (2 * j + 1)))
      let w := if aw != lo then a else b
      ⟨r.val + elem 64 w j <<< (64 * j), r.mask + (2 ^ 64 - 1) <<< (64 * j), 0, []⟩
    else r

/-- One conversion (R87, R200). -/
def convert (src dst : BitVec 4) (m : RMode) (sat : Bool) (x : Nat) : Rnd :=
  if src = 6 then
    match x % 4 with
    | 1 => ⟨1, 0⟩
    | 3 => ⟨255, 0⟩
    | 2 => ⟨0, fTB⟩
    | _ => ⟨0, 0⟩
  else if src = 7 then (ffOf 8).put .rne false false (e8m0 x)
  else if fmtInt src then
    let v := intOf (fmtSg src) (fmtW src) x
    if fmtInt dst then iput (fmtSg dst) (fmtW dst) sat v
    else (ffOf dst).put m sat false (dyVal false ⟨v, 0⟩)
  else
    let v := (ffOf src).decode (x % 2 ^ (ffOf src).w)
    if fmtInt dst then ftoi (fmtSg dst) (fmtW dst) m v else (ffOf dst).put m sat true v

/-- `vcvt` (R200): part `p`. -/
def vCvt (src dst : BitVec 4) (mode p : Nat) (sat : Bool) (act : Word) (gens : List (BitVec 16)) (a : VReg) : VRes :=
  let ws := fmtW src
  let wd := fmtW dst
  let wm := max ws wd
  let n := 2048 / wm
  runE n wd (activeE act wm) (fun k => if wd < ws then p * n + k else k) (fun k => k * wm / 32) (mode == 4) gens
    fun k g => convert src dst (rmode mode g) sat (elem ws a (if ws < wd then p * n + k else k))

/-- `vpack` (R201). -/
def vPack (a : VReg) : VRes :=
  runE 256 6 (fun _ => true) id (fun _ => 0) false [] (fun k _ => ⟨elem 8 a k % 64, 0⟩) |> fun r =>
    { r with mask := 2 ^ 2048 - 1 }

/-- `vunpk` (R201). -/
def vUnpk (a : VReg) : VRes :=
  runE 256 8 (fun _ => true) id (fun _ => 0) false [] fun k _ => ⟨elem 6 a k, 0⟩

/-- `vscl` (R202). -/
def vScl (fmt : BitVec 4) (act : Word) (a : VReg) : VRes :=
  runE 64 8 (fun i => act.getLsbD i) id id false [] fun i _ => mxScale (lane a i) fmt

/-- `vqmx` (R203). -/
def vQmx (fmt : BitVec 4) (mode p m : Nat) (sat : Bool) (act : Word) (gens : List (BitVec 16)) (a b : VReg) : VRes :=
  runE 64 (fmtW fmt) (fun i => act.getLsbD i) (fun i => 64 * p + i) id (mode == 4) gens fun i g =>
    let x := elem 8 b (2 * m + i / 32)
    let v := match (ffOf 8).decode (lane a i) with
      | .fin neg mm e => if x = 255 then .nan false false else .fin neg mm (e - ((x : Int) - 127))
      | .inf neg => if x = 255 then .nan false false else .inf neg
      | .nan s n => .nan s n
    let r := (ffOf fmt).put (rmode mode g) sat true v
    ⟨r.bits, r.fl ||| fIf (x == 255) fIV⟩

/-- `vperm` (R205): the index is the whole element of vB, of 8 bits for the FP6 formats (R79; log entry 97). -/
def vPerm (fmt : BitVec 4) (act : Word) (a b : VReg) : VRes :=
  let w := fmtW fmt
  mapE w act false [] fun k _ => ⟨elem w a (elem w b k % (2048 / w)), 0⟩

/-- `vbcast` (R205). -/
def vBcast (fmt : BitVec 4) (i : Nat) (act : Word) (a : VReg) : VRes :=
  let w := fmtW fmt
  mapE w act false [] fun _ _ => copyE fmt (elem w a i)

/-- `vzip` (R205). -/
def vZip (fmt : BitVec 4) (h : Nat) (act : Word) (a b : VReg) : VRes :=
  let w := fmtW fmt
  let e := 2048 / w
  mapE w act false [] fun k _ => copyE fmt (elem w (if k % 2 = 0 then a else b) (h * (e / 2) + k / 2))

/-- `vuzp` (R205). -/
def vUzp (fmt : BitVec 4) (h : Nat) (act : Word) (a b : VReg) : VRes :=
  let w := fmtW fmt
  let e := 2048 / w
  mapE w act false [] fun k _ =>
    copyE fmt (if k < e / 2 then elem w a (2 * k + h) else elem w b (2 * (k - e / 2) + h))

/-- `vmov` (R207); its ternary elements are read as numbers, as those of the other moves are (log entry 96). -/
def vMov (fmt : BitVec 4) (act : Word) (a : VReg) : VRes :=
  mapE (fmtW fmt) act false [] fun k _ => copyE fmt (elem (fmtW fmt) a k)

/-- The exact sum of a list of values with the special rules of R98, and the sign of an empty or exactly zero sum. -/
def fsum (l : List FVal) : FVal × Flags :=
  let sig := fIf (l.any FVal.sig) fIV
  let pinf := l.any fun v => match v with | .inf n => !n | _ => false
  let ninf := l.any fun v => match v with | .inf n => n | _ => false
  if l.any FVal.isNan then (.nan false false, sig ||| fIf (pinf && ninf) fIV)
  else if pinf && ninf then (.nan false false, fIV)
  else if pinf then (.inf false, 0)
  else if ninf then (.inf true, 0)
  else
    let s := l.foldl (fun d v => match v with | .fin n m e => d.add (finDy n m e) | _ => d) ⟨0, 0⟩
    let allNeg := !l.isEmpty && l.all fun v => match v with | .fin n m _ => n && m = 0 | _ => false
    (dyVal allNeg s, 0)

/-- The reductions (R206): 0 sum, 1 max, 2 min, 3 largest magnitude, 4 integer sum. Segments of 2^s elements; results from
element `t`. -/
def vRed (op : Nat) (fmt : BitVec 4) (s t : Nat) (sat : Bool) (act : Word) (a : VReg) : VRes :=
  let w := fmtW fmt
  let f := ffOf fmt
  let sg := fmtSg fmt
  let wd := if op = 4 then 32 else w
  runE (2048 / w / 2 ^ s) wd (fun _ => true) (t + ·) (fun _ => 0) false [] fun g _ =>
    let xs := ((List.range (2 ^ s)).map (g * 2 ^ s + ·)).filter (activeE act w) |>.map (elem w a)
    match op with
    | 0 => f.fin .rne sat (fsum (xs.map f.decode))
    | 4 =>
      let v := xs.foldl (fun z x => z + intOf sg w x) (0 : Int)
      iput sg 32 sat v
    | 3 =>
      let vs := xs.map f.decode
      if vs.any FVal.isNan then ⟨f.nanBits false, fIf (vs.any FVal.sig) fIV⟩
      else ⟨xs.foldl (fun z x => max z (x % 2 ^ (w - 1))) 0, 0⟩
    | _ =>
      if fmtFl3 fmt then
        let vs := xs.map f.decode
        if vs.any FVal.isNan then ⟨f.nanBits false, fIf (vs.any FVal.sig) fIV⟩
        else ⟨xs.foldl (fun z x => (fmaxmin f (op == 1) z x).bits) (f.infBits (op == 1)), 0⟩
      else
        let vs := xs.map (intOf sg w)
        ⟨toBits w (if op = 1 then vs.foldl max (minOf sg w) else vs.foldl min (maxOf sg w)), 0⟩

/-- `qset nz` (R196). -/
def laneNz (a : VReg) : Nat := (List.range 64).foldl (fun z i => if lane a i = 0 then z else z + 2 ^ i) 0

/-- The output of a pop in an extraction mode (R187); `c` is the chunk as a little-endian number. -/
def extract (ow xm f n s off p : Nat) (c : Nat) : Nat × Flags :=
  (List.range (2048 / ow)).foldl (init := (0, 0)) fun r k =>
    let x := (c >>> (p * (k / n) + off + (k % n) * s)) % 2 ^ f
    let e : Nat × Flags := match xm with
      | 1 => (x, 0)
      | 2 => (toBits ow (intOf true f x), 0)
      | _ => match x % 4 with
        | 1 => (1, 0)
        | 3 => (2 ^ ow - 1, 0)
        | 2 => (0, fTB)
        | _ => (0, 0)
    (r.1 + e.1 <<< (ow * k), r.2 ||| e.2)

end Sys2Proof.Machine
end

