-- ==== Sys2Proof/Machine/Operands.lean ====
section
/-! DEFINITION. Operand forms: addresses of scalar memory words, vector sources, ports and destinations (R43, R45, R62, R168–R173,
R183–R190, R195). -/
namespace Sys2Proof.Machine

/-- The access size of a type (R45, R276). -/
def tySize (ty : BitVec 3) : Nat := 2 ^ (ty.toNat % 4)

/-- Whether a type is signed (R45). -/
def tySigned (ty : BitVec 3) : Bool := ty < 4

/-- A value of `w` bits extended to 64 by the type's signedness (R134). -/
def ext64 (ty : BitVec 3) (x : Nat) : Word := BitVec.ofInt 64 (intOf (tySigned ty) (8 * tySize ty) x)

/-- The address of an S.M word: base, offset and, for a sticky word, j steps of the access size (R45, R62). -/
def smAddr (s : State) (f : SM) (size : Nat) : Word :=
  let b := s.me.sreg f.base
  if f.stk then
    b + (f.addr.extractLsb' 8 10).signExtend 64 + BitVec.ofNat 64 (s.iss.j * size) * (f.addr.extractLsb' 0 8).signExtend 64
  else b + f.addr.signExtend 64

/-- The address of a C operand at the slot's sticky index (R47, R62). -/
def cAddr (s : State) (f : CO) (r : BitVec 5) : Word :=
  s.me.areg f.file r + BitVec.ofNat 64 (s.iss.j * 64) * f.step.signExtend 64

/-- The k origin of a descriptor at the slot's sticky index (R62). -/
def kOrigin (s : State) (f : MO) (td : BitVec 256) : Nat :=
  fld td.toNat 159 144 + s.iss.j * f.kstep.toNat * 32

/-- A predicate register: q0 reads as all true (R33, R195). -/
def Ctx.qreg (c : Ctx) (file : Bool) (n : Nat) : Word := if n = 0 then BitVec.allOnes 64 else tget 0 (c.vf file).q n

/-- Whether a register is expired at the current cycle (R170). -/
def expired (s : State) (v : VFile) (n : Nat) : Bool :=
  v.expired.contains n || (match v.eph.find? (·.1 == n) with | some d => decide (d.2 ≤ s.cycle) | none => false)

/-- The address that names a register in a fault (R168). -/
def regAddr (file : Bool) (n : Nat) : Nat := (if file then 2048 else 0) + n

/-- A parity failure on a read: it faults, and counts if the trap is taken (R168, R444). -/
def State.parityFault (s : State) (file : Bool) (n : Nat) : State :=
  (s.faultAt .memue (regAddr file n)).modIss fun i => { i with soft := i.soft ++ [coreOf i.cid * 2 + if file then 1 else 0] }

/-- The active lanes of a vector word (R172). -/
def voAct (f : VO) (s : State) : Word := actBits (s.me.qreg f.file f.qp.toNat) f.pn

/-! ### Ports -/

/-- The port as the bundle sees it: its last change in the bundle, or its committed state (R58). -/
def State.portNow (s : State) (file : Bool) (p : Nat) : Port :=
  s.iss.effs.foldl (init := tget {} (s.me.vf file).ports p) fun x e =>
    match e with
    | .port f q v => if f == file && q == p then v else x
    | _ => x

/-- The loop counts of a port record (R184). -/
def pCnt (r : BitVec 512) (l : Nat) : Nat := fld r.toNat (207 + 16 * l) (192 + 16 * l) + 1

/-- The product of the loop counts (R183). -/
def pTotal (r : BitVec 512) : Nat := pCnt r 0 * pCnt r 1 * pCnt r 2 * pCnt r 3

/-- The output element width of a record (R184). -/
def pOw (r : BitVec 512) : Nat := 8 * 2 ^ fld r.toNat 289 288

/-- The bytes of a chunk (R186). -/
def pBytes (r : BitVec 512) : Nat :=
  if fld r.toNat 287 286 = 0 then 256
  else 2048 / pOw r / (fld r.toNat 285 279 + 1) * ((fld r.toNat 259 256 + 1) * 8) / 8

/-- The address of the chunk at a position (R186). -/
def pAddr (p : Port) (j : Nat) : Nat :=
  let str := fun l => BitVec.signExtend 64 (p.rcd.extractLsb' (64 + 32 * l) 32)
  let c0 := pCnt p.rcd 0
  let c1 := pCnt p.rcd 1
  let c2 := pCnt p.rcd 2
  (p.base + wd (j % c0) * str 0 + wd (j / c0 % c1) * str 1 + wd (j / (c0 * c1) % c2) * str 2 +
    wd (j / (c0 * c1 * c2) % pCnt p.rcd 3) * str 3).toNat

/-- The output of a pop from a chunk (R186, R187). -/
def pOut (r : BitVec 512) (bs : List Byte) : Nat × Flags :=
  if fld r.toNat 287 286 = 0 then (leNat bs, 0)
  else extract (pOw r) (fld r.toNat 287 286) (fld r.toNat 264 260 + 1) (fld r.toNat 285 279 + 1) (fld r.toNat 278 272 + 1)
    (fld r.toNat 271 265) ((fld r.toNat 259 256 + 1) * 8) (leNat bs)

/-- The position after one advance, and the position it takes, if any (R188). -/
def pStep (p : Port) : Option Nat × Nat :=
  let t := pTotal p.rcd
  if p.pos < t then (some p.pos, p.pos + 1)
  else if p.rcd.getLsbD 290 then (some 0, 1)
  else (none, t)

/-- What an access by a vector slot may reach (R242, R268): ports do not reach the ring window. -/
def accLoad : Acc := { ring := true, glob := true }
/-- What a port may reach. -/
def accPort : Acc := { glob := true }
/-- What a slot's store or atomic may reach (R243, R277). -/
def accStore : Acc := { wr := true, glob := true }
/-- What a record in memory may reach (R9, R243). -/
def accRec : Acc := {}

/-- One pop (R188–R190). -/
def pop (s : State) (file : Bool) (n : Nat) (k : State → VReg → State) : State :=
  let p := s.portNow file n
  if !p.conf then s.faultB .illenc
  else
    let st := pStep p
    match st.1 with
    | none => k (s.eff (.port file n { p with pos := st.2 })) 0
    | some j =>
      let a := pAddr p j
      let len := pBytes p.rcd
      let fin := fun (s : State) (bs : List Byte) =>
        let o := pOut p.rcd bs
        let s := s.eff (.port file n { p with pos := st.2, chunks := p.chunks.filter (·.pos != j) })
        let s := if o.2 = 0 then s else s.eff (.flags (if file then 1 else 0) (o.2.zeroExtend 64))
        k (s.charge 0 (sectors a len)) (BitVec.ofNat 2048 o.1)
      match p.chunks.find? fun c => c.pos == j && chunkHeld s (coreOf s.iss.cid) c with
      | some c =>
        match c.fault with
        | some (code, addr) =>
          s.modIss fun i => { i with flts := i.flts ++ [(i.cur, { cls := 1, code := code, addr := wd addr })] }
        | none => fin s c.bytes
      | none => slotRead s accPort a len p.wit fin (byte := true)

/-! ### Sources and destinations -/

/-- The bundle immediate in every element of width `w` (R43). -/
def bimmOf (s : State) (w : Nat) : VReg :=
  let x := s.iss.bimm.toNat % 2 ^ w
  BitVec.ofNat 2048 ((List.range (2048 / w)).foldl (fun z k => z + x <<< (w * k)) 0)

/-- One source read whole (R168, R170, R173). -/
def readSrc (s : State) (file : Bool) (x : BitVec 11) (w : Nat) (k : State → VReg → State) : State :=
  if x < 1536 then
    if expired s (s.me.vf file) x.toNat then s.faultAt .regexp (regAddr file x.toNat)
    else if (s.me.vf file).badReg x.toNat then s.parityFault file x.toNat
    else k s (tget 0 (s.me.vf file).r x.toNat)
  else if x < 1544 then pop s file (x.toNat - 1536) k
  else if x = 1544 then k s s.me.mrow
  else k s (bimmOf s w)

/-- Sources in the order A, B, C (R173). -/
def readSrcs (s : State) (file : Bool) (w : Nat) (l : List (BitVec 11)) (k : State → List VReg → State) : State :=
  match l with
  | [] => k s []
  | x :: xs => readSrc s file x w fun s v => readSrcs s file w xs fun s vs => k s (v :: vs)

/-- The bits of a register that hold FP6 elements (R79). -/
def fp6Bits : VReg := (0x3F#8).replicate 256

/-- A vector result: a partial write of an expired register faults; the bits land with their class, and flags and generators
are effects (R64, R85, R89, R170, R172). -/
def landRaw (s : State) (f : VO) (lat : Nat) (r : VRes) : State :=
  let d := f.d.toNat
  let mask : VReg := BitVec.ofNat 2048 r.mask
  if mask != BitVec.allOnes 2048 && expired s (s.me.vf f.file) d then s.faultAt .regexp (regAddr f.file d)
  else
    let s := s.eff (.land { dst := .v f.file d, due := s.me.n + lat, val := BitVec.ofNat 2048 r.val, mask := mask, eph := f.e })
    if r.fl = 0 then s else s.eff (.flags (if f.file then 1 else 0) (r.fl.zeroExtend 64))

/-- A vector result of elements of the word's format: FP6 elements are written with bits [7:6] zero (R79). -/
def landV (s : State) (f : VO) (lat : Nat) (r : VRes) : State :=
  landRaw s f lat (if f.fmt = 13 ∨ f.fmt = 14 then { r with val := r.val &&& fp6Bits.toNat } else r)

/-- The generators of a vector file (R85): lane i starts at i + 1. -/
def gensOf (v : VFile) : List (BitVec 16) := (List.range 64).map fun i => tget (BitVec.ofNat 16 (i + 1)) v.gen i

/-- The changed generators, as an effect (R85). -/
def landGens (s : State) (file : Bool) (gens : List (BitVec 16)) : State :=
  s.eff (.gens file ((List.range 64).map fun i => (i, gens.getD i 1)))

/-- A predicate result: the bits of `mask` take those of `v` (R195). -/
def landQ (s : State) (file : Bool) (d : Nat) (v mask : Word) (lat : Nat) : State :=
  s.eff (.land { dst := .q file d, due := s.me.n + lat, val := v.zeroExtend 2048, mask := mask.zeroExtend 2048 })

/-- A vector word: its charge, its sources, and what it does with them. -/
def vOp (s : State) (f : VO) (units w : Nat) (src : List (BitVec 11)) (k : State → List VReg → State) : State :=
  readSrcs (s.charge units 0) f.file w src k

/-- A vector word that writes its destination from its sources alone. -/
def vPure (s : State) (f : VO) (units lat : Nat) (src : List (BitVec 11)) (g : Word → List VReg → VRes) : State :=
  vOp s f units (fmtW f.fmt) src fun s vs => landV s f lat (g (voAct f s) vs)

/-- As `vPure`, where neither the sources, of width `w`, nor the result are made of elements of the word's format (R201, R202). -/
def vWhole (s : State) (f : VO) (units lat w : Nat) (src : List (BitVec 11)) (g : Word → List VReg → VRes) : State :=
  vOp s f units w src fun s vs => landRaw s f lat (g (voAct f s) vs)

/-- A result with the stochastic generators that it leaves (R85). -/
def landRound (s : State) (f : VO) (lat : Nat) (g : Word → List (BitVec 16) → VRes) : State :=
  let old := gensOf (s.me.vf f.file)
  let r := g (voAct f s) old
  let s := landV s f lat r
  if r.gens = old then s else landGens s f.file r.gens

/-- A word with the stochastic generators, over sources of width `w` (R43, R85). -/
def vRound (s : State) (f : VO) (units lat w : Nat) (src : List (BitVec 11))
    (g : Word → List (BitVec 16) → List VReg → VRes) : State :=
  vOp s f units w src fun s vs => landRound s f lat fun act old => g act old vs

end Sys2Proof.Machine
end

