-- ==== Sys2Proof/Machine/Record.lean ====
section
/-! DEFINITION. Register images and the context record: its base part, its extension, the vector pages and tiles, what a restore
reads back, and the entry of a dump (R88, R106, R124–R126, R376, R388–R392). -/
namespace Sys2Proof.Machine

/-- The bytes of words. -/
def wordBytes (l : List Word) : List Byte := l.flatMap fun w => leBytes 8 w.toNat

/-- A list cut or filled with zero bytes to `n`. -/
def padTo (n : Nat) (l : List Byte) : List Byte := (l ++ List.replicate (n - l.length) 0).take n

/-- The 256 bytes of a register. -/
def vBytes (v : VReg) : List Byte := leBytes 256 v.toNat

/-- `ctx.id` (R126, R149). -/
def ctxId (s : State) (cid : Nat) : Word :=
  let c := s.ctx cid
  if isStream cid then wd (c.ifc * 2 ^ 58 + ctxNo cid * 2 ^ 45)
  else wd (c.ifc * 2 ^ 58 + coreOf cid * 2 ^ 48 + ctxNo cid * 2 ^ 45 + c.tseq % 2 ^ 40)

/-- `ctx.st` from its fields (R126). -/
def ctxStWord (refuse xrep lpri epri : Nat) (evc exh : Bool) : Word :=
  wd (min refuse 255 * 2 ^ 16 + xrep % 16 * 2 ^ 12 + lpri % 8 * 2 ^ 8 + epri % 8 * 2 ^ 4 + (if evc then 2 else 0) + if exh then 1 else 0)

/-- `ctx.st` (R126). -/
def ctxSt (c : Ctx) : Word := ctxStWord c.refuse c.xrep c.lb.prio c.epri c.evc c.exh

/-- `fault.code` (R376). -/
def fltCode (f : Flt) : Word := wd (f.cls % 8 * 256 + f.code % 256)

/-- Waits of the next STOP bundle, from an address: the dynamic bundles up to and including it (R66, R378). -/
def stopDist (s : State) (cid : Nat) : (fuel : Nat) → (pc rep : Nat) → Nat
  | 0, _, _ => 0
  | n + 1, pc, rep =>
    match resolve s (s.who cid) { fetch := true, loc := false } false pc 8 with
    | .error _ => 0
    | .ok segs =>
      match decodeHeader (isStream cid) (wd (leNat (readSegs s segs))) with
      | none => 0
      | some h =>
        let k := h.rep + 1 - rep
        if h.stop then k else k + stopDist s cid n (pc + 8 + 8 * (presSlots h.pres).length) 0

/-- The landing queue of a context with remaining counts (R378, R390). -/
def queueOf (s : State) (cid : Nat) : List Landing :=
  let c := s.ctx cid
  match c.resume with
  | some r => r.landing
  | none =>
    let d := stopDist s cid 16 c.pc.toNat c.rep
    let l := c.landing.map fun l => { l with due := max (l.due + 1 - c.n) (if l.stop then d + 1 else 1) }
    (l.filter (·.xmv)) ++ l.filter (!·.xmv)

/-- The slot that owns a landing target: S, V0, V1, M, C0, C1 as 0–5 (R378). -/
def Dst.owner : Dst → Nat
  | .s _ | .k _ => 0
  | .v f _ | .q f _ => if f then 2 else 1
  | .mrow | .td _ => 3
  | .a f _ => if f then 5 else 4

/-- The target code and register number of an entry (R390). -/
def Dst.code : Dst → Nat × Nat
  | .s r => (0, r) | .k r => (1, r) | .v f r => (if f then 3 else 2, r) | .q f r => (if f then 5 else 4, r)
  | .mrow => (6, 0) | .td r => (6, r + 1) | .a f r => (7, (if f then 2 ^ 11 else 0) + r)

/-- The target of a code and a register number. -/
def Dst.ofCode (t r : Nat) : Dst :=
  match t with
  | 0 => .s r | 1 => .k r | 2 => .v false r | 3 => .v true r | 4 => .q false r | 5 => .q true r
  | 6 => if r = 0 then .mrow else .td (r - 1)
  | _ => .a (decide (2 ^ 11 ≤ r)) (r % 2 ^ 11)

/-- Whether the value of an entry stands in a value area (R390). -/
def Dst.wide : Dst → Bool
  | .v _ _ | .mrow | .td _ => true
  | _ => false

/-- The contents of the register that an entry lands in. -/
def Ctx.oldOf (c : Ctx) : Dst → VReg
  | .v f r => tget 0 (c.vf f).r r
  | .q f r => (tget 0 (c.vf f).q r).zeroExtend 2048
  | .s r => (tget 0 c.s r).zeroExtend 2048
  | .k r => if c.k.getLsbD r then 1 else 0
  | .mrow => c.mrow
  | .td r => (tget 0 c.td r).zeroExtend 2048
  | .a f r => (tget 0 (if f then c.a1 else c.a0) r).zeroExtend 2048

/-- Entries put in landing order. -/
def byDue (l : List Landing) : List Landing :=
  l.foldl (fun r e => r.filter (·.due ≤ e.due) ++ e :: r.filter (e.due < ·.due)) []

/-- A queue whose partial results are completed with the contents that they will find. -/
def mergeQueue (c : Ctx) (q : List Landing) : List Landing :=
  (byDue q).foldl (init := []) fun r l =>
    let old := match r.reverse.find? (·.dst == l.dst) with | some p => p.val | none => c.oldOf l.dst
    r ++ [{ l with val := (l.val &&& l.mask) ||| (old &&& ~~~l.mask) }]

/-- The landing entries of one slot. -/
def slotQueue (c : Ctx) (q : List Landing) (slot : Nat) : List Landing :=
  ((mergeQueue c q).filter fun l => l.dst.owner == slot).take 256

/-- A slot's 256 entries (R390). -/
def queueBytes (l : List Landing) : List Byte :=
  padTo 4096 (l.flatMap fun e =>
    let (t, r) := e.dst.code
    wordBytes [wd (2 ^ 63 + t * 2 ^ 60 + r % 4096 * 2 ^ 48 + e.due % 256 * 2 ^ 40), if e.dst.wide then 0 else e.val.setWidth 64])

/-- A value area (R390). -/
def valueBytes (l : List Landing) : List Byte :=
  padTo 65536 (l.flatMap fun e => if e.dst.wide then vBytes e.val else List.replicate 256 0)

/-- A port in the record (R388). -/
def portBytes (p : Port) : List Byte :=
  let t := pTotal p.rcd
  let r : BitVec 512 := p.rcd ||| (if p.conf then 1#512 <<< 511 else 0) ||| (if p.conf && p.pos == t then 1#512 <<< 510 else 0)
  let c0 := pCnt p.rcd 0
  let c1 := pCnt p.rcd 1
  let c2 := pCnt p.rcd 2
  let pos := if p.conf && p.pos == t then 0
    else p.pos % c0 + p.pos / c0 % c1 * 2 ^ 16 + p.pos / (c0 * c1) % c2 * 2 ^ 32 + p.pos / (c0 * c1 * c2) * 2 ^ 48
  leBytes 64 r.toNat ++ leBytes 8 p.base.toNat ++ leBytes 8 pos

/-- The control word of a barrier (R152). -/
def Barrier.control (b : Barrier) : Word :=
  wd (b.gen.toNat * 2 ^ 56 + b.exp.toNat * 2 ^ 32 + b.arr.toNat * 2 ^ 16 + (if b.brk then 8 else 0) + (if b.ovf then 4 else 0) +
    (if b.done then 2 else 0) + if b.arm then 1 else 0)

/-- The slots by number. -/
def slotNo : Slot → Nat
  | .s => 0 | .v0 => 1 | .v1 => 2 | .m => 3 | .c0 => 4 | .c1 => 5

/-- The resume point and sticky words of a context: those a trap saved, or those it stands at (R379, R389). -/
def resumeOf (s : State) (cid : Nat) : Resume :=
  let c := s.ctx cid
  match c.resume with
  | some r => r
  | none => { pc := c.pc, rep := c.rep, sticky := c.sticky, landing := queueOf s cid }

/-- Retries taken of the bundle at a point (R384). -/
def Ctx.triesAt (c : Ctx) (pc : Word) (rep : Nat) : Nat := if c.retryPc = pc ∧ c.retryRep = rep then c.retries else 0

/-- The queued faults that a record holds: four at most, in arrival order, with the address of the bundle where their rule names none; the
first carries QOVF where faults were lost (R376, R381, R390). -/
def heldFaults (c : Ctx) (pc : Word) : List Flt :=
  let lost := c.qovf || decide (4 < c.queued.length)
  (c.queued.take 4).zipIdx.map fun p =>
    let f := if p.1.here then { p.1 with addr := pc, here := false } else p.1
    if p.2 = 0 ∧ lost then { f with cause := f.cause % 2 ^ 16 + 2 ^ 16 } else f

/-- The control words (R389). -/
def controlWords (s : State) (cid : Nat) : List Word :=
  let c := s.ctx cid
  let r := resumeOf s cid
  let act := r.sticky.foldl (fun z p => z + 2 ^ p.1) 0
  let js := r.sticky.foldl (fun z p => z + p.2.j % 256 * 2 ^ (8 * p.1)) 0
  let ge := (List.range 4).foldl (fun z i =>
    match tget none c.ge i with | some e => z + (256 + e.grp % 256) * 2 ^ (9 * i) | none => z) 0
  let ns := fun i => match tget none c.ge i with | some e => e.nseq.toNat | none => 0
  [ r.pc, wd (r.rep % 16 + act * 2 ^ 8 + (if c.resume.isSome then 2 ^ 16 else 0) + c.triesAt r.pc r.rep % 8 * 2 ^ 17), wd js,
    (c.k.zeroExtend 64) &&& 0xFE, wd c.bi, wd c.bm, c.cont, c.xpc, ctxId s cid, ctxSt c, c.mxStat, c.v0.stat, c.v1.stat, c.mxPwr,
    c.mxK, c.ret.zeroExtend 64, c.rrp.zeroExtend 64, c.lm.zeroExtend 64, c.mb,
    wd (c.dl % 65536 + (c.mo - 1) % 16 * 2 ^ 16 + c.pn.toNat * 2 ^ 32), c.wsto, c.wcpy, fltCode c.flt, wd c.flt.mask, c.flt.addr,
    wd c.flt.rep, wd c.flt.cause, wd ge, wd (ns 0 + ns 1 * 2 ^ 32), wd (ns 2 + ns 3 * 2 ^ 32), wd (min c.queued.length 4), 0 ]

/-- The base part of the context record, 4 KiB (R388). -/
def recordBase (s : State) (cid : Nat) : List Byte :=
  let c := s.ctx cid
  let r := resumeOf s cid
  let w := fun i => tget {} c.w i
  wordBytes ((List.range 64).map fun i => if i < c.lb.sreg then tget 0 c.s i else 0) ++
  wordBytes ((List.range 32).map fun i => (w i).val) ++
  wordBytes ((List.range 32).flatMap fun i => let b := tget {} c.b i; [b.control, b.w]) ++
  wordBytes ((List.range 32).map fun i => tget 0 c.a0 i) ++ wordBytes ((List.range 32).map fun i => tget 0 c.a1 i) ++
  wordBytes ((List.range 16).map fun i => tget 0 c.v0.q i) ++ wordBytes ((List.range 16).map fun i => tget 0 c.v1.q i) ++
  (gensOf c.v0 ++ gensOf c.v1).flatMap (fun g => leBytes 2 g.toNat) ++
  wordBytes (controlWords s cid) ++
  (List.range 8).flatMap (fun i => portBytes (tget {} c.v0.ports i)) ++
  (List.range 8).flatMap (fun i => portBytes (tget {} c.v1.ports i)) ++
  wordBytes ((List.range 6).map fun i => match r.sticky.find? (·.1 == i) with | some p => p.2.word | none => 0) ++
  List.replicate 208 0

/-- The expired marks of a file (R171, R390). -/
def markBytes (s : State) (v : VFile) (names : Nat) : List Byte :=
  leBytes 192 ((List.range names).foldl (fun z i => if expired s v i then z + 2 ^ i else z) 0)

/-- A queued fault (R390). -/
def qfltBytes (f : Flt) : List Byte :=
  wordBytes [wd (2 ^ 63) ||| fltCode f, f.addr, wd (f.cause % 2 ^ 17), wd (f.tick % 2 ^ 60)]

/-- A cause-chain entry (R392). -/
def chainBytes (e : ChainEnt) : List Byte :=
  wordBytes [e.addr, wd (e.tick % 2 ^ 60), wd (e.code % 256 + e.level % 8 * 2 ^ 8 + e.policy % 4 * 2 ^ 11 + e.cls % 8 * 2 ^ 13 +
    e.cause % 2 ^ 16 * 2 ^ 16 + e.retries % 16 * 2 ^ 32), 0]

/-- The extension, 256 KiB (R390). -/
def recordExt (s : State) (cid : Nat) : List Byte :=
  let c := s.ctx cid
  let q := queueOf s cid
  let sq := slotQueue c q
  (List.range 8).flatMap (fun i => padTo 1024 ((List.range 1024).map fun j => tget 0 c.e (i * 1024 + j))) ++
  valueBytes (sq 1) ++ valueBytes (sq 2) ++ valueBytes (sq 3) ++ vBytes c.mrow ++
  (List.range 16).flatMap (fun i => leBytes 32 (tget 0 c.td i).toNat) ++
  (List.range 6).flatMap (fun i => queueBytes (sq i)) ++
  markBytes s c.v0 (64 * c.lb.vp0) ++ markBytes s c.v1 (64 * c.lb.vp1) ++
  padTo 128 ((heldFaults c (resumeOf s cid).pc).flatMap qfltBytes) ++ padTo 256 (c.chain.flatMap chainBytes) ++ List.replicate 31232 0

/-- The vector pages and the tiles, in the order of the save area (R106). -/
def recordBulk (s : State) (cid : Nat) : List Byte :=
  let c := s.ctx cid
  (List.range (64 * c.lb.vp0)).flatMap (fun i => vBytes (tget 0 c.v0.r i)) ++
  (List.range (64 * c.lb.vp1)).flatMap (fun i => vBytes (tget 0 c.v1.r i)) ++
  (List.range (128 * c.lb.acc)).flatMap fun i => vBytes (tget 0 c.acc i)

/-- The backing base of a task (R245). -/
def backing (lb : LaunchBlk) : Nat :=
  (lb.save.toNat + 4096 + 16384 * (lb.vp0 + lb.vp1) + 32768 * lb.acc + 65535) / 65536 * 65536

/-- The backing of logical page j (R245). -/
def backingVa (b : LaunchBlk) (j : Nat) : Nat := backing b + 65536 * j

/-- The physical bytes of a page. -/
def pageSegs (st phys : Nat) : List Seg := [⟨.sp (st * 2 ^ 21 + phys * 65536), 65536⟩]

/-- Where the extension stands (R388). -/
def extBase (lb : LaunchBlk) : Nat := backing lb + 65536 * lb.spp

/-! ### Reading a record back -/

/-- Word `i` at an offset of a record. -/
def recWord (bs : List Byte) (off : Nat) : Word := wd (leNat ((bs.drop off).take 8))

/-- `n` words from an offset, as a table. -/
def recTbl (bs : List Byte) (off n : Nat) : Tbl Word := (List.range n).map fun i => (i, recWord bs (off + 8 * i))

/-- A barrier from its control word and witness (R152). -/
def Barrier.ofRec (x w : Word) : Barrier :=
  { gen := BitVec.ofNat 8 (fld x.toNat 63 56), exp := BitVec.ofNat 12 (fld x.toNat 43 32), arr := BitVec.ofNat 12 (fld x.toNat 27 16),
    brk := x.getLsbD 3, ovf := x.getLsbD 2, done := x.getLsbD 1, arm := x.getLsbD 0, w := w }

/-- A barrier as a restore finds it (R159): one that was collecting completes, with BRK and a poisoned witness. -/
def Barrier.restored (tick : Nat) (b : Barrier) : Barrier :=
  if b.arm && !b.done then { b with brk := true, done := true, gen := b.gen + 1, w := wMerge b.w (mkWit 2 true false tick) } else b

/-- A port from its 80 bytes (R388); its chunks are refetched, and reads after a restore wait for the restore (log entry 14). -/
def portOf (bs : List Byte) (tick : Nat) : Port :=
  let r : BitVec 512 := BitVec.ofNat 512 (leNat (bs.take 64))
  let rcd := r &&& ~~~(3#512 <<< 510)
  let x := (recWord bs 72).toNat
  let c0 := pCnt rcd 0
  let c1 := pCnt rcd 1
  let c2 := pCnt rcd 2
  { conf := r.getLsbD 511, rcd := rcd, base := recWord bs 64,
    pos := if r.getLsbD 510 then pTotal rcd else fld x 15 0 + c0 * (fld x 31 16 + c1 * (fld x 47 32 + c2 * fld x 63 48)),
    wit := if r.getLsbD 511 then mkWit 2 false false tick else 0 }

/-- A fault from the fields of the record (R376, R390). -/
def fltOf (code mask addr rep cause : Word) : Flt :=
  { cls := fld code.toNat 10 8, code := fld code.toNat 7 0, mask := mask.toNat, addr := addr, rep := rep.toNat, cause := cause.toNat }

/-- The landing queue from the extension, counts kept (R390). -/
def queueFrom (ext : List Byte) : List Landing :=
  (List.range 6).flatMap fun slot =>
    let es := (ext.drop (0x32300 + 4096 * slot)).take 4096
    let area := if slot = 1 then 0x2000 else if slot = 2 then 0x12000 else 0x22000
    (List.range 256).filterMap fun i =>
      let w := (recWord es (16 * i)).toNat
      if fld w 63 63 = 1 then
        let d := Dst.ofCode (fld w 62 60) (fld w 59 48)
        let v : VReg := if d.wide then BitVec.ofNat 2048 (leNat ((ext.drop (area + 256 * i)).take 256))
          else (recWord es (16 * i + 8)).zeroExtend 2048
        some { dst := d, due := fld w 47 40, val := v, mask := BitVec.allOnes 2048 }
      else none

/-- Names whose bit is set in a mark area (R390). -/
def marksFrom (bs : List Byte) : List Nat :=
  let x := leNat bs
  (List.range 1536).filter fun i => x.testBit i

/-- A chain entry from its bytes (R392). -/
def chainOf (bs : List Byte) : ChainEnt :=
  let x := (recWord bs 16).toNat
  { addr := recWord bs 0, tick := (recWord bs 8).toNat, code := fld x 7 0, level := fld x 10 8, policy := fld x 12 11,
    cls := fld x 15 13, cause := fld x 31 16, retries := fld x 35 32 }

/-- Registers of one vector file from its pages. -/
def regsFrom (bs : List Byte) (n : Nat) : Tbl VReg :=
  ((chunksOf 256 n bs).map fun b => BitVec.ofNat 2048 (leNat b)).zipIdx.map fun p => (p.2, p.1)

/-- A queued fault from its bytes (R390); an engine fault's mask is fixed (R376). -/
def qfltFrom (b : List Byte) : Flt :=
  let f := fltOf (recWord b 0) 0 (recWord b 8) 0 (recWord b 16)
  { f with mask := if f.cls = 4 then 8 else 0, cause := f.cause % 2 ^ 16, tick := (recWord b 24).toNat }

/-- The cause chain of a record (R390, R392). -/
def chainFrom (ext : List Byte) : List ChainEnt :=
  ((List.range 8).map fun i => (ext.drop (0x38500 + 32 * i)).take 32).filterMap fun b => if b.all (· == 0) then none else some (chainOf b)

/-- A context restored from its record (R111, R388–R390); the caller sets identity, budgets, enrolments and pages. -/
def ctxFrom (lb : LaunchBlk) (base ext bulk : List Byte) (tick ringCount : Nat) : Ctx :=
  let cw := fun i => recWord base (0x900 + 8 * i)
  let w1 := (cw 1).toNat
  let st := (cw 9).toNat
  let sticky := (List.range 6).filterMap fun i =>
    if w1.testBit (8 + i) then some (i, { word := recWord base (0xF00 + 8 * i), j := fld (cw 2).toNat (8 * i + 7) (8 * i) : Sticky }) else none
  let vf := fun (f : Bool) (off n : Nat) =>
    let k := if f then 1 else 0
    { r := regsFrom ((bulk.drop off).take (n * 16384)) (64 * n),
      q := recTbl base (0x700 + 128 * k) 16,
      gen := (List.range 64).map fun i => (i, BitVec.ofNat 16 (leNat ((base.drop (0x800 + 128 * k + 2 * i)).take 2))),
      ports := (List.range 8).map fun i => (i, portOf ((base.drop (0xA00 + 640 * k + 80 * i)).take 80) tick),
      stat := cw (11 + k), expired := marksFrom ((ext.drop (0x38300 + 192 * k)).take 192) : VFile }
  { lb := lb, s := recTbl base 0 64, k := (cw 3).setWidth 8 ||| 1,
    w := (List.range 32).map fun i => (i, { val := recWord base (0x200 + 8 * i) }),
    b := (List.range 32).map fun i => (i, (Barrier.ofRec (recWord base (0x300 + 16 * i)) (recWord base (0x308 + 16 * i))).restored tick),
    v0 := vf false 0 lb.vp0, v1 := vf true (16384 * lb.vp0) lb.vp1,
    acc := regsFrom (bulk.drop (16384 * (lb.vp0 + lb.vp1))) (128 * lb.acc),
    td := (List.range 16).map fun i => (i, BitVec.ofNat 256 (leNat ((ext.drop (0x32100 + 32 * i)).take 32))),
    e := (ext.take 8192).zipIdx.map fun p => (p.2, p.1), mrow := BitVec.ofNat 2048 (leNat ((ext.drop 0x32000).take 256)),
    mxStat := cw 10, mxPwr := cw 13, mxHeld := fld (cw 13).toNat 63 48 * 1024, mxK := cw 14, a0 := recTbl base 0x500 32, a1 := recTbl base 0x600 32,
    pc := cw 0, rep := w1 % 16, sticky := sticky, landing := (queueFrom ext).map fun l => { l with due := l.due - 1 },
    bi := (cw 4).toNat, bm := (cw 5).toNat, cont := cw 6, xpc := cw 7, xrep := fld st 15 12, exh := false, evc := true,
    refuse := fld st 23 16, epri := fld st 6 4, ret := (cw 15).setWidth 32, rrp := BitVec.ofNat 32 ringCount, lm := (cw 17).setWidth 32,
    mb := cw 18, dl := fld (cw 19).toNat 15 0, mo := fld (cw 19).toNat 19 16 + 1, pn := BitVec.ofNat 32 (fld (cw 19).toNat 63 32),
    wsto := cw 20, wcpy := cw 21, flt := fltOf (cw 22) (cw 23) (cw 24) (cw 25) (cw 26),
    queued := (List.range (fld (cw 30).toNat 2 0)).map fun i => qfltFrom ((ext.drop (0x38480 + 32 * i)).take 32),
    qovf := (recWord ext (0x38480 + 16)).getLsbD 16, retries := fld w1 19 17, retryPc := cw 0, retryRep := w1 % 16,
    chain := chainFrom ext, resumedByPolicy := !(chainFrom ext).isEmpty }

/-- The groups and sequences that a record holds (R131, R389): enrolment, group, NSEQ. -/
def groupsFrom (base : List Byte) : List (Nat × Nat × Nat) :=
  let x := (recWord base (0x900 + 8 * 27)).toNat
  (List.range 4).filterMap fun i =>
    if fld x (9 * i + 8) (9 * i + 8) = 1 then
      some (i, fld x (9 * i + 7) (9 * i), fld (recWord base (0x900 + 8 * (28 + i / 2))).toNat (32 * (i % 2) + 31) (32 * (i % 2)))
    else none

/-- The length of a dump entry (R391). -/
def dumpLen (lb : LaunchBlk) : Nat := (264 * 1024 + 16384 * (lb.vp0 + lb.vp1) + 32768 * lb.acc + 65535) / 65536 * 65536

/-- The first 4 KiB of a dump entry (R391). -/
def dumpHeader (len : Nat) (id : Word) (trunc inH rcd frozen : Bool) (tick : Nat) (chain : List ChainEnt) (disc : List (Word × Nat)) : List Byte :=
  let b := fun (x : Bool) (k : Nat) => if x then k else 0
  padTo 4096 (wordBytes [0x0000000144554D50#64, wd len, id, wd (b trunc 1 + b inH 2 + b rcd 4 + b frozen 8),
    wd tick, wd chain.length, 0, 0] ++ padTo 256 (chain.flatMap chainBytes) ++
    padTo 256 (disc.flatMap fun d => wordBytes [d.1, wd (d.2 % 16)]))

end Sys2Proof.Machine
end

