-- ==== Sys2Proof/Machine/Marks.lean ====
section
/-! DEFINITION. Marked pages: the regions of a snapshot, what Bay does when a write reaches a marked page, and the writes of the part's own
units (R426, R429–R431). -/
namespace Sys2Proof.Machine

/-- The state with an interface's snapshot changed. -/
def State.modSnap (s : State) (ifc : Nat) (f : Snap → Snap) : State := s.modIfc ifc fun i => { i with snap := f i.snap }

/-- Region i of a snapshot record: base and length (R426). -/
def snapRegion (r i : Nat) : Nat × Nat := (fld r (319 + 128 * i) (256 + 128 * i), fld r (383 + 128 * i) (320 + 128 * i))

/-- The virtual pages of a record's regions, with their offsets in the image (R426). -/
def snapPages (r : Nat) : List (Nat × Nat) :=
  (((List.range (fld r 151 144)).map (snapRegion r)).foldl (init := (([] : List (Nat × Nat)), 0)) fun z g =>
    (z.1 ++ (List.range (g.2 / 65536)).map fun i => (g.1 / 65536 + i, z.2 + 65536 * i), z.2 + g.2)).1

/-! ### Marked pages -/

/-- The interfaces and virtual pages of a marked physical page (R429, R430). -/
def marksAt (s : State) (pa : Nat) : List (Nat × Nat) :=
  s.ifcs.flatMap fun (p : Nat × Ifc) => (p.2.snap.marks.filter fun (m : Nat × Nat) => m.2 == pa / 65536).map fun m => (p.1, m.1)

/-- A run of device memory lies in a marked page (R430). -/
def marked (s : State) (l : Loc) (n : Nat) : Bool :=
  match l with
  | .dev a => (upto (a / 65536) ((a + n - 1) / 65536 + 1 - a / 65536)).any fun p => !(marksAt s (p * 65536)).isEmpty
  | _ => false

/-- Bay stops a drain: every mark is cleared and every shadow freed (R433, R435). -/
def bayStop (s : State) (ifc stat code : Nat) : State :=
  s.modSnap ifc fun x => { x with marks := [], shadows := [], todo := [], out := [], stat := stat, fcode := code, last := s.tick }

/-- Where a shadow page lies (R426). -/
def shadowVa (x : Snap) (i : Nat) : Nat := fld x.rcd.toNat 127 64 + 65536 * i

/-- The lowest free shadow page (R430). -/
def freeShadow (x : Snap) : Option Nat :=
  (List.range (min (fld x.rcd.toNat 143 128) (x.shadows.length + 1))).find? fun i => !x.shadows.any (·.2.1 == i)

/-- The access of the interface's own engines. -/
def ifcWho (ifc : Nat) : Who := { core := 1024 + ifc / 4, ifc := ifc, pages := [] }

/-- A page of device memory. -/
def livePage (p : Nat) : List Seg := [⟨.dev (p * 65536), 65536⟩]

/-- Bay copies a marked page into a free shadow and clears its mark (R430). -/
def bayShadow (s : State) (ifc vp : Nat) : Option State :=
  let x := (s.ifc ifc).snap
  match x.marks.find? (·.1 == vp), freeShadow x with
  | some m, some i =>
    match resolve s (ifcWho ifc) { wr := true, loc := false } false (shadowVa x i) 65536 with
    | .error _ => none
    | .ok to' =>
      if (badSeg s 0 (livePage m.2)).isSome then none
      else
        let s := noteCe s (livePage m.2)
        some ((writeSegs s to' (readSegs s (livePage m.2))).modSnap ifc fun x =>
          { x with marks := x.marks.filter (·.1 != vp), shadows := x.shadows ++ [(vp, i, to')], shad := x.shad + 1 })
  | _, _ => none

/-- The offset of a virtual page in the image (R426). -/
def imageOff (x : Snap) (vp : Nat) : Nat := ((snapPages x.rcd.toNat).find? (·.1 == vp)).elim 0 (·.2)

/-- The 256-byte lines of a page, as Bay sends them (R349, R426). -/
def bayLines (x : Snap) (off : Nat) (src : List Seg) (bs : List Byte) : List BayLine :=
  (chunksOf 256 256 bs).zipIdx.map fun p =>
    { addr := fld x.rcd.toNat 63 0 + off + 256 * p.2, src := ((segAt src (256 * p.2)).head?.map (·.loc)).getD (.dev 0), data := p.1 }

/-- Bay reads a page for storage, from its shadow or from the live page (R431): the mark and the shadow go, and its lines wait to be sent. Bad
data stop the drain (R435). -/
def bayDrain (s : State) (ifc vp : Nat) : State :=
  let x := (s.ifc ifc).snap
  match x.todo.find? (·.1 == vp) with
  | none => s
  | some t =>
    let src := match x.shadows.find? (·.1 == vp) with
      | some h => h.2.2
      | none => livePage t.2
    match badSeg s 0 src with
    | some (c, off) => bayStop (markPoison s (segAt src off)) ifc 1 c.num
    | none =>
      let s := noteCe s src
      let bs := readSegs s src
      s.modSnap ifc fun x =>
        { x with marks := x.marks.filter (·.1 != vp), shadows := x.shadows.filter (·.1 != vp), todo := x.todo.filter (·.1 != vp),
                 out := bayLines x (imageOff x vp) src bs ++ x.out, sent := x.sent ++ [{ off := imageOff x vp, data := bs, left := 256 }] }

/-- A write has reached marked pages: Bay shadows each, or drains it at once (R430). -/
def bayAdmit (s : State) (l : Loc) (n : Nat) : State :=
  match l with
  | .dev a =>
    (upto (a / 65536) ((a + n - 1) / 65536 + 1 - a / 65536)).foldl (init := s) fun s p =>
      (marksAt s (p * 65536)).foldl (init := s) fun s m =>
        match bayShadow s m.1 m.2 with
        | some s => s
        | none => bayDrain s m.1 m.2
  | _ => s

/-- A write counts as one that waited on each marked page that it meets, once (R430, R432); `id` names the operation that writes. -/
def noteWait (s : State) (id : Nat) (segs : List Seg) : State :=
  { s with ifcs := s.ifcs.map fun p =>
      let x := p.2.snap
      let new := (x.marks.filter fun m => !x.held.contains (id, m.2) && segs.any fun g => overlap g.loc g.len (.dev (m.2 * 65536)) 65536).map fun m => (id, m.2)
      if new.isEmpty then p else (p.1, { p.2 with snap := { x with waits := x.waits + new.length, held := x.held ++ new } }) }

/-- A write that the part's own units make in one step (R430): those of its pages that are marked are shadowed or drained first. -/
def admitSegs (s : State) (segs : List Seg) : State :=
  if segs.any fun g => marked s g.loc g.len then
    let (id, s) := s.newId
    segs.foldl (fun s g => bayAdmit s g.loc g.len) (noteWait s id segs)
  else s

/-- Bytes written through an interface's translation by the part itself; `none` where it does not translate for writing. -/
def writeVa (s : State) (ifc va : Nat) (bs : List Byte) : Option State :=
  match resolve s (ifcWho ifc) { wr := true, loc := false } false va bs.length with
  | .ok segs => some (writeSegs (admitSegs s segs) segs bs)
  | .error _ => none

end Sys2Proof.Machine
end

