-- ==== Sys2Proof/Machine/Ops.lean ====
section
/-! DEFINITION. The operations that meanings share: messages, events, ring records, releasing what a task holds, dumps, kills,
freezes, containment, taking an exception and returning from one (R131, R249, R260, R289, R322, R339, R343, R374–R393,
R410–R412, R421). -/
namespace Sys2Proof.Machine

/-! ### Messages, events and records -/

/-- A message of an operation sent over the Chive network between stations (R343). -/
def sendChive (s : State) (op src dst : Nat) : State :=
  let q := tget 0 (s.stn src).chiveSeq dst
  let (id, s) := s.newId
  let s := s.modStn src fun t => { t with chiveSeq := tput t.chiveSeq dst ((q + 1) % 65536) }
  { s with chive := s.chive ++ [{ id := id, op := op, src := src, dst := dst, seq := q, sent := s.now }] }

/-- A message enters a send queue, or waits at its port while the fabric drains (R349, R350, R365). A message with no path waits
for one. -/
def fabQueue (s : State) (m : FSend) (line : Nat) : State :=
  let p := (pathTo s m.part line).getD (32, 0)
  let (id, s) := s.newId
  s.modFab fun f => { f with sends := f.sends ++ [{ m with id := id, port := p.1, link := p.2, line := line, held := f.drain != 0 }] }

/-- Whether an operation's message has been delivered. -/
def delivered (s : State) (op : Nat) : Bool := !s.chive.any fun m => m.op == op && !m.arrived

/-- The page of an interface's address holds an uncorrectable or poisoned sector (R412). -/
def badPage (s : State) (ifc va : Nat) : Bool :=
  match pteOf s (ifcWho ifc) va with
  | .ok x =>
    let a := x.pa x.va / 64
    (s.ue ++ s.poison).any fun q => decide (a ≤ q ∧ q < a + x.size / 64)
  | .error _ => false

/-- An event posted to an interface (R412). -/
def postEvent (s : State) (ifc kind tseq cause code : Nat) (detail : Word) : State :=
  let i := s.ifc ifc
  let hdr := wd (tseq % 2 ^ 40 * 2 ^ 24 + cause % 256 * 2 ^ 16 + code % 256 * 2 ^ 8 + kind % 256)
  let rcd := leBytes 8 hdr.toNat ++ leBytes 8 detail.toNat ++ leBytes 16 (s.tick * 256)
  let va := i.evb.toNat + 32 * (i.evc.toNat % 256)
  let s := if i.evb = 0 ∨ badPage s ifc va then s else (writeVa s ifc va rcd).getD s
  s.modIfc ifc fun i => { i with evc := i.evc + 1 }

/-- A value counted in its bin of a histogram (R445). -/
def dillBin (s : State) (cls unit v : Nat) : State := dillAdd s cls (unit * 16 + min (Nat.log2 v) 15)

/-- The host is interrupted (R411, R416, R421). -/
def interrupt (s : State) (ifc : Nat) : State := s.modIfc ifc fun i => { i with irq := i.irq + 1 }

/-- A completion record written to a core's ring (R259, R260). -/
def ringRecord (s : State) (core kind ch ctx count stat fcode drop : Nat) (wit : Word) : State :=
  let c := (s.core core).ringCount
  let w0 := c.toNat % 1024 * 2 ^ 54 + count % 2 ^ 25 * 2 ^ 29 + fcode % 256 * 2 ^ 21 + drop % 256 * 2 ^ 13 + kind % 16 * 2 ^ 9 +
    stat % 8 * 2 ^ 6 + ch % 8 * 2 ^ 3 + ctx % 8
  let s := writeLoc s (.ring (core * 4096 + c.toNat % 256 * 16)) (wordBytes [wd w0, wit])
  s.modCore core fun k => { k with ringCount := c + 1, lastRec := tput k.lastRec ctx (some c) }

/-- A poisoned witness at this tick (R295). -/
def poisoned (s : State) (scope : Nat) : Word := mkWit scope true false s.tick

/-- The scope of a copy's witness (R261, R264). -/
def copyScope (x : CopyOp) : Nat := if x.kind != 3 && kindOf x.dst.toNat == 2 then 1 else 2

/-- The scope of a multicast's witness (R261): cluster when every branch lies in the issuing cluster. -/
def mcstScope (core : Nat) (x : McstOp) : Nat := if x.br.all fun b => cidStation b.cid == stationOf core then 1 else 2

/-- The widest scope of some locations (R295). -/
def locsScope (l : List Loc) : Nat := l.foldl (fun n x => max n (scopeOf x)) 1

/-- The scope of an operation's own witness (R261, R264, R295). -/
def opScope (o : Op) : Nat :=
  match o.kind with
  | .store x => locsScope (x.left.map (·.loc))
  | .atomic x => scopeOf x.loc
  | .copy x => copyScope x
  | .mcst x => mcstScope x.core x
  | .m m => if m.kind == .mst then locsScope (m.linesA.flatten.map (·.loc)) else 1
  | .gld _ | .mscl .. | .pull _ | .walkWit .. | .retention .. => 1
  | .fst _ | .rsto _ | .snap _ | .drain _ | .rload .. => 3
  | _ => 2

/-- The witness of an operation that stops: poisoned, with its scope and the tick of the stop, merged with its inputs (R295). -/
def stopWit (s : State) (o : Op) : Word := wMerge (poisoned s (opScope o)) o.win

/-- An operation ends with a witness; it is dropped from the operations in flight. -/
def State.finish (s : State) (o : Op) (v : Word) : State := (s.landWit o.own o.id o.wo v).dropOp o.id

/-! ### Groups -/

/-- The hold time of a group in ticks (R283). -/
def holdTicks (g : Grp) : Nat := (if g.ht = 0 then 8 else g.ht) * 1000

/-- The release of a group's sequence is remembered, with the last 256 of them (R286). -/
def noteRelease (s : State) (die g : Nat) (q : BitVec 32) : State :=
  s.modDie die fun d =>
    let x : Grp := tget {} d.grp g
    { d with grp := tput d.grp g { x with rel := (x.rel ++ [(q, s.tick)]).drop (x.rel.length - 255) } }

/-- A hold entry releases: its requests are served together, and it trails (R286, R287). -/
def holdRelease (s : State) (id : Nat) : State :=
  match s.holds.find? (·.id == id) with
  | none => s
  | some h =>
    let t := holdTicks (tget {} (s.die h.die).grp h.g)
    let mark := fun (o : Op) => match o.kind with
      | .gld x => if h.reqs.contains o.id then { o with kind := .gld { x with stat := 4, peers := h.reqs } } else o
      | _ => o
    let s := noteRelease s h.die h.g h.q
    { s with ops := s.ops.map mark,
             holds := s.holds.map fun x => if x.id == id then { x with trailing := true, released := s.tick, until' := s.tick + t } else x }

/-- Open entries whose expected set is empty release; trailing ones end (R286). -/
def settleHolds (s : State) : State :=
  let s := (s.holds.filter fun h => !h.trailing && h.exp.isEmpty).foldl (fun s h => holdRelease s h.id) s
  { s with holds := s.holds.filter fun h => !(h.trailing && h.exp.isEmpty) }

/-- A context is no member of a group any more: the die's table and every hold entry lose it at once (R131, R289). -/
def quitGroup (s : State) (cid grp : Nat) : State :=
  let d := dieOf (coreOf cid)
  let s := s.modDie d fun x =>
    let g := tget {} x.grp grp
    { x with grp := tput x.grp grp { g with mem := g.mem.filter (·.1 != cid) } }
  let left := fun (o : Op) => match o.kind with
    | .gld x => if x.die == d && x.g == grp && x.stat == 1 then { o with kind := .gld { x with exp := x.exp.filter (·.1 != cid) } } else o
    | _ => o
  settleHolds { s with ops := s.ops.map left, holds := s.holds.map fun h =>
    if h.die == d && h.g == grp then { h with exp := h.exp.filter (·.1 != cid) } else h }

/-- A context leaves the group of an enrolment (R131, R289). -/
def leaveGroup (s : State) (cid e : Nat) : State :=
  match tget none (s.ctx cid).ge e with
  | none => s
  | some n => quitGroup (s.modCtx cid fun c => { c with ge := tput c.ge e none }) cid n.grp

/-- A context leaves every group. -/
def leaveGroups (s : State) (cid : Nat) : State := (List.range 4).foldl (fun s e => leaveGroup s cid e) s

/-! ### Pages -/

/-- The scratchpad pages that an operation still reads as a source (R249). -/
def readsPages (o : Op) : List Nat :=
  match o.kind with
  | .copy x => (List.range x.rows).flatMap fun r => opPages o (x.sector (r * x.rlen)).2 (x.rlen * 64)
  | .mcst x => if x.started then [] else opPages o x.src.toNat x.len
  | .fst x => if x.read then [] else opPages o x.src.toNat x.len
  | .rsto x => if x.read then [] else opPages o x.src.toNat (x.count * 4)
  | _ => []

/-- The pages that any operation in flight still uses: writers and readers of R249, stores that have not
performed, and M operations (log entry 16). -/
def usedPages (s : State) (o : Op) : List Nat :=
  writesPages s o ++ readsPages o ++ (match o.kind with
    | .store x => physPages (x.left.map fun p => ⟨p.loc, p.bytes.length⟩)
    | .atomic x => physPages [⟨x.loc, 8⟩]
    | .m m => physPages (m.linesA.flatten ++ m.linesB.flatten)
    | .rsto x => physPages x.segs
    | _ => [])

/-- Whether a physical page (station · 32 + page) is still in use by an operation or a retention slot (R249). -/
def pageBusy (s : State) (k : Nat) : Bool :=
  s.ops.any (fun o => (usedPages s o).contains k) ||
  (upto (k / 32 * 4) 4).any fun core => (s.core core).ret.any fun r => r.2.holder.isSome && r.2.phys.contains (k % 32)

/-- A group load whose fill has not been read and whose task's pages go back to the pool writes nothing (R289). -/
def loseFill (st : Nat) (back : List Nat) (o : Op) : Op :=
  match o.kind with
  | .gld x =>
    if cidStation o.own.cid == st && !x.read && (opPages o x.dst.toNat x.len).any fun k => back.contains (k % 32) then
      { o with kind := .gld { x with gone := true } }
    else o
  | _ => o

/-- Pages returned to a station's pool, at once or once free (R249); one that is kept still takes its refill (R265). -/
def sweepPages (s : State) (st : Nat) : State :=
  let d := (s.stn st).defer
  let keep := d.filter fun p => pageBusy s (st * 32 + p)
  let back := d.filter (!keep.contains ·)
  let s := if back.isEmpty then s else { s with ops := s.ops.map (loseFill st back) }
  s.modStn st fun t =>
    { t with defer := keep, used := t.used.filter (fun p => keep.contains p || !d.contains p),
             orphans := t.orphans.filter fun x => keep.contains x.phys }

/-- The pages of a context that still wait for their refill (R246). -/
def orphansOf (c : Ctx) : List Orphan :=
  c.pages.zipIdx.filterMap fun p =>
    if p.1.st == .fill then some { phys := p.1.phys, ifc := c.ifc, va := backingVa c.lb p.2 } else none

/-- A context's pages leave it (R248, R249). -/
def returnPages (s : State) (cid : Nat) : State :=
  let st := cidStation cid
  let c := s.ctx cid
  let s := s.modCtx cid fun c => { c with pages := [], refill := [] }
  sweepPages (s.modStn st fun t => { t with defer := t.defer ++ c.pages.map (·.phys), orphans := t.orphans ++ orphansOf c }) st

/-! ### Refills -/

/-- Logical pages asked to refill (R246). -/
def askRefill (s : State) (cid : Nat) (l : List Nat) : State :=
  s.modCtx cid fun c => { c with refill := c.refill ++ l.filter (!c.refill.contains ·) }

/-- The logical pages of a context that wait for their refill among some physical ones (station · 32 + page). -/
def fillsAmong (s : State) (ks : List Nat) (cid : Nat) : List Nat :=
  (s.ctx cid).pages.zipIdx.filterMap fun p =>
    if p.1.st == .fill && ks.contains (cidStation cid * 32 + p.1.phys) then some p.2 else none

/-- An access of an engine to physical pages of which some wait for their refill asks for it and waits (R246, R264, R265), whether their
task still holds them or has ended: the state after asking, or none where every page is there. -/
def fillGate (s : State) (ks : List Nat) : Option State :=
  let sts := (ks.map (· / 32)).eraseDups
  let cids := (sts.flatMap stationCids).filter fun cid => !(fillsAmong s ks cid).isEmpty
  let left := sts.filter fun st => (s.stn st).orphans.any fun x => ks.contains (st * 32 + x.phys)
  if cids.isEmpty && left.isEmpty then none
  else
    let s := cids.foldl (fun s cid => askRefill s cid (fillsAmong s ks cid)) s
    some (left.foldl (init := s) fun s st => s.modStn st fun t =>
      { t with orphans := t.orphans.map fun x => { x with asked := x.asked || ks.contains (st * 32 + x.phys) } })

/-! ### Notices, walks and retention slots as a task leaves -/

/-- The pages of an operation's task among located bytes, by their logical numbers. -/
def ownPages (o : Op) (segs : List Seg) : List Nat :=
  (physPages segs).filterMap fun k => if k / 32 = cidStation o.own.cid then o.pages.findIdx? (· == k % 32) else none

/-- A page among located bytes is held by a retention slot of the operation's task (R321). -/
def heldSegs (s : State) (o : Op) (segs : List Seg) : Bool :=
  let js := ownPages o segs
  !js.isEmpty && (s.core (coreOf o.own.cid)).ret.any fun r => match r.2.holder with
    | some h => h.ifc == o.own.ifc && h.tseq == o.own.tseq && r.2.pages.any js.contains
    | none => false

/-- The answer of a consumer to a producer's retention slot (R322): over the Chive network, or to the producer's part (R367). -/
def sendAnswer (s : State) (n : Notice) (from' : Nat) : State :=
  if n.inc then
    fabQueue s { id := 0, op := 0, piece := 0, kind := 7, port := 0, link := 0, part := n.part,
                 req := { src := s.fab.part, seq := n.idx, op := n.pcore * 64 + n.slot, ty := n.gen } } n.slot
  else
    let (id, s) := s.newId
    let o : Op := { id := id, own := { cid := n.pcid, uid := n.puid }, kind := .answer n.pcore n.slot n.gen n.idx }
    sendChive { s with ops := s.ops ++ [o] } id from' (stationOf n.pcore)

/-- A notice leaves the notice table of its optical port (R367). -/
def leaveTable (s : State) (id : Nat) (n : Notice) : State :=
  if n.rem then s.modPort n.port fun x => { x with notices := x.notices.filter (· != id) } else s

/-- A notice is declined (R322, R326). -/
def decline (s : State) (o : Op) (n : Notice) : State := sendAnswer (leaveTable (s.dropOp o.id) o.id n) n (cidStation n.cons)

/-- The pending notices of a context are declined (R326). -/
def declineAll (s : State) (cid : Nat) : State :=
  (s.ops.filter fun o => match o.kind with | .notice n => n.cons == cid && n.st == 2 | _ => false).foldl (init := s) fun s o =>
    match o.kind with
    | .notice n => decline s o n
    | _ => s

/-- The scope of a walk's witness (R337): cluster for a load, device for a store. -/
def walkScope (w : Walk) : Nat := if fld w.desc.toNat 440 440 = 1 then 2 else 1

/-- A walk aborts: its witness and its pending permit witnesses are poisoned, and the engine is free (R295, R339). -/
def abortWalk (s : State) (st eng : Nat) : State :=
  match tget none (s.stn st).walks eng with
  | none => s
  | some w =>
    let s := s.modStn st fun t => { t with walks := tput t.walks eng none }
    (s.ops.filter fun o => o.id == w.op || (match o.kind with | .walkWit a b _ _ => a == st && b == eng | _ => false)).foldl
      (fun s o => s.finish o (wMerge (poisoned s (walkScope w)) o.win)) s

/-- Walks that name the context as a target abort, and with `reg` those it registered (R339). -/
def abortWalks (s : State) (cid : Nat) (reg : Bool) : State :=
  let st := cidStation cid
  let u := (s.ctx cid).uid
  (List.range 4).foldl (init := s) fun s e =>
    match tget none (s.stn st).walks e with
    | some w =>
      if w.tgts.any (fun t => t.2.cid == cid && t.2.uid == u) || (reg && w.own.cid == cid && w.own.uid == u) then abortWalk s st e
      else s
    | none => s

/-- Reads of a slot that reached it in this cycle are refused as its release is applied first (R322): those of this part, and those whose
reply to another part still waits here. -/
def staleReads (s : State) (core slot gen : Nat) : State :=
  let mine := fun (n : Notice) => !n.inc && n.pcore == core && n.slot == slot && n.gen == gen
  let op := fun (o : Op) => match o.kind with
    | .pull p => match p.got with
      | some (t, _, _) =>
        if mine p.no && s.inCycle t then { o with kind := .pull { p with got := some (t, [], some Code.nstale.num) } } else o
      | none => o
    | _ => o
  let msg := fun (m : FSend) => match m.rep with
    | some r =>
      if m.kind == 3 && m.req.kind == .pull && m.req.op == core * 64 + slot && m.req.ty == gen && m.departed.isNone && s.inCycle r.tick then
        { m with rep := some { r with outcome := .memfault Code.nstale.num, data := [] } }
      else m
    | none => m
  { s with ops := s.ops.map op }.modFab fun f => { f with sends := f.sends.map msg }

/-- A retention slot is released (R322): its pages, the slot, and the retention witness, which merges the inputs of its `pub` (R295). -/
def releaseSlot (s : State) (core slot : Nat) : State :=
  let r := tget {} (s.core core).ret slot
  let s := staleReads s core slot r.gen.toNat
  let s := s.modCore core fun c => { c with ret := tput c.ret slot { gen := r.gen, tmo := r.tmo } }
  let s := match r.wit.bind s.op? with
    | some o => s.finish o (wMerge (mkWit 1 false false s.tick) o.win)
    | none => s
  sweepPages s (stationOf core)

/-! ### L1 mode -/

/-- Whether the cluster's L1 is to be fused: at least one task, and every task asks for it (R271). -/
def wantsFused (s : State) (st : Nat) : Bool :=
  let l := (stationCids st).map s.ctx |>.filter (·.st != .free)
  !l.isEmpty && l.all (·.lb.fuse)

/-- The mode is re-evaluated (R271); the change happens in its own step. -/
def reviewL1 (s : State) (st : Nat) : State :=
  let w := wantsFused s st
  s.modStn st fun t => { t with fusePend := if t.fused == w then none else some w }

/-! ### Ending a task -/

/-- Pins released on lines (R229). -/
def unpin (s : State) (lines : List Nat) : State :=
  { s with l2 := s.l2.map fun (x : L2Line) => if lines.contains x.line then { x with pins := x.pins - 1 } else x }

/-- M operations of a context discarded with poisoned witnesses, their pins released (R229, R239, R385): all, or the held ones. -/
def discardM (s : State) (cid : Nat) (heldOnly : Bool) : State :=
  let u := (s.ctx cid).uid
  (s.ops.filter fun o => o.own.cid == cid && o.own.uid == u && (match o.kind with
    | .m _ => o.held || !heldOnly
    | .mscl .. => true
    | _ => false)).foldl
    (fun s o => (match o.kind with | .m m => unpin s m.pins | _ => s).finish o (stopWit s o)) s

/-- Registers of a task that has left its context: the tiles that its M operations in flight still use (R127, log entry 16). -/
def keepTiles (s : State) (cid : Nat) : State :=
  let c := s.ctx cid
  let on := fun (o : Op) => o.own.cid == cid && o.own.uid == c.uid && match o.kind with
    | .m _ => !o.held
    | _ => false
  if s.ops.any on then { s with gone := tput s.gone c.uid c } else s

/-- Tiles that no M operation uses any more. -/
def dropTiles (s : State) : State :=
  if s.gone.isEmpty then s
  else { s with gone := s.gone.filter fun p => s.ops.any fun o => o.own.uid == p.1 && match o.kind with
    | .m _ => true
    | _ => false }

/-- The context's pools go back, and it is free (R111, R163, R127, R249). -/
def freeCtx (s : State) (cid : Nat) : State :=
  let core := coreOf cid
  let c := s.ctx cid
  let s := returnPages s cid
  let s := s.modCore core fun k =>
    { k with vused0 := k.vused0.filter (!c.vpages0.contains ·), vused1 := k.vused1.filter (!c.vpages1.contains ·),
             accUsed := k.accUsed.filter (!c.tiles.contains ·), tdUsed := k.tdUsed.filter (!c.tds.contains ·),
             run := if k.run == some (ctxNo cid) then none else k.run }
  reviewL1 { s with ctxs := tput s.ctxs cid {} } (stationOf core)

/-- A task leaves its context for good: groups, notices, walks, M operations and pools. A walk that it registered runs on (R339; DESIGN
CHOICE, log entry 125). -/
def endTask (s : State) (cid : Nat) : State :=
  freeCtx (discardM (abortWalks (declineAll (leaveGroups s cid) cid) cid false) cid false) cid

/-- A task leaves its context by `exit`: its M operations run on (R127, log entry 16); those held after a fault are discarded. -/
def leaveTask (s : State) (cid : Nat) : State :=
  let s := keepTiles (abortWalks (declineAll (leaveGroups s cid) cid) cid false) cid
  freeCtx (discardM s cid true) cid

/-! ### Results of a discarded bundle -/

/-- A result that landed at the bundle a trap falls on is in flight again, and its register holds what it held before (R378). -/
def putBack (c : Ctx) (u : Landed) : Ctx :=
  match u.l.dst with
  | .s r => { c with s := tput c.s r (u.old.setWidth 64) }
  | .k r => { c with k := if u.old.getLsbD 0 then c.k ||| (1#8 <<< r) else c.k &&& ~~~(1#8 <<< r) }
  | .v f r => c.modVf f fun x =>
    { x with r := tput x.r r u.old
             eph := match u.eph with | some d => tput x.eph r d | none => tdel x.eph r
             expired := if u.expired then x.expired.filter (· != r) ++ [r] else x.expired.filter (· != r)
             bad := if u.bad = 0 then tdel x.bad r else tput x.bad r u.bad }
  | .q f r => c.modVf f fun x => { x with q := tput x.q r (u.old.setWidth 64) }
  | .mrow => { c with mrow := u.old }
  | .td r =>
    { c with td := tput c.td r (u.old.setWidth 256)
             tdUe := if u.bad = 0 then c.tdUe.filter (· != r) else c.tdUe.filter (· != r) ++ [r] }
  | .a f r => if f then { c with a1 := tput c.a1 r (u.old.setWidth 64) } else { c with a0 := tput c.a0 r (u.old.setWidth 64) }

/-- The results that landed at a bundle which does not commit, put back into flight (R378, R379). -/
def unland (c : Ctx) : Ctx :=
  { c.landed.foldl putBack c with landing := (c.landed.map (·.l)).reverse ++ c.landing, landed := [] }

/-! ### Dumps -/

/-- The bytes of an entry after its header (R391). -/
def dumpRest (len : Nat) : Nat := len - 4096

/-- The bytes skipped before an entry of `n` bytes (R391): up to the next 64 KiB boundary, or to the end of the area where the entry would
pass it. -/
def dumpGap (size at' n : Nat) : Nat :=
  let off := at' % size
  let up := (off + 65535) / 65536 * 65536
  if size < up + n then size - off else up - off

/-- A dump entry at the write pointer: the state after it, and its offset or all ones on a loss (R391, log entry 13). -/
def dumpEntry (s : State) (ifc : Nat) (lb : LaunchBlk) (id : Word) (inH rcd frozen : Bool) (chain : List ChainEnt)
    (disc : List (Word × Nat)) (body : List Byte) : State × Word :=
  let i := s.ifc ifc
  let size := i.dumpSize.toNat
  let len := dumpLen lb
  let fits := fun (n : Nat) => decide (n ≤ size ∧ dumpGap size i.dumpW n + n ≤ size - (i.dumpW - i.dumpA))
  let put : Bool → Nat → List Byte → Option (State × Word) := fun trunc n bs =>
    let w := i.dumpW + dumpGap size i.dumpW n
    match writeVa s ifc (i.dumpBase.toNat + w % size) (dumpHeader len id trunc inH rcd frozen s.tick chain disc ++ bs) with
    | some s => some (s.modIfc ifc fun i => { i with dumpW := w + n }, wd (w % size))
    | none => none
  let r : Option (State × Word) := if fits len then put false len (padTo (dumpRest len) body)
    else if fits 4096 then put true 4096 []
    else none
  match r with
  | some x => x
  | none => (s.modIfc ifc fun i => { i with dumpLost := i.dumpLost + 1 }, BitVec.allOnes 64)

/-- The dump of a task in a context (R387, R391). -/
def dumpCtx (s : State) (cid : Nat) (frozen : Bool) (chain : List ChainEnt) : State × Word :=
  let c := s.ctx cid
  dumpEntry s c.ifc c.lb (ctxId s cid) c.resume.isSome false frozen chain c.disc
    (recordBase s cid ++ recordExt s cid ++ recordBulk s cid)

/-- Bytes read through an interface's translation; what does not translate reads zero. -/
def readVa (s : State) (ifc va len : Nat) : List Byte :=
  match resolve s (ifcWho ifc) { loc := false } false va len with
  | .ok segs => readSegs s segs
  | .error _ => List.replicate len 0

/-- The dump of an eviction record, from its save area (R387). -/
def dumpRecord (s : State) (q : QEntry) (chain : List ChainEnt) : State × Word :=
  let lb := q.lb
  let base := readVa s q.ifc lb.save.toNat 4096
  let ext := readVa s q.ifc (extBase lb) (256 * 1024)
  let bulk := readVa s q.ifc (lb.save.toNat + 4096) (16384 * (lb.vp0 + lb.vp1) + 32768 * lb.acc)
  dumpEntry s q.ifc lb (recWord base (0x900 + 64)) (fld (recWord base 0x908).toNat 16 16 == 1) true false chain [] (base ++ ext ++ bulk)

/-! ### Kills and freezes -/

/-- One more entry of a cause chain (R384, R392). -/
def addChain (l : List ChainEnt) (e : ChainEnt) : List ChainEnt := if l.length < 8 then l ++ [e] else l

/-- A chain with a context's queued faults appended, as a kill leaves it (R381). -/
def withQueued (c : Ctx) (l : List ChainEnt) : List ChainEnt :=
  c.queued.foldl (init := l) fun l f =>
    addChain l { addr := if f.here then c.pc else f.addr, tick := f.tick, code := f.code, level := 0, policy := c.lb.pol, cls := f.cls,
                 cause := f.cause % 2 ^ 16, retries := 0 }

/-- A task is killed by containment: dumped, reported, released (R385, R387). A context whose eviction save is in progress is
killed when the save is done (R385, R393). -/
def killCtx (s : State) (cid code cause : Nat) (chain : List ChainEnt) (force : Bool) : State :=
  let s := s.modCtx cid unland
  let c := s.ctx cid
  let chain := withQueued c chain
  if c.st == .evicted && !force then s.modCtx cid fun c => { c with dying := true, chain := chain, queued := [] }
  else
    let (s, d) := dumpCtx s cid false chain
    endTask (postEvent s c.ifc 1 c.tseq cause code d) cid

/-- An eviction record is killed (R385, R387). -/
def killRecord (s : State) (q : QEntry) (code cause : Nat) (chain : List ChainEnt) : State :=
  let (s, d) := dumpRecord s q chain
  postEvent s q.ifc 1 q.tseq cause code d

/-- The tasks of an interface on a core, and its eviction records queued there, are killed (R385). -/
def killCore (s : State) (ifc core code cause : Nat) (chain : List ChainEnt) : State :=
  let s := (upto (core * 8) 8).foldl (init := s) fun s cid =>
    let c := s.ctx cid
    if c.st != .free && c.st != .frozen && c.ifc == ifc then killCtx s cid code cause chain false else s
  let recs := ((s.core core).queue ++ (s.core core).reserved.filterMap (·.2)).filter fun q => q.evict && q.ifc == ifc
  let s := s.modCore core fun k =>
    { k with
      queue := k.queue.filter fun q => !(q.evict && q.ifc == ifc)
      reserved := k.reserved.filter fun r => !(match r.2 with | some q => q.ifc == ifc | none => false) }
  recs.foldl (fun s q => killRecord s q code cause chain) s

/-- The entries of an interface on their way to a queue (R129). -/
def entriesInFlight (s : State) (ifc : Nat) : List QEntry :=
  s.ops.filterMap fun o => match o.kind with
    | .enqueue q _ => if q.ifc == ifc then some q else none
    | _ => none

/-- An entry of an interface that a kill removes: a record is dumped, a task that holds no context is reported alone (R385, R387). -/
def killEntry (s : State) (q : QEntry) (code cause : Nat) (chain : List ChainEnt) : State :=
  if q.evict then killRecord s q code cause chain else postEvent s q.ifc 1 q.tseq cause code (BitVec.allOnes 64)

/-- Every task and record of an interface is killed, those in its queues and on their way to one too (R129, R385). -/
def killIfc (s : State) (ifc code cause : Nat) (chain : List ChainEnt) : State :=
  let s := (s.cores.filter (·.1 < 1024)).foldl (fun s p => killCore s ifc p.1 code cause chain) s
  let l := s.cores.flatMap (fun p => p.2.queue.filter (·.ifc == ifc)) ++ s.heldQ.filter (·.ifc == ifc) ++ entriesInFlight s ifc
  let gone := fun (o : Op) => match o.kind with
    | .enqueue q _ => q.ifc == ifc
    | _ => false
  let s := { s with cores := s.cores.map fun p => (p.1, { p.2 with queue := p.2.queue.filter (·.ifc != ifc) })
                    heldQ := s.heldQ.filter (·.ifc != ifc), ops := s.ops.filter (!gone ·) }
  l.foldl (fun s q => killEntry s q code cause chain) s

/-- The command stream stops (R411). -/
def streamStop (s : State) (ifc code : Nat) : State :=
  let cid := 8192 + ifc
  let (s, _) := dumpCtx s cid false (s.ctx cid).chain
  let s := s.modCtx cid fun c => { c with st := .free }
  interrupt (s.modIfc ifc fun i => { i with run := false, stop := code }) ifc

/-- A context without the results whose operation no longer exists. -/
def dropLost (s : State) (c : Ctx) : Ctx :=
  { c with landing := c.landing.filter fun l => match l.late with | some id => (s.op? id).isSome | none => true }

/-- A violation freezes the interface (R421); `stream` tells that its command stream committed the act. Its entries are dropped, those
on their way to a queue too (R129), and a join on its way reaches no table (R131): its status never lands. The dumps follow as the frozen contexts fall
quiet. -/
def freeze (s : State) (ifc : Nat) (addr : Word) (stream : Bool) : State :=
  let mine := s.ctxs.filter fun p => !isStream p.1 && p.2.ifc == ifc && p.2.st != .free && p.2.st != .frozen
  let s := mine.foldl (init := s) fun s p =>
    let s := abortWalks (declineAll (leaveGroups s p.1) p.1) p.1 true
    let s := s.modCtx p.1 fun c => { unland c with st := .frozen, dying := true, evicting := false, yield := none }
    s.modCore (coreOf p.1) fun k => { k with run := if k.run == some (ctxNo p.1) then none else k.run }
  let drop := fun (k : Core) =>
    { k with
      queue := k.queue.filter (·.ifc != ifc)
      reserved := k.reserved.filter fun r => !(match r.2 with | some q => q.ifc == ifc | none => false) }
  let gone := fun (o : Op) => match o.kind with
    | .enqueue q _ => q.ifc == ifc
    | .join .. => mine.any fun p => p.1 == o.own.cid && p.2.uid == o.own.uid
    | _ => false
  let s := { s with cores := s.cores.map fun (p : Nat × Core) => (p.1, drop p.2), heldQ := s.heldQ.filter (·.ifc != ifc),
                    ops := s.ops.filter (!gone ·) }
  let s := mine.foldl (fun s p => s.modCtx p.1 (dropLost s)) s
  let s := interrupt (postEvent (s.modIfc ifc fun i => { i with frozen := true }) ifc 5 0 0 Code.viol.num addr) ifc
  if stream then streamStop s ifc Code.viol.num else s

/-! ### Containment -/

/-- The ignorable faults (R384). -/
def ignorable (f : Flt) : Bool :=
  f.cls == 3 && [Code.rettmo, .grpmis, .xprot, .atstale, .peergone, .memue, .poison].any (·.num == f.code)

/-- The policy of a level (R383). -/
def policyOf (s : State) (cid lvl : Nat) : Nat :=
  let c := s.ctx cid
  let i := s.ifc c.ifc
  if lvl = 0 then c.lb.pol else if lvl = 1 then i.polCore else if lvl = 2 then i.polCluster else i.polIfc

/-- A context resumes in place: a new group opens, and the consultation stands until a commit (R56, R384). -/
def resumeHere (c : Ctx) : Ctx := { c with group := [], sg := [], resumedByPolicy := true, disc := [] }

/-- The release that ignoring RETTMO forces (R384, R323): of the slot whose deadline raised the fault, while the task still holds it. -/
def ignoreSide (s : State) (cid : Nat) (f : Flt) : State :=
  let r := tget {} (s.core (coreOf cid)).ret (f.cause % 64)
  let mine : Bool := match r.holder with
    | some o => sameTask cid (s.ctx cid) o && r.raised && r.addr == f.addr
    | none => false
  if f.code = Code.rettmo.num ∧ mine then releaseSlot s (coreOf cid) (f.cause % 64) else s

/-- Containment from a level up (R384): `unres` marks an unresumable fault, `hf` a fault of the handler. -/
def containFrom (cid : Nat) (f : Flt) (unres hf : Bool) : (lvls : List Nat) → (s : State) → State
  | [], s => s
  | l :: ls, s =>
    let pol := policyOf s cid l
    let c := s.ctx cid
    let tries := c.triesAt c.pc c.rep
    let e : ChainEnt := { addr := f.addr, tick := s.tick, code := f.code, level := l, policy := pol, cls := f.cls,
                          cause := f.cause % 2 ^ 16, retries := tries }
    let s := s.modCtx cid fun c => { c with chain := addChain c.chain e }
    let chain := (s.ctx cid).chain
    let p := if pol = 0 ∧ !ignorable f then 2 else pol
    let p := if p = 1 ∧ !((f.cls = 1 ∨ f.cls = 0) ∧ !hf) then 2 else p
    let p := if unres ∧ (p = 0 ∨ p = 1) then 2 else p
    if p = 0 then (ignoreSide s cid f).modCtx cid resumeHere
    else if p = 1 ∧ tries < 3 then
      s.modCtx cid fun c => resumeHere { c with retries := tries + 1, retryPc := c.pc, retryRep := c.rep }
    else if p = 2 then
      if l = 0 then killCtx s cid f.code f.cause chain true
      else if l = 1 then
        let ifc := c.ifc
        killCore s ifc (coreOf cid) f.code f.cause chain
      else if l = 2 then
        (upto (cidStation cid * 4) 4).foldl (fun s k => killCore s c.ifc k f.code f.cause chain) s
      else killIfc s c.ifc f.code f.cause chain
    else if l = 3 then freeze s c.ifc f.addr false
    else containFrom cid f unres hf ls s

/-- Containment of a fault of a task in a context (R384). -/
def contain (s : State) (cid : Nat) (f : Flt) (unres hf : Bool) : State := containFrom cid f unres hf [0, 1, 2, 3] s

/-- Containment of a task that holds no context (R384): its block's policy, then the levels of the core it last stood on. -/
def containEntry (s : State) (q : QEntry) (core code : Nat) (addr : Word) (cause : Nat := 0) : State :=
  let fail := postEvent s q.ifc 4 q.tseq cause code addr
  if q.lb.pol ≠ 3 then fail
  else
    let i := s.ifc q.ifc
    let go := fun (p : Nat) (k next : State) => if p = 3 then next else k
    go i.polCore (killCore fail q.ifc core code cause [])
      (go i.polCluster ((upto (core / 4 * 4) 4).foldl (fun s k => killCore s q.ifc k code cause []) fail)
        (go i.polIfc (killIfc fail q.ifc code cause []) (freeze fail q.ifc addr false)))

/-! ### Exceptions -/

/-- The results in flight as a trap saves them: remaining counts (R378). -/
def captureLanding (c : Ctx) : List Landing := c.landing.map fun l => { l with due := l.due + 1 - c.n }

/-- Unexpired ephemeral registers become ordinary; expired ones stay so (R171). -/
def settleEph (cycle : Nat) (v : VFile) : VFile :=
  { v with eph := [], expired := v.expired ++ (v.eph.filter fun d => decide (d.2 ≤ cycle) && !v.expired.contains d.1).map (·.1) }

/-- Fetched chunks are dropped (R189). -/
def dropChunks (v : VFile) : VFile := { v with ports := v.ports.map fun p => (p.1, { p.2 with chunks := [] }) }

/-- The fault registers that a trap writes (R376, R381). -/
def withFlt (c : Ctx) (f : Flt) : Ctx :=
  { c with flt := { f with cause := f.cause % 2 ^ 16 + if c.qovf then 2 ^ 16 else 0 }, qovf := false }

/-- What every trap entry does to the vector files: unexpired ephemeral registers become ordinary, and fetched chunks are dropped
(R171, R189, R379), with what other parts have answered to the loads of the discarded bundle. -/
def refreshEph (cycle : Nat) (c : Ctx) : Ctx :=
  { c with v0 := dropChunks (settleEph cycle c.v0), v1 := dropChunks (settleEph cycle c.v1), lent := [] }

/-- Entry to a handler (R379): the resume state is saved, the fault registers are written, and the pc goes to the handler. M
operations that no engine fault holds go on while the handler runs (R239; log entry 106). -/
def enterHandler (s : State) (cid : Nat) (f : Flt) (handler : Word) : State :=
  s.modCtx cid fun c =>
    let c := refreshEph s.cycle (withFlt c f)
    { c with resume := some { pc := c.pc, rep := c.rep, sticky := c.sticky, landing := captureLanding c }, hb := 4096, pc := handler, rep := 0, sticky := [], group := [], sg := [], landing := [], st := .inHandler }

/-- The bundles that a fault discards at a context's pc (R374): none for a software trap. -/
def discards (c : Ctx) (f : Flt) : List (Word × Nat) := if f.cls = 2 then [] else [(c.pc, c.rep)]

/-- The context as containment finds it without a handler (R171, R189, R376, R391). -/
def toContain (cycle : Nat) (f g : Flt) (c : Ctx) : Ctx := { refreshEph cycle (withFlt c g) with disc := discards c f }

/-- Taking an exception (R374–R380, R411): the handler if there is one and it is not running, else containment, or the stop of a
command stream. `f.rep` and the default address are those of the bundle the trap falls on. -/
def trapEntry (s : State) (cid : Nat) (f : Flt) : State :=
  let s := s.modCtx cid unland
  let c := s.ctx cid
  let f := { f with rep := c.rep, tick := s.tick, addr := if f.here then c.pc else f.addr, here := false }
  let inH := c.resume.isSome
  if isStream cid then
    let h := (s.ifc c.ifc).handler
    if h ≠ 0 ∧ !inH then enterHandler s cid f h
    else streamStop (s.modCtx cid fun c => { withFlt c f with disc := discards c f }) c.ifc f.code
  else if inH then contain (s.modCtx cid (toContain s.cycle f { f with cls := 5 })) cid { f with cls := 5 } false true
  else if c.lb.handler ≠ 0 ∧ f.cls ≠ 6 then enterHandler s cid f c.lb.handler
  else contain (s.modCtx cid (toContain s.cycle f f)) cid f false false

/-- Retention slots of the task held past their deadline as its handler returns are released (R323). -/
def lateSlots (s : State) (cid : Nat) : State :=
  let core := coreOf cid
  ((s.core core).ret.filter fun r => (match r.2.holder with | some o => sameTask cid (s.ctx cid) o | none => false) &&
    decide (r.2.deadline ≤ s.tick) && r.2.raised).foldl (fun s r => releaseSlot s core r.1) s

/-- Held M operations of a context go on, in their order, behind those of its handler (R239, R382). -/
def releaseHeld (s : State) (cid : Nat) : State :=
  let held := fun (o : Op) => o.own.cid == cid && o.held
  { s with ops := s.ops.filter (!held ·) ++ (s.ops.filter held).map fun o => { o with held := false } }

/-- An evicted context leaves its groups at once; its enrolments and their sequences stay for its record (R284, R289). -/
def quitGroups (s : State) (cid : Nat) : State :=
  (List.range 4).foldl (init := s) fun s e => match tget none (s.ctx cid).ge e with
    | some n => quitGroup s cid n.grp
    | none => s

/-- Four faults at most are held behind the one that a trap or a save takes (R381): one more is lost, and sets QOVF. -/
def holdFour (c : Ctx) : Ctx := { c with queued := c.queued.take 4, qovf := c.qovf || decide (4 < c.queued.length) }

/-- Eviction begins (R120, R289, R326, R339): the context stops at once, it leaves its groups, its pending notices are declined and its
walks abort. -/
def startEvict (s : State) (cid : Nat) : State :=
  let s := abortWalks (declineAll (quitGroups s cid) cid) cid true
  let s := s.modCtx cid fun c =>
    { refreshEph s.cycle (holdFour (unland c)) with st := .evicted, evicting := true, topped := false, yield := none, standing := [] }
  s.modCore (coreOf cid) fun k => { k with run := if k.run == some (ctxNo cid) then none else k.run }

/-- Return from an exception (R160, R382): the resume state is restored, the landing queue runs on, `mx.k` keeps only HELD and held M
operations go on. -/
def trapReturn (s : State) (cid : Nat) : State :=
  let s := if isStream cid then s else lateSlots s cid
  let s := releaseHeld s cid
  s.modCtx cid fun c =>
    match c.resume with
    | none => c
    | some r =>
      { c with resume := none, pc := r.pc, rep := r.rep, sticky := r.sticky, group := [], sg := [], st := .running,
               landing := r.landing.map fun l => { l with due := c.n + l.due - 1 }, mxK := c.mxK &&& wd (15 * 2 ^ 59) }

/-- An asynchronous or engine fault reaches a task: queued for its next bundle boundary, lost beyond the limit, or posted as an
event where the task is not resident (R323, R358, R374, R381). -/
def asyncFault (s : State) (o : Owner) (f : Flt) : State :=
  match s.residence o with
  | some cid =>
    let lim := if (s.ctx cid).resume.isSome then 4 else 5
    s.modCtx cid fun c =>
      if c.queued.length < lim then { c with queued := c.queued ++ [{ f with tick := s.tick }] } else { c with qovf := true }
  | none => postEvent s o.ifc 3 o.tseq f.cause f.code f.addr

end Sys2Proof.Machine
end

