-- ==== Sys2Proof/Machine/FabOps.lean ====
section
/-! DEFINITION. The operations that fabric meanings share: paths, send queues, schedules, timers, and serving a request at its
target (R347–R358, R405, R430, R459). -/
namespace Sys2Proof.Machine

/-! ### Paths and queues -/

/-- A request of an operation, with its sequence where it is an acknowledged store or atomic (R357). -/
def fabRequest (s : State) (op piece part : Nat) (r : FabReq) (line : Nat) : State :=
  let p := ((pathTo s part line).getD (32, 0)).1
  let counted := r.kind != .load && r.kind != .pull && !r.ff
  let q := tget 1 (s.port p).seqOut part
  let s := if counted then s.modPort p fun x => { x with seqOut := tput x.seqOut part ((q + 1) % 2 ^ 32) } else s
  fabQueue s { id := 0, op := op, piece := piece, kind := 0, port := p, link := 0, part := part,
               req := { r with src := s.fab.part, srcPort := p, port := p, seq := if counted then q else 0, opId := op, piece := piece } } line

/-- A message that leaves the part: what the outside receives. -/
def fabOut (s : State) (m : FSend) : State := s.modFab fun f => { f with out := f.out ++ [m] }

/-- A reply enters the send queue of its destination at the port by which its request came (R345, R350, R358), on the link of its line. -/
def fabReply (s : State) (port line : Nat) (m : FSend) : State :=
  let (id, s) := s.newId
  s.modFab fun f => { f with
    sends := f.sends ++ [{ m with id := id, port := port, link := linkAt (s.port port) (Config.lineHash line / 32), line := line }] }

/-- A request's tag: the fabric tag of its interface (R348); 65,536 is no tag. -/
def tagOf (s : State) (ifc : Nat) : Nat := (s.ifc ifc).ftag.getD 65536

/-! ### Schedules -/

/-- The valid entries of a schedule, as (entry, slot start within the rotation, length), in ticks (R351, R352). -/
def schedSlots (x : FPort) : List (Word × Nat × Nat) :=
  (((List.range 16).map fun i => tget 0 x.sched i).filter fun (e : Word) => fld e.toNat 39 39 == 1).foldl
    (fun (z : List (Word × Nat × Nat)) (e : Word) =>
      z ++ [(e, (z.map fun (q : Word × Nat × Nat) => q.2.2).foldl (· + ·) 0, fld e.toNat 63 48 * 4000)]) []

/-- The rotation, in ticks (R352). -/
def rotation (x : FPort) : Nat := ((schedSlots x).map fun (q : Word × Nat × Nat) => q.2.2).foldl (· + ·) 0

/-- The dark guard of an entry, in ticks (R351). -/
def guardOf (e : Word) : Nat := (if fld e.toNat 47 40 = 0 then 10 else fld e.toNat 47 40) * 400

/-- The slot in progress at a tick: its number, its entry, and whether it is dark (R352). -/
def slotAtTick (x : FPort) (t : Nat) : Option (Nat × Word × Bool) :=
  let r := rotation x
  if r = 0 ∨ t < x.t0.toNat then none
  else
    let p := (t - x.t0.toNat) % r
    ((schedSlots x).zipIdx.find? fun (q : (Word × Nat × Nat) × Nat) => decide (q.1.2.1 ≤ p) && decide (p < q.1.2.1 + q.1.2.2)).map
      fun q => (q.2, q.1.1, decide (p < q.1.2.1 + guardOf q.1.1))

/-- The peer of an entry (R351). -/
def peerOf (e : Word) : Nat := fld e.toNat 35 24

/-- Lit ticks of a peer's slots since T0 up to a tick (R352, R459). -/
def litUpTo (x : FPort) (peer t : Nat) : Nat :=
  let r := rotation x
  if r = 0 ∨ t < x.t0.toNat then 0
  else
    let d := t - x.t0.toNat
    (((schedSlots x).filter fun (q : Word × Nat × Nat) => peerOf q.1 == peer).map fun (q : Word × Nat × Nat) =>
      let g := guardOf q.1
      d / r * (q.2.2 - g) + min (d % r - (q.2.1 + g)) (q.2.2 - g)).foldl (· + ·) 0

/-- The ticks that a request's timer has counted (R357, R459). -/
def timerOf (s : State) (m : FSend) : Nat :=
  match m.departed with
  | none => 0
  | some t =>
    let x := s.port m.port
    if s.fab.drain ≠ 0 then m.ran
    else if x.circuit && m.part != s.fab.part then m.ran + (litUpTo x m.part s.tick - litUpTo x m.part t)
    else m.ran + (s.tick - t)

/-! ### Serving a request -/

/-- The 64 KiB runs of a request's range at the target, or none for a refusal (R348, R405). -/
def exportSegs (s : State) (port ifc : Nat) (wr : Bool) : (fuel : Nat) → (va len : Nat) → Option (List Seg)
  | 0, _, _ => some []
  | n + 1, va, len =>
    if len = 0 then some []
    else
      let k := min len (65536 - va % 65536)
      let x : Option Xlat := match tlbHit (s.port port).tlb ifc va with
        | some x => some x
        | none => match walk s ifc va with
          | .ok (e, lvl) => some { ifc := ifc, va := va / pageSize lvl * pageSize lvl, size := pageSize lvl, pte := wd e, gen := xlatGen s ifc }
          | .error _ => none
      match x with
      | none => none
      | some x =>
        if !x.pte.getLsbD 61 || (wr && x.pte.getLsbD 59) then none
        else (exportSegs s port ifc wr n (va + k) (len - k)).map fun l => ⟨.dev (x.pa va), k⟩ :: l

/-- The optical port's cache after a request used a translation (R402). -/
def touchExport (s : State) (port ifc va : Nat) : State :=
  match walk s ifc va with
  | .ok (e, lvl) =>
    let new : Xlat :=
      { ifc := ifc, va := va / pageSize lvl * pageSize lvl, size := pageSize lvl, pte := wd e, gen := xlatGen s ifc }
    let x := (tlbHit (s.port port).tlb ifc va).getD new
    s.modPort port fun p => { p with tlb := tlbPut 1024 p.tlb x }
  | .error _ => s

/-- The interface that holds a fabric tag (R348). -/
def tagHolder (s : State) (tag : Nat) : Option Nat := (s.ifcs.find? fun (p : Nat × Ifc) => p.2.ftag == some tag).map (·.1)

/-- Where a request's bytes are, or none for a refusal (R348, R405). -/
def reqSegs (s : State) (r : FabReq) : Option (Nat × List Seg) :=
  match tagHolder s r.tag with
  | none => none
  | some i =>
    if 2 ^ 48 < r.off + r.len then none
    else (exportSegs s r.port i (r.kind != .load) (r.len / 65536 + 2) r.off r.len).map fun l => (i, l)

/-- The value of an atomic's width and signedness. -/
def atomVal (ty : BitVec 3) (x : Nat) : Int := intOf (ty < 4) (8 * 2 ^ (ty.toNat % 4)) x

/-- The new value of an atomic: `fn` is the opcode's low nibble, `m` the word at its home (R280, R281). -/
def atomNew (fn : Nat) (f : Bool) (ty : BitVec 3) (m v cmp : Nat) : Nat :=
  let w := 8 * 2 ^ (ty.toNat % 4)
  let m := m % 2 ^ w
  let v := v % 2 ^ w
  let canon := fun (x : Nat) => if ((ffOf 8).decode x).isNan then 0x7FC00000 else x
  let fp := fun (r : FVal) => canon ((ffOf 8).put .rne false false r).bits
  let a := (ffOf 8).decode m
  let b := (ffOf 8).decode v
  match fn with
  | 0 => if f then fp (fadd false a b).1 else (m + v) % 2 ^ w
  | 1 => if f then canon (fmaxmin (ffOf 8) false m v).bits else (if atomVal ty m ≤ atomVal ty v then m else v)
  | 2 => if f then canon (fmaxmin (ffOf 8) true m v).bits else (if atomVal ty m ≤ atomVal ty v then v else m)
  | 3 => m &&& v
  | 4 => m ||| v
  | 5 => m ^^^ v
  | 6 => v
  | _ => if m = cmp % 2 ^ w then v else m

end Sys2Proof.Machine
end

