-- ==== Sys2Proof/Machine/Flags.lean ====
section
/-! DEFINITION. The special registers: what a read gives and what a write changes (R88, R89, R124–R126, R148–R151, R166, R234–R238,
R258, R376). -/
namespace Sys2Proof.Machine

/-- `ch.wp` of a channel as a context reads it (R258): OWN is 1 for the task that began the copy, in the same stay (DESIGN CHOICE, log
entry 124). -/
def chWp (s : State) (cid ch : Nat) : Word :=
  let x := tget {} (s.core (coreOf cid)).chans ch
  match x.own with
  | some o =>
    let busy := if x.run.isSome then 2 ^ 62 else 0
    if o.cid = cid ∧ o.uid = (s.ctx cid).uid then wd (2 ^ 63 + busy + x.wp % 2 ^ 25) else wd busy
  | none => 0

/-- A read of a special register of a compute context (R149). -/
def srCompute (s : State) (cid n : Nat) : Word :=
  let c := s.ctx cid
  if n = 0 then wd (c.bi % 2 ^ 32)
  else if n = 1 then wd (c.bm % 2 ^ 40)
  else if n = 2 then c.cont
  else if n = 3 then c.xpc
  else if n = 4 then ctxId s cid
  else if n = 5 then ctxSt c
  else if n = 0x10 then (s.core (coreOf cid)).cap
  else if n = 0x11 then wd s.tick
  else if n = 0x20 then c.mxK
  else if n = 0x21 then c.mxPwr
  else if n = 0x22 then c.mxStat
  else if n = 0x23 then c.v0.stat
  else if n = 0x24 then c.v1.stat
  else if n < 0x38 then chWp s cid (n - 0x30)
  else if n = 0x40 then fltCode c.flt
  else if n = 0x41 then wd c.flt.mask
  else if n = 0x42 then c.flt.addr
  else if n = 0x43 then wd c.flt.rep
  else wd c.flt.cause

/-- A read of a special register of a stream context (R149). -/
def srStreamRead (s : State) (cid n : Nat) : Word :=
  if n = 0 then wd (2 ^ 32 - 1)
  else if n = 1 then wd (2 ^ 40 - 1)
  else if n = 2 ∨ n = 3 ∨ n = 5 then 0
  else srCompute s cid n

/-- A read of a special register. -/
def srRead (s : State) (cid n : Nat) : Word := if isStream cid then srStreamRead s cid n else srCompute s cid n

/-- Flags joined to a status register at commit (R89): 0 `vs0.stat`, 1 `vs1.stat`, 2 `mx.stat`. -/
def setFlags (c : Ctx) (reg : Nat) (m : Word) : Ctx :=
  match reg with
  | 0 => { c with v0 := { c.v0 with stat := c.v0.stat ||| m } }
  | 1 => { c with v1 := { c.v1 with stat := c.v1.stat ||| m } }
  | _ => { c with mxStat := c.mxStat ||| m }

/-- Write-one-to-clear of a status register (R148, R151). -/
def clearFlags (c : Ctx) (reg : Nat) (m : Word) : Ctx :=
  match reg with
  | 0 => { c with v0 := { c.v0 with stat := c.v0.stat &&& ~~~m } }
  | 1 => { c with v1 := { c.v1 with stat := c.v1.stat &&& ~~~m } }
  | _ => { c with mxStat := c.mxStat &&& ~~~m }

/-- The status registers with a writable field, by number (R149). -/
def w1cReg (n : Nat) : Option Nat :=
  if n = 0x22 then some 2 else if n = 0x23 then some 0 else if n = 0x24 then some 1 else none

end Sys2Proof.Machine
end

