-- ==== Sys2Proof/Machine/Task.lean ====
section
/-! DEFINITION. Launch blocks, and the instructions on tasks, budgets and groups (R104, R105, R110, R122–R131). -/
namespace Sys2Proof.Machine

/-! ### Launch blocks -/

/-- A group enrolment field (R104). -/
def geOf (x : Nat) : Option Nat := if fld x 8 8 = 1 then some (x % 256) else none

/-- A launch block's fields (R104). -/
def blockOf (x : Nat) (addr : Word) : LaunchBlk :=
  { entry := wd (fld x 63 0), cont := wd (fld x 127 64), image := wd (fld x 191 128), arg := wd (fld x 255 192),
    handler := wd (fld x 319 256), save := wd (fld x 383 320), wstart := wd (fld x 447 384), bi := fld x 479 448,
    inh := fld x 480 480 == 1, inhfr := fld x 488 481, bm := fld x 551 512, pbase := fld x 583 576, pcnt := fld x 592 584,
    pmask := BitVec.ofNat 4 (fld x 596 593), prio := fld x 599 597, ifc := fld x 605 600, fuse := fld x 606 606 == 1,
    pol := fld x 608 607, sreg := fld x 646 640, vp0 := fld x 651 647, vp1 := fld x 656 652, acc := fld x 660 657,
    td := fld x 665 661, esc := fld x 669 666, ca0 := fld x 675 670, ca1 := fld x 681 676, spp := fld x 687 682,
    ge := [geOf (fld x 712 704), geOf (fld x 721 713), geOf (fld x 730 722), geOf (fld x 739 731)], addr := addr }

/-- The reserved bits and ranges of a launch block (R104). -/
def blockOk (x : Nat) : Bool :=
  let b := blockOf x 0
  fld x 1023 740 == 0 && fld x 703 688 == 0 && fld x 639 609 == 0 && fld x 575 552 == 0 && fld x 511 489 == 0 &&
  decide (b.spp ≤ 32) && decide (b.ca0 ≤ 32) && decide (b.ca1 ≤ 32) && decide (b.esc ≤ 8) && decide (b.td ≤ 16) &&
  decide (b.acc ≤ 8) && decide (b.vp0 ≤ 24) && decide (b.vp1 ≤ 24) && decide (16 ≤ b.sreg) && decide (b.sreg ≤ 64) &&
  b.pmask != 0 && decide (1 ≤ b.pcnt) && decide (b.pbase + b.pcnt ≤ 256) && b.save.toNat % 256 == 0 &&
  b.image.toNat % 64 == 0 && b.cont.toNat % 8 == 0 && b.cont != 0 && b.entry.toNat % 8 == 0

/-- The cores of a placement set (R105). -/
def placement (b : LaunchBlk) : List Nat :=
  (upto b.pbase b.pcnt).flatMap fun st => (List.range 4).filterMap fun i => if b.pmask.getLsbD i then some (4 * st + i) else none

/-- A block names another interface, or a core that its interface does not own (R105). -/
def blockViol (s : State) (ifc : Nat) (b : LaunchBlk) : Bool :=
  b.ifc != ifc || (placement b).any fun c => (s.core c).own != some ifc

/-- Entries on their way to a core's queue, which hold their place there (R122). -/
def comingTo (s : State) (core : Nat) : Nat :=
  (s.ops.filter fun o => match o.kind with
    | .enqueue _ c => c == core
    | _ => false).length

/-- The free general entries of a core's queue (R107, R122). -/
def freeEntries (s : State) (core : Nat) : Nat := 56 - ((s.core core).queue.length + comingTo s core)

/-- A core stands in placement sets of an interface: the interface owns it, and it is not being reassigned (R29, R409). -/
def placeable (s : State) (ifc core : Nat) : Bool := (s.core core).own == some ifc && (s.core core).moving.isNone

/-- Cores of a list that the interface may use and that have a free general entry (R108). -/
def openCores (s : State) (ifc : Nat) (l : List Nat) : List Nat := l.filter fun c => placeable s ifc c && decide (0 < freeEntries s c)

/-- The core with the most free general entries, the lowest of equals (R108). -/
def bestCore (s : State) (l : List Nat) : Option Nat :=
  l.foldl (fun r c => match r with
    | some b => if freeEntries s b < freeEntries s c then some c else some b
    | none => some c) none

/-! ### exit and cont -/

/-- The successors' block addresses (R127). -/
def exitAddrs (f : SR) (s : State) : List Word :=
  ([f.d, f.a, f.b, f.c].take (f.fn.extractLsb' 0 3).toNat).map s.me.sreg

/-- Blocks read and checked one after the other (R127). -/
def readBlocks (s : State) (w : Word) (acc : List LaunchBlk) (l : List Word) (k : State → List LaunchBlk → State) : State :=
  match l with
  | [] => k s acc
  | a :: as => slotRecord s accRec 128 a.toNat 128 0 fun s x =>
    let b := blockOf x a
    if !blockOk x then s.faultAt .illenc a.toNat
    else if b.prio = 7 ∧ s.me.lb.prio ≠ 7 then s.faultB .priv
    else if blockViol s s.me.ifc b then s.modIss fun i => { i with viol := some a }
    else readBlocks s w (acc ++ [{ b with wstart := wMerge b.wstart w }]) as k

/-- R127: the blocks are read when the bundle executes; the task ends at its commit. -/
def execExit (f : SR) (s : State) : Res :=
  .next (sOp s f.kneg f.k (4 + 4 * (f.fn.extractLsb' 0 3).toNat) fun s =>
    withData s [f.wi1, f.wi2] fun w => readBlocks s w [] (exitAddrs f s) fun s l => s.eff (.exit l))

/-- R128. -/
def execContLabel (f : SI) (s : State) : Res :=
  .next (sOp s f.kneg f.k 1 fun s => s.eff (.cont (s.iss.pc + f.imm.signExtend 64 * 8)))

/-- R128. -/
def execContReg (f : SI) (s : State) : Res :=
  .next (sOp s f.kneg f.k 1 fun s =>
    let a := s.me.sreg f.a + f.imm.signExtend 64 * 8
    if a.toNat % 8 ≠ 0 then s.faultB .align else s.eff (.cont a))

/-! ### Finding a task -/

/-- Where a live task of an interface is (R129). -/
inductive Found where
  | ctx (cid : Nat)
  | entry (q : QEntry)
  deriving DecidableEq, Repr

/-- Every entry and record that is not in a context: in queues, held, or on its way to a queue. -/
def allEntries (s : State) : List QEntry :=
  s.cores.flatMap (fun p => p.2.queue ++ p.2.reserved.filterMap (·.2)) ++ s.heldQ ++
  s.ops.filterMap fun o => match o.kind with
    | .enqueue e _ => some e
    | _ => none

/-- The live task of a handle (R110, R129). -/
def findTask (s : State) (ifc : Nat) (h : Word) : Option Found :=
  let t := fld h.toNat 39 0
  if fld h.toNat 63 58 ≠ ifc then none
  else match s.ctxs.find? fun p => !isStream p.1 && p.2.st != .free && p.2.st != .frozen && p.2.ifc == ifc && p.2.tseq == t with
    | some p => some (.ctx p.1)
    | none => ((allEntries s).find? fun q => q.ifc == ifc && q.tseq == t).map .entry

/-- `ctx.st` of an entry (R129): of a new entry from its priority, of an eviction record as saved, with the refusals and the
top-up since. -/
def entrySt (s : State) (q : QEntry) : Word :=
  if q.evict then
    let w := (recWord (readVa s q.ifc q.lb.save.toNat 4096) (0x900 + 72)).toNat
    ctxStWord q.refuse (fld w 15 12) (fld w 10 8) (fld w 6 4) (w.testBit 1) (w.testBit 0 && !q.topped)
  else ctxStWord 0 0 q.lb.prio q.prio false false

/-- R129. -/
def execBudrd (f : SR) (s : State) : Res :=
  .next (if !s.onStream && f.a != 0 then s.faultB .illenc else sOp s f.kneg f.k 1 fun s =>
    let pick := fun (bi bm : Nat) (st : Word) => if f.fn = 0 then wd bi else if f.fn = 1 then wd bm else st
    let v := if s.onStream then
        match findTask s s.me.ifc (s.me.sreg f.a) with
        | some (.ctx c) => pick (s.ctx c).bi (s.ctx c).bm (ctxSt (s.ctx c))
        | some (.entry q) => pick q.bi q.bm (entrySt s q)
        | none => BitVec.allOnes 64
      else pick s.me.bi s.me.bm (ctxSt s.me)
    s.landS f.d v s.lat.salu)

/-- R130: the top-up goes to the task as an operation. -/
def execBudadd (f : SR) (s : State) : Res :=
  .next (sOp s f.kneg f.k 0 fun s =>
    match findTask s s.me.ifc (s.me.sreg f.a) with
    | none => s.landS f.d 1 s.lat.salu
    | some _ =>
      let s := (s.start 0 none (.topup s.me.ifc (fld (s.me.sreg f.a).toNat 39 0) (fld (s.me.sreg f.b).toNat 31 0)
        (fld (s.me.sreg f.c).toNat 39 0))).2
      s.landS f.d 0 s.lat.salu)

/-! ### Groups -/

/-- A join of the context has not reached the group table. -/
def joinOpen (s : State) : Bool :=
  s.ops.any fun o => o.own.cid == s.iss.cid && o.own.uid == s.me.uid && match o.kind with
    | .join .. => true
    | _ => false

/-- Whether a group is allotted to an interface (R283). -/
def allotted (s : State) (d g ifc : Nat) : Bool :=
  let x := tget {} (s.die d).grp g
  x.allot && x.ifc == ifc

/-- R131: the group table decides when the join arrives, and the status lands then. -/
def execGjoin (f : SI) (s : State) : Res :=
  .next (sOp s f.kneg f.k 2 fun s =>
    let g := (f.imm.extractLsb' 0 8).toNat
    let d := dieOf (coreOf s.iss.cid)
    if joinOpen s then s.wait
    else if !allotted s d g s.me.ifc then s.modIss fun i => { i with viol := some s.iss.pc }
    else
      let (id, s) := s.start 0 none (.join (f.imm.extractLsb' 8 2).toNat g d)
      s.landLateS f.d id s.lat.salu)

/-- R131. -/
def execGleave (f : SI) (s : State) : Res :=
  .next (sOp s f.kneg f.k 2 fun s =>
    let e := (f.imm.extractLsb' 0 2).toNat
    if joinOpen s then s.wait
    else
      let has := (tget none s.me.ge e).isSome
      let s := s.landS f.d (if has then 0 else 1) s.lat.salu
      if has then s.eff (.gleave e 0) else s)

end Sys2Proof.Machine
end

