-- ==== Sys2Proof/Machine/Copy.lean ====
section
/-! DEFINITION. Copies, page control, L2 range controls and group loads, as the C slots execute them (R254–R264, R282, R285). -/
namespace Sys2Proof.Machine

/-! ### Checks -/

/-- The window checks of a range of device memory or of the local window (R243, R255): no translation is made. -/
def rangeKind (s : State) (cid va len : Nat) : Option (Code × Nat) :=
  let k := kindOf va
  let spp := (s.ctx cid).pages.length
  if k = 6 then some (.xprot, va)
  else if len = 0 then none
  else if 2 ^ 64 ≤ va + (len - 1) ∨ kindOf (va + (len - 1)) ≠ k then some (.straddle, va)
  else if k = 0 then none
  else if k = 2 then
    if spp * 65536 < va + len - localBase then some (.xprot, max va (localBase + spp * 65536)) else none
  else some (.xprot, va)

/-- One sector translated (R255, R401). -/
def sectorXlat (s : State) (cid : Nat) (wr : Bool) (va : Nat) : Option (Code × Nat) :=
  if kindOf va ≠ 0 then none
  else match resolve s (s.who cid) { wr := wr, loc := false } false va 64 with
    | .error e => some e
    | .ok _ => none

/-- The first and the last sector of a range translated (R255). -/
def endsXlat (s : State) (cid : Nat) (wr : Bool) (va len : Nat) : Option (Code × Nat) :=
  if len = 0 then none
  else (sectorXlat s cid wr va).orElse fun _ => sectorXlat s cid wr ((va + len - 1) / 64 * 64)

/-- The translations of the first and last sector of a range used (R402). -/
def touchEnds (s : State) (va len : Nat) : State :=
  let w := s.who s.iss.cid
  if len = 0 then s else touchXlat (touchXlat s w va 1) w (va + len - 1) 1

/-- A check that faults, or what follows it. -/
def orFault (s : State) (e : Option (Code × Nat)) (k : State → State) : State :=
  match e with
  | some (c, a) => s.faultAt c a
  | none => k s

/-- The first failing check of a list. -/
def firstErr (l : List (Option (Code × Nat))) : Option (Code × Nat) := (l.filterMap id).head?

/-- An address or length that is not a multiple of 64 (R255): the first of a list, with the address to report. -/
def misaligned (l : List (Nat × Nat)) : Option (Code × Nat) :=
  (l.find? fun p => p.1 % 64 != 0).map fun p => (.align, p.2)

/-- A channel that still runs an earlier copy (R254). -/
def chanBusy (s : State) (core ch : Nat) : Bool :=
  s.ops.any fun o => match o.kind with
    | .copy x => x.core == core && x.ch == ch
    | .mcst x => x.core == core && x.ch == ch
    | _ => false

/-- A copy to start at commit on a free channel (R254). -/
def copyStartOp (s : State) (f : CO) (k : OpKind) : State :=
  withWin s [f.wi1, f.wi2, f.wi3] fun w =>
    if chanBusy s (coreOf s.iss.cid) f.ch.toNat then s.wait else (s.start w f.wo k).2

/-! ### cp, cps, pgwb, mcst -/

/-- R254–R256. -/
def execCp (f : CO) (s : State) : Res :=
  .next (
    let d := (cAddr s f f.d).toNat
    let a := (cAddr s f f.a).toNat
    let n := (s.me.areg f.file f.b).toNat
    let cid := s.iss.cid
    orFault s (firstErr [rangeKind s cid d n, rangeKind s cid a n, misaligned [(d, d), (a, a), (n, d)],
        if 16777216 < n then some (.illenc, s.iss.pc.toNat) else none, endsXlat s cid true d n, endsXlat s cid false a n])
      fun s => copyStartOp (touchEnds (touchEnds (s.charge 2 (n / 64)) a n) d n) f
        (.copy { kind := 0, ch := f.ch.toNat, core := coreOf cid, dst := wd d, src := wd a, rows := 1, rlen := n / 64, dstr := 0,
                 sstr := 0, dsw := false, ssw := false }))

/-- The shape of a `cps` (R257). -/
def cpsOp (s : State) (f : CO) (d a : Word) (w : Nat) : CopyOp :=
  { kind := 1, ch := f.ch.toNat, core := coreOf s.iss.cid, dst := d, src := a, rows := fld w 31 16 + 1, rlen := fld w 15 2 + 1,
    dstr := fld w 63 48, sstr := fld w 47 32, dsw := fld w 1 1 == 1, ssw := fld w 0 0 == 1 }

/-- The rows of a strided side, as addresses (R257). -/
def cpsRows (o : CopyOp) (dst : Bool) : List Nat :=
  (List.range o.rows).map fun i => if dst then (o.sector (i * o.rlen)).1 else (o.sector (i * o.rlen)).2

/-- The sectors that a `cps` writes, each counted once (R117, R256): rows may overlap. -/
def cpsSectors (o : CopyOp) : Nat := if o.rlen ≤ o.dstr then o.total else (o.rows - 1) * o.dstr + o.rlen

/-- R254, R255, R257: the windows are checked row by row, the translations at the first and the last sector. -/
def execCps (f : CO) (s : State) : Res :=
  .next (
    let d := cAddr s f f.d
    let a := cAddr s f f.a
    let w := (s.me.areg f.file f.b).toNat
    let o := cpsOp s f d a w
    let cid := s.iss.cid
    let len := o.rlen * 64
    let bad := 16777216 < o.total * 64 ∨ (o.dsw ∧ kindOf d.toNat ≠ 2) ∨ (o.ssw ∧ kindOf a.toNat ≠ 2)
    let last := fun (side : Bool) => if side then (o.sector (o.total - 1)).1 else (o.sector (o.total - 1)).2
    if bad then s.faultB .illenc
    else
      orFault s (firstErr ((cpsRows o true).map (rangeKind s cid · len) ++ (cpsRows o false).map (rangeKind s cid · len) ++
          [misaligned [(d.toNat, d.toNat), (a.toNat, a.toNat)], sectorXlat s cid true d.toNat, sectorXlat s cid true (last true),
           sectorXlat s cid false a.toNat, sectorXlat s cid false (last false)]))
        fun s => copyStartOp (s.charge 2 (cpsSectors o)) f (.copy o))

/-- R245, R255, R264. -/
def execPgwb (f : CO) (s : State) : Res :=
  .next (
    let j := (s.me.areg f.file f.a).toNat
    let d := backing s.me.lb + 65536 * j
    let cid := s.iss.cid
    if s.me.pages.length ≤ j then s.faultB .illenc
    else
      orFault s (firstErr [rangeKind s cid d 65536, endsXlat s cid true d 65536])
        fun s => copyStartOp (touchEnds (s.charge 1 1024) d 65536) f
          (.copy { kind := 3, ch := f.ch.toNat, core := coreOf cid, dst := wd d, src := wd (localBase + 65536 * j), rows := 1,
                   rlen := 1024, dstr := 0, sstr := 0, dsw := false, ssw := false }))

/-- The branches of a multicast list (R262). -/
def mcstBranches (x : Nat) : List Branch :=
  (List.range 8).filterMap fun i =>
    let e := fld x (64 * i + 63) (64 * i)
    if e = 0 then none
    else some { idx := i, cid := fld e 57 48 * 8 + fld e 47 45, tseq := fld e 29 0, page := fld e 44 40, sect := fld e 39 30 }

/-- An entry of a multicast list that names another interface or a core that the interface does not own (R263). -/
def mcstViol (s : State) (x : Nat) : Bool :=
  (List.range 8).any fun i =>
    let e := fld x (64 * i + 63) (64 * i)
    e != 0 && (fld e 63 58 != s.me.ifc || (s.core (fld e 57 48)).own != some s.me.ifc)

/-- R255, R256, R262, R263. -/
def execMcst (f : CO) (s : State) : Res :=
  .next (
    let l := (s.me.areg f.file f.d).toNat
    let a := (cAddr s f f.a).toNat
    let n := (s.me.areg f.file f.b).toNat
    let cid := s.iss.cid
    orFault s (firstErr [rangeKind s cid a n, misaligned [(a, a), (n, a)],
        if n < 64 ∨ 65536 < n then some (.illenc, s.iss.pc.toNat) else none, endsXlat s cid false a n])
      fun s => slotRecord s accRec 64 l 64 0 fun s x =>
        if x = 0 then s.faultB .illenc
        else if mcstViol s x then s.modIss fun i => { i with viol := some i.pc }
        else copyStartOp (touchEnds (s.charge 4 (n / 64)) a n) f
          (.mcst { ch := f.ch.toNat, core := coreOf cid, src := wd a, len := n, br := mcstBranches x }))

/-- A retain-mask operand within the context's pages (R264). -/
def retMask (f : CO) (s : State) (k : State → BitVec 32 → State) : State :=
  let v := s.me.areg f.file f.a
  if 2 ^ s.me.pages.length ≤ v.toNat then s.faultB .illenc else k (s.charge 1 0) (v.setWidth 32)

/-- R247, R264. -/
def execPgret (f : CO) (s : State) : Res := .next (retMask f s fun s m => s.eff (.retOr m))
/-- R247, R264. -/
def execPgrel (f : CO) (s : State) : Res := .next (retMask f s fun s m => s.eff (.retAnd m))

/-! ### L2 range controls -/

/-- Range controls of a core in flight or starting in this bundle (R282). -/
def l2Running (s : State) : Nat :=
  let c := coreOf s.iss.cid
  let is := fun (o : Op) => coreOf o.own.cid == c && match o.kind with
    | .l2range .. => true
    | _ => false
  (s.ops.filter is).length + (s.iss.effs.filter fun e => match e with
    | .start o => is o
    | _ => false).length

/-- A range control: 0 `l2pf`, 1 `l2wb`, 2 `l2inv` (R282). -/
def l2Range (f : CO) (s : State) (k : Nat) : State :=
  let d := (cAddr s f f.d).toNat
  let n := (s.me.areg f.file f.a).toNat
  let cid := s.iss.cid
  orFault s (firstErr [rangeKind s cid d n, if n != 0 && kindOf d != 0 then some (.xprot, d) else none,
      misaligned [(d, d), (n, d)], if n < 64 ∨ 16777216 < n then some (.illenc, s.iss.pc.toNat) else none, endsXlat s cid false d n])
    fun s => withWin s [f.wi1, f.wi2, f.wi3] fun w =>
      if 4 ≤ l2Running s then s.wait
      else ((touchEnds (s.charge 1 (if k = 2 then 0 else n / 64)) d n).start w f.wo (.l2range k (wd d) n 0)).2

/-- R282. -/
def execL2pf (f : CO) (s : State) : Res := .next (l2Range f s 0)
/-- R282. -/
def execL2wb (f : CO) (s : State) : Res := .next (l2Range f s 1)
/-- R282. -/
def execL2inv (f : CO) (s : State) : Res := .next (l2Range f s 2)

/-! ### Group loads -/

/-- The first or the last sector of a source that is not homed on the die (R285). -/
def offDie (s : State) (va len die : Nat) : Option (Code × Nat) :=
  [va, (va + len - 1) / 64 * 64].findSome? fun a =>
    match resolve s (s.who s.iss.cid) { loc := false } false a 64 with
    | .ok [⟨.dev pa, _⟩] => if homeDie pa = die then none else some (.xprot, a)
    | .ok _ => some (.xprot, a)
    | .error e => some e

/-- R285: the sequence is taken at commit. -/
def execGld (f : CO) (s : State) : Res :=
  .next (
    let d := (cAddr s f f.d).toNat
    let a := (cAddr s f f.a).toNat
    let n := (s.me.areg f.file f.b).toNat
    let cid := s.iss.cid
    let die := dieOf (coreOf cid)
    let e := (f.ch.extractLsb' 0 2).toNat
    if joinOpen s then s.wait
    else
      orFault s (firstErr [misaligned [(d, d), (a, a), (n, d)],
          if n < 64 ∨ 65536 < n then some (.illenc, s.iss.pc.toNat) else none, rangeKind s cid d n,
          if kindOf d != 2 then some (.xprot, d) else none, rangeKind s cid a n, if kindOf a != 0 then some (.xprot, a) else none,
          offDie s a n die, if (tget none s.me.ge e).isNone then some (.grpmis, s.iss.pc.toNat) else none])
        fun s => withWin s [f.wi1, f.wi2, f.wi3] fun w =>
          let s := touchEnds (s.charge 2 (n / 64)) a n
          let (id, s) := s.newId
          let g := ((tget none s.me.ge e).map (·.grp)).getD 0
          s.eff (.gld { id := id, own := s.owner, win := w, wo := WFi f.wo, pages := s.me.pages.map (·.phys),
                        kind := .gld { e := e, die := die, g := g, q := 0, dst := wd d, src := wd a, len := n, sw := f.ch.getLsbD 2,
                                       segs := (reach s (s.who cid) { loc := false } false a n).1 } }))

end Sys2Proof.Machine
end

