-- ==== Sys2Proof/Machine/Notices.lean ====
section
/-! DEFINITION. Publishing, declining, receiving state, retention control and tile walks, as the C slots execute them (R317–R319,
R325, R331, R334–R338). -/
namespace Sys2Proof.Machine

/-! ### Publishing -/

/-- Consumer entry i of a notice record (R317). -/
def consEntry (r i : Nat) : Nat := fld r (64 * i + 63) (64 * i)

/-- The used consumer entries of a notice record (R317). -/
def consUsed (r : Nat) : List Nat := (List.range 8).filter fun i => consEntry r i != 0

/-- SIZE of a notice record (R317). -/
def noticeSize (r : Nat) : Nat := fld r 536 512

/-- A notice record or retention word that R318 calls wrong, alignment apart. -/
def badNotice (r word : Nat) : Bool :=
  let es := (consUsed r).map (consEntry r)
  fld r 1023 547 != 0 || fld r 543 537 != 0 || es.isEmpty || decide (es.eraseDups.length < es.length) ||
  es.any (fun e => fld e 31 30 != 0 || (fld e 44 44 == 0 && fld e 43 32 != 0)) ||
  decide (noticeSize r < 64) || decide (16777216 < noticeSize r) || fld word 31 6 != 0

/-- A consumer of another interface, or a core that the interface does not own (R318). -/
def noticeViol (s : State) (r : Nat) : Bool :=
  (consUsed r).any fun i =>
    let e := consEntry r i
    fld e 63 58 != s.me.ifc || (fld e 44 44 == 0 && (s.core (fld e 57 48)).own != some s.me.ifc)

/-- The named slot is held (R319) as the bundle executes; a second `pub` of the bundle takes it over (log entry 36). -/
def slotTaken (s : State) (slot : Nat) : Bool :=
  (tget {} (s.core (coreOf s.iss.cid)).ret slot).holder.isSome

/-- R318, R319: the record is read and checked at execution; the slot is taken and the notices are sent at commit. -/
def execPub (f : CO) (s : State) : Res :=
  .next (
    let d := (s.me.areg f.file f.d).toNat
    let a := (s.me.areg f.file f.a).toNat
    let w := (s.me.areg f.file f.b).toNat
    let cid := s.iss.cid
    if a % 128 ≠ 0 then s.faultAt .align a
    else if d % 64 ≠ 0 then s.faultAt .align d
    else slotRecord s accRec 128 a 128 0 fun s r =>
      let n := noticeSize r
      if n % 64 ≠ 0 then s.faultAt .align d
      else if badNotice r w then s.faultB .illenc
      else orFault s (firstErr [rangeKind s cid d n, endsXlat s cid false d n]) fun s =>
        if noticeViol s r then s.modIss fun i => { i with viol := some i.pc }
        else withWin s [f.wi1, f.wi2, f.wi3] fun win =>
          let slot := fld w 5 0
          if slotTaken s slot then s.wait
          else
            let s := touchEnds (s.charge 8 0) d n
            let segs := match resolve s (s.who cid) {} false d n with
              | .ok l => l
              | .error _ => []
            s.eff (.pub (BitVec.ofNat 1024 r) (wd d) slot (BitVec.ofNat 32 (fld w 63 32)) win segs (WFi f.wo)))

/-! ### Retention control -/

/-- R325. -/
def execRtset (f : CO) (s : State) : Res :=
  .next (
    let s := s.charge 1 0
    let v := (s.me.areg f.file f.b).toNat % 2 ^ 20
    if v = 0 ∨ 1000000 < v then s.landA f.file f.d 3 s.lat.cst
    else s.eff (.rtset f.d.toNat f.file ((s.me.areg f.file f.a).toNat % 64) v))

/-- R325. -/
def execRtrel (f : CO) (s : State) : Res :=
  .next ((s.charge 1 0).eff (.rtrel f.d.toNat f.file ((s.me.areg f.file f.a).toNat % 64)))

/-! ### Declining and receiving -/

/-- R331. -/
def execDecl (f : CO) (s : State) : Res :=
  .next ((s.charge 2 0).eff (.decl f.d.toNat f.file ((s.me.areg f.file f.a).setWidth 32)))

/-- An item of `scfg` (R334): its value's check, its old value, and its effect at commit. -/
def scfgItem (f : CO) (s : State) (bad : Word → Option (Code × Nat)) (old : Word) (e : Word → Eff) : State :=
  let v := s.me.areg f.file f.a
  orFault (s.charge 2 0) (bad v) fun s => (s.landA f.file f.d old s.lat.cst).eff (e v)

/-- A mask bit at or above SPP (R334). -/
def landBad (s : State) (v : Word) : Option (Code × Nat) :=
  if 2 ^ s.me.lb.spp ≤ v.toNat % 2 ^ 32 then some (.illenc, s.iss.pc.toNat) else none

/-- A value with bits beyond the item's (R334). -/
def wideBad (s : State) (n : Nat) (v : Word) : Option (Code × Nat) :=
  if 2 ^ n ≤ v.toNat then some (.illenc, s.iss.pc.toNat) else none

/-- The station of the issuing context. -/
def State.myStn (s : State) : Station := s.stn (cidStation s.iss.cid)

/-- CMAP of an interface at a station (R334). -/
def cmapOf (t : Station) (ifc : Nat) : Nat := tget 0xFA50 t.cmap ifc

/-- PACE of an interface at a station (R334). -/
def paceOf (t : Station) (ifc : Nat) : Nat := tget 32 t.pace ifc

/-- R334. -/
def execScfgLand (f : CO) (s : State) : Res :=
  .next (scfgItem f s (landBad s) (s.me.lm.zeroExtend 64) fun v => .lm true (v.setWidth 32))
/-- R334. -/
def execScfgUnland (f : CO) (s : State) : Res :=
  .next (scfgItem f s (landBad s) (s.me.lm.zeroExtend 64) fun v => .lm false (v.setWidth 32))
/-- R327, R334: an address of 0 means no mailbox. -/
def execScfgMbox (f : CO) (s : State) : Res :=
  .next (scfgItem f s (fun v =>
    if v.toNat % 2048 ≠ 0 then some (.align, v.toNat)
    else if v = 0 then none
    else firstErr [rangeKind s s.iss.cid v.toNat 2048, if kindOf v.toNat ≠ 2 then some (.xprot, v.toNat) else none])
    s.me.mb fun v => .mbox v)
/-- R334. -/
def execScfgLimits (f : CO) (s : State) : Res :=
  .next (scfgItem f s (wideBad s 20) (wd (s.me.dl + (s.me.mo - 1) * 2 ^ 16)) fun v =>
    .limits (fld v.toNat 15 0) (fld v.toNat 19 16 + 1))
/-- R334. -/
def execScfgClass (f : CO) (s : State) : Res :=
  .next (scfgItem f s (wideBad s 16) (wd (cmapOf s.myStn s.me.ifc)) fun v => .cmap v.toNat)
/-- R334. -/
def execScfgPace (f : CO) (s : State) : Res :=
  .next (scfgItem f s (wideBad s 8) (wd (paceOf s.myStn s.me.ifc)) fun v => .pace v.toNat)

/-- The pending notices of a context (R326). -/
def pendingOf (s : State) (cid : Nat) : List (Op × Notice) :=
  s.ops.filterMap fun o => match o.kind with
    | .notice n => if n.cons == cid && n.st == 2 then some (o, n) else none
    | _ => none

/-- The pulls in flight of a context's task (R327). -/
def pullsOf (s : State) (cid : Nat) : List Op :=
  s.ops.filter fun o => o.own.cid == cid && o.own.uid == (s.ctx cid).uid && match o.kind with
    | .pull _ => true
    | _ => false

/-- R334. -/
def execScfgRead (f : CO) (s : State) : Res :=
  .next (
    let s := s.charge 2 0
    let cid := s.iss.cid
    s.landA f.file f.d
      (wd ((pendingOf s cid).length % 256 + (pullsOf s cid).length % 32 * 2 ^ 8 + s.me.pn.toNat * 2 ^ 32)) s.lat.cst)

/-! ### Tile walks -/

/-- The targets of a walk at a station, as (target number, context) (R335). -/
def walkTgts (st d : Nat) : List (Nat × Nat) :=
  (List.range 4).filterMap fun i =>
    let e := fld d (453 + 6 * i) (448 + 6 * i)
    if fld e 5 5 = 1 then some (i, (st * 4 + fld e 4 3) * 8 + fld e 2 0) else none

/-- Rows per tile and sectors per row (R335). -/
def walkRows (d : Nat) : Nat := fld d 391 384 + 1
/-- Sectors per row (R335). -/
def walkLen (d : Nat) : Nat := fld d 397 392 + 1
/-- The loop counts (R335). -/
def walkCnt (d l : Nat) : Nat := fld d (303 + 16 * l) (288 + 16 * l) + 1
/-- The number of tiles (R335). -/
def walkTiles (d : Nat) : Nat := (List.range 5).foldl (fun n l => n * walkCnt d l) 1
/-- The memory address of row r of tile t (R335). -/
def walkMem (d t r : Nat) : Nat :=
  let step := (List.range 5).foldl (init := (wd (fld d 63 0), t)) fun (z : Word × Nat) l =>
    (z.1 + wd (z.2 % walkCnt d l) * (BitVec.ofNat 32 (fld d (159 + 32 * l) (128 + 32 * l))).signExtend 64, z.2 / walkCnt d l)
  (step.1 + wd (64 * fld d 383 368 * r)).toNat
/-- The buffer address of row r of buffer b (R335). -/
def walkBuf (d b r : Nat) : Nat := (wd (fld d 127 64) + wd (64 * fld d 439 424 * b + 64 * fld d 415 400 * r)).toNat
/-- The buffers of a walk (R335). -/
def walkBufs (d : Nat) : Nat := fld d 419 416 + 1

/-- A descriptor that R336 calls wrong, alignment apart. -/
def badWalk (d : Nat) : Bool :=
  let n := (walkTgts 0 d).length
  fld d 1023 472 != 0 || fld d 447 442 != 0 || fld d 423 420 != 0 || fld d 399 398 != 0 || n == 0 ||
  (fld d 440 440 == 1 && n != 1) || decide (65536 < walkRows d * walkLen d * 64)

/-- A misaligned field of a descriptor (R336). -/
def walkSkew (d : Nat) : Option Nat :=
  if fld d 63 0 % 64 ≠ 0 then some (fld d 63 0)
  else if fld d 127 64 % 64 ≠ 0 then some (fld d 127 64)
  else if (List.range 5).any fun l => fld d (159 + 32 * l) (128 + 32 * l) % 64 != 0 then some (fld d 63 0)
  else none

/-- A buffer range outside a target's pages (R336). -/
def walkRange (s : State) (d cid : Nat) : Option (Code × Nat) :=
  (List.range (walkBufs d)).findSome? fun b => (List.range (walkRows d)).findSome? fun r =>
    let a := walkBuf d b r
    if kindOf a ≠ 2 then some (.xprot, a) else rangeKind s cid a (walkLen d * 64)

/-- The free walk engines of a station. -/
def freeEngines (s : State) (st : Nat) : List Nat := (List.range 4).filter fun e => (tget none (s.stn st).walks e).isNone

/-- R336: the engine and the handle are given at commit. -/
def execWalk (f : CO) (s : State) : Res :=
  .next (
    let a := (s.me.areg f.file f.a).toNat
    let st := cidStation s.iss.cid
    slotRecord (s.charge 4 0) accRec 128 a 128 0 fun s d =>
      let t := walkTgts st d
      let sb := fld d 127 64
      match walkSkew d with
      | some x => s.faultAt .align x
      | none =>
        if badWalk d then s.faultB .illenc
        else
          let gone := if t.any (fun p => (s.ctx p.2).st == .free || (s.ctx p.2).st == .frozen) then some (Code.xprot, sb) else none
          let mb := fld d 63 0
          orFault s (firstErr ([gone] ++ t.map (fun p => walkRange s d p.2) ++
              [if kindOf mb ≠ 0 then some (.xprot, mb) else none, sectorXlat s s.iss.cid (fld d 440 440 == 1) mb])) fun s =>
            if t.any fun p => (s.ctx p.2).ifc != s.me.ifc then s.modIss fun i => { i with viol := some i.pc }
            else withWin s [f.wi1, f.wi2, f.wi3] fun w =>
              let used := (s.iss.effs.filter fun e => match e with | .walk .. => true | _ => false).length
              if (freeEngines s st).length ≤ used then s.wait
              else
                let s := touchEnds s mb 64
                let (id, s) := s.newId
                let o : Op := { id := id, own := s.owner, win := w, wo := WFi f.wo, pages := s.me.pages.map (·.phys),
                                kind := .walkWit st 0 4 0 }
                s.eff (.walk (BitVec.ofNat 1024 d) (t.map fun p => (p.1, { cid := p.2, uid := (s.ctx p.2).uid, ifc := s.me.ifc, tseq := (s.ctx p.2).tseq }))
                  f.file f.d.toNat o))

/-- R338: the grant is made at commit. -/
def execPermit (f : CO) (s : State) : Res :=
  .next (withWin (s.charge 1 0) [f.wi1, f.wi2, f.wi3] fun w =>
    s.eff (.permit (s.me.areg f.file f.a) (s.me.areg f.file f.b) w (WFi f.wo)))

end Sys2Proof.Machine
end

