-- ==== Sys2Proof/Machine/Stream.lean ====
section
/-! DEFINITION. The instructions of the command stream (R413–R422, R425–R428, R433). -/
namespace Sys2Proof.Machine

/-! ### launch, cwait, hsig and xinv -/

/-- A status of `launch` (R414): 0 is none. -/
def launchFail (ifc c : Nat) : Word := wd (ifc * 2 ^ 58 + 2 ^ 44 + c * 2 ^ 40)

/-- The entry that a launch makes (R107, R123, R414); the first TSEQ of an interface is 1 (log entry 15). -/
def launchEntry (s : State) (b : LaunchBlk) : QEntry :=
  let i := s.ifc b.ifc
  { id := s.nextId, lb := b, ifc := b.ifc, tseq := (i.tseq + 1) % 2 ^ 40, evict := false, pend := true, rtick := 0, prio := b.prio,
    age := 0, bi := min b.bi i.qi, bm := min b.bm i.qm }

/-- R414: the block is read when the bundle executes, and the entry is made at its commit. -/
def execLaunch (f : SR) (s : State) : Res :=
  .next (sOp s f.kneg f.k 0 fun s => withWin s [f.wi1, f.wi2] fun w =>
    let a := s.me.sreg f.a
    let ifc := s.me.ifc
    let stat := fun (s : State) (c : Nat) => s.landS f.d (launchFail ifc c) s.lat.sld
    slotRecord s accRec 128 a.toNat 128 0 fun s x =>
      let b := blockOf x a
      if (s.ifc ifc).frozen then stat s 4
      else if blockViol s ifc b then s.modIss fun i => { i with viol := some a }
      else if !blockOk x || b.inh then stat s 2
      else if b.prio = 7 then stat s 3
      else
        let b := { b with wstart := wMerge b.wstart w }
        if (openCores s ifc (placement b)).isEmpty then stat s 1
        else
          let e := launchEntry s b
          let s := { s with nextId := s.nextId + 1 }
          (s.landS f.d (wd (ifc * 2 ^ 58 + e.tseq)) s.lat.sld).eff (.launch e))

/-- R415: a pending witness is a condition that does not hold yet. -/
def execCwait (f : SR) (s : State) : Res :=
  .next (sOp s f.kneg f.k 0 fun s =>
    let evc := (s.ifc s.me.ifc).evc
    let w := tget {} s.me.w ((WFi f.wi1).getD 0)
    let has := f.wi1.isSome && w.pend.isNone
    let t := (s.me.sreg f.b).toNat
    if has && wPsn w.val && !wNull w.val then s.faultB .wpoison
    else if (s.me.sreg f.a).toNat < evc.toNat || (has && sat s w.val) || (t != 0 && decide (t ≤ s.tick)) then
      s.landS f.d evc s.lat.salu
    else match if has then winTimedOut s w.val else none with
      | some p => s.faultAt .wintmo s.iss.pc.toNat p
      | none => s.waitIdle)

/-- R416. -/
def execHsig (f : SR) (s : State) : Res :=
  .next (sOp s f.kneg f.k 0 fun s => withSat s [f.wi1, f.wi2] fun _ =>
    let i := s.ifc s.me.ifc
    if 64 ≤ (i.hsc - i.hrd).toNat then s.landS f.d 1 s.lat.sld
    else (s.landS f.d 0 s.lat.sld).eff (.hsig (s.me.sreg f.a) (s.me.sreg f.b)))

/-- R403, R417: GEN advances and the caches drop the range at commit; the witness follows R314. -/
def execXinv (f : SR) (s : State) : Res :=
  .next (sOp s f.kneg f.k 0 fun s => withSat s [f.wi1, f.wi2] fun w =>
    let a := (s.me.sreg f.a).toNat
    let b := (s.me.sreg f.b).toNat
    if a % 65536 ≠ 0 ∨ b % 65536 ≠ 0 ∨ 2 ^ 48 < a + b ∨ 2 ^ 48 ≤ a then s.faultB .illenc
    else
      let g := (xlatGen s s.me.ifc + 1) % 65536
      let (id, s) := s.newId
      let o : Op := { id := id, own := s.owner, win := w, wo := WFi f.wo, kind := .xinv g false }
      (s.landS f.d (wd g) s.lat.salu).eff (.xinv 0 (if b = 0 then 0 else a) (if b = 0 then 2 ^ 48 else b) o))

/-! ### cslot -/

/-- A `cslot` of an item: its range check, its old value, and its effect at commit (R418). -/
def slotItem (f : SR) (s : State) (n : Nat) (ok : Nat → Nat → Bool) (old : State → Nat → Word) : State :=
  sOp s f.kneg f.k 0 fun s =>
    let a := s.me.sreg f.a
    let b := s.me.sreg f.b
    if !ok a.toNat b.toNat then s.faultB .illenc
    else (s.landS f.d (old s a.toNat) s.lat.salu).eff (.item n a b)

/-- A `cslot` of a FOWN item (R418, R419). -/
def ownItem (f : SR) (s : State) (n : Nat) (ok : Nat → Nat → Bool) (old : State → Nat → Word) : State :=
  sOp s f.kneg f.k 0 fun s =>
    if s.fab.fown ≠ some s.me.ifc then s.modIss fun i => { i with viol := some i.pc }
    else if s.fab.drain = 0 ∨ s.fab.locked then s.faultB .illenc
    else
      let a := s.me.sreg f.a
      let b := s.me.sreg f.b
      if !ok a.toNat b.toNat then s.faultB .illenc
      else (s.landS f.d (old s a.toNat) s.lat.salu).eff (.item n a b)

/-- R397, R418 item 0. -/
def execCslotXlat (f : SR) (s : State) : Res :=
  .next (slotItem f s 0 (fun a b => a == 0 && fld b 11 10 < 2) fun s _ => (s.ifc s.me.ifc).xlat)
/-- R418 item 1. -/
def execCslotQi (f : SR) (s : State) : Res :=
  .next (slotItem f s 1 (fun a b => a == 0 && decide (fld b 31 0 ≤ (s.ifc s.me.ifc).qci)) fun s _ => wd (s.ifc s.me.ifc).qi)
/-- R418 item 2. -/
def execCslotQm (f : SR) (s : State) : Res :=
  .next (slotItem f s 2 (fun a b => a == 0 && decide (fld b 39 0 ≤ (s.ifc s.me.ifc).qcm)) fun s _ => wd (s.ifc s.me.ifc).qm)
/-- R383, R418 item 3. -/
def execCslotPolicy (f : SR) (s : State) : Res :=
  .next (slotItem f s 3 (fun a b => a == 0 && decide (b < 64)) fun s _ =>
    let i := s.ifc s.me.ifc
    wd (i.polCore + 4 * i.polCluster + 16 * i.polIfc))
/-- R391, R418 item 4. -/
def execCslotDump (f : SR) (s : State) : Res :=
  .next (slotItem f s 4 (fun a b => a % 65536 == 0 && b % 65536 == 0 && decide (65536 ≤ b)) fun s _ => (s.ifc s.me.ifc).dumpBase)
/-- R391, R418 item 5. -/
def execCslotDumpack (f : SR) (s : State) : Res :=
  .next (slotItem f s 5 (fun a b => a == 0 && decide ((s.ifc s.me.ifc).dumpA + b ≤ (s.ifc s.me.ifc).dumpW)) fun s _ =>
    let i := s.ifc s.me.ifc
    wd (if i.dumpSize = 0 then 0 else i.dumpA % i.dumpSize.toNat))
/-- R412, R418 item 6. -/
def execCslotEvents (f : SR) (s : State) : Res :=
  .next (slotItem f s 6 (fun a b => a == 0 && b % 8192 == 0) fun s _ => (s.ifc s.me.ifc).evb)

/-- The place of a Thyme entry named by s[A] (R340, R418). -/
def thymeKey (st out slot : Nat) : Nat := (st * 7 + out) * 1024 + slot

/-- The interface of a Thyme entry (R340). -/
def thymeIfc (x : BitVec 32) : Nat := fld x.toNat 30 25

/-- R340, R418 item 7. -/
def execCslotThyme (f : SR) (s : State) : Res :=
  let key := fun (a : Nat) => thymeKey (fld a 23 16) (fld a 12 10) (fld a 9 0)
  .next (sOp s f.kneg f.k 0 fun s =>
    let a := (s.me.sreg f.a).toNat
    let b := (s.me.sreg f.b).toNat
    if 2 ^ 24 ≤ a ∨ fld a 15 13 ≠ 0 ∨ fld a 12 10 = 7 ∨ 2 ^ 32 ≤ b ∨ fld b 30 25 ≠ 0 ∨ fld b 21 0 ≠ 0 ∨ fld b 24 22 = 7 then
      s.faultB .illenc
    else if thymeIfc (tget 0 s.thyme (key a)) ≠ s.me.ifc then s.modIss fun i => { i with viol := some i.pc }
    else (s.landS f.d ((tget 0 s.thyme (key a)).zeroExtend 64) s.lat.salu).eff (.item 7 (wd a) (wd b)))

/-- R283, R418 item 8. -/
def execCslotGroup (f : SR) (s : State) : Res :=
  .next (sOp s f.kneg f.k 0 fun s =>
    let a := (s.me.sreg f.a).toNat
    let b := (s.me.sreg f.b).toNat
    if 1024 ≤ a ∨ 256 < b then s.faultB .illenc
    else if !allotted s (a / 256) (a % 256) s.me.ifc then s.modIss fun i => { i with viol := some i.pc }
    else (s.landS f.d (wd (tget {} (s.die (a / 256)).grp (a % 256)).ht) s.lat.salu).eff (.item 8 (wd a) (wd b)))

/-- R351, R418 item 9. -/
def execCslotSched (f : SR) (s : State) : Res :=
  .next (ownItem f s 9
    (fun a b => decide (a < 4096) && fld a 7 5 == 0 && (fld b 39 39 == 0 || decide (5 ≤ fld b 63 48)) &&
      (fld b 47 40 == 0 || decide (6 ≤ fld b 47 40)))
    fun s a => tget 0 (s.port (a % 32)).sched (fld a 11 8))
/-- R351, R418 item 10. -/
def execCslotT0 (f : SR) (s : State) : Res :=
  .next (ownItem f s 10 (fun a _ => decide (a < 32)) fun s a => (s.port a).t0)
/-- R349, R418 item 11. -/
def execCslotRoute (f : SR) (s : State) : Res :=
  .next (ownItem f s 11 (fun a b => decide (a < 4096) && decide (b < 2 ^ 32)) fun s a => (tget 0 s.fab.route a).zeroExtend 64)
/-- R354, R418 item 12. -/
def execCslotWindow (f : SR) (s : State) : Res :=
  .next (ownItem f s 12 (fun a b => a == 0 && decide (b ≤ 4)) fun s _ => wd (Nat.log2 (s.fab.window / 4000)))
/-- R363, R418 item 13. -/
def execCslotCallmax (f : SR) (s : State) : Res :=
  .next (ownItem f s 13 (fun a b => decide (a < 32) && decide (1 ≤ b) && decide (b ≤ 64)) fun s a => wd (s.port a).callmax)

/-- The contexts that a freeze of an interface holds (R422). -/
def frozenCtxs (s : State) (ifc : Nat) : List Nat := (s.ctxs.filter fun p => p.2.st == .frozen && p.2.ifc == ifc).map (·.1)

/-- R422, R423: the thaw waits for the dumps. -/
def execCslotThaw (f : SR) (s : State) : Res :=
  .next (sOp s f.kneg f.k 0 fun s =>
    let l := frozenCtxs s s.me.ifc
    if (s.me.sreg f.a) ≠ 0 ∨ s.me.sreg f.b ≠ 0 then s.faultB .illenc
    else if l.any fun c => (s.ctx c).dying then s.waitIdle
    else (s.landS f.d (wd l.length) s.lat.salu).eff (.item 14 0 0))

/-! ### fdrain -/

/-- A drain of the fabric has begun (R365). -/
def draining (s : State) : Bool := s.fab.drain != 0

/-- R365, R420. -/
def execFdrain (f : SR) (s : State) : Res :=
  .next (sOp s f.kneg f.k 0 fun s =>
    if s.fab.fown ≠ some s.me.ifc then s.modIss fun i => { i with viol := some i.pc }
    else if draining s then (s.landS f.d 1 s.lat.salu).nullWit f.wo
    else
      let (id, s) := s.start 0 f.wo (.drain false)
      (s.landS f.d 0 s.lat.salu).eff (.fdrain false ((s.me.sreg f.a).setWidth 32) id))

/-- R365, R420. -/
def execFdrainLock (f : SR) (s : State) : Res :=
  .next (sOp s f.kneg f.k 0 fun s =>
    if s.fab.fown ≠ some s.me.ifc then s.modIss fun i => { i with viol := some i.pc }
    else if !draining s then (s.landS f.d 1 s.lat.salu).nullWit f.wo
    else
      let (id, s) := s.start 0 f.wo (.drain true)
      (s.landS f.d 0 s.lat.salu).eff (.fdrain true 0 id))

/-! ### Snapshots -/

/-- Two used regions overlap (R426): one of length 0 is unused. -/
def snapOverlap (r : Nat) : Bool :=
  let l := (List.range (fld r 151 144)).map (snapRegion r)
  (List.range l.length).any fun i => (List.range i).any fun j =>
    let x := l.getD i (0, 0)
    let y := l.getD j (0, 0)
    x.2 != 0 && y.2 != 0 && decide (x.1 < y.1 + y.2) && decide (y.1 < x.1 + x.2)

/-- A misaligned field of a snapshot record (R426, R427). -/
def snapMisaligned (r : Nat) : Bool :=
  fld r 63 0 % 65536 != 0 || fld r 127 64 % 65536 != 0 || fld r 255 192 % 128 != 0 ||
  (List.range 4).any fun i => (snapRegion r i).1 % 65536 != 0 || (snapRegion r i).2 % 65536 != 0

/-- R427. -/
def execSnapAt (f : SR) (s : State) : Res :=
  .next (sOp s f.kneg f.k 0 fun s => withSat s [f.wi1, f.wi2] fun w =>
    let a := (s.me.sreg f.a).toNat
    let n := s.me.sreg f.b
    slotRecord s accRec 128 a 128 w fun s r =>
      let i := s.ifc s.me.ifc
      if snapMisaligned r then s.faultAt .align a
      else if fld r 1023 768 ≠ 0 ∨ fld r 191 152 ≠ 0 ∨ fld r 151 144 = 0 ∨ 4 < fld r 151 144 ∨ snapOverlap r ∨ fld r 63 63 = 0 ∨
          n ≤ i.step then s.faultB .illenc
      else if i.snap.st ≠ 0 then (s.landS f.d 1 s.lat.salu).nullWit f.wo
      else
        let (id, s) := s.newId
        let o : Op := { id := id, own := s.owner, win := w, wo := WFi f.wo, kind := .snap s.me.ifc }
        (s.landS f.d 0 s.lat.salu).eff (.snapAt (BitVec.ofNat 1024 r) n o))

/-- R428. -/
def execSnapAtStep (f : SR) (s : State) : Res :=
  .next (sOp s f.kneg f.k 0 fun s => withSat s [f.wi1, f.wi2] fun w =>
    (s.landS f.d ((s.ifc s.me.ifc).step + 1) s.lat.salu).eff (.snapStep ((WFi f.wo).getD 0) w))

/-- R433. -/
def execSnapDis (f : SR) (s : State) : Res :=
  .next (sOp s f.kneg f.k 0 fun s => (s.landS f.d (wd (s.ifc s.me.ifc).snap.st) s.lat.salu).eff .snapDis)

end Sys2Proof.Machine
end

