-- ==== Sys2Proof/Machine/PortEngine.lean ====
section
/-! DEFINITION. What the port engines do: publishing at commit, notices, retention slots, pulls, tile walks, the Thyme tables and the
Chive network (R316–R343). -/
namespace Sys2Proof.Machine

/-! ### Operations begin -/

/-- An operation is in flight, and its output register is pending (R301). -/
def State.beginOp (s : State) (o : Op) : State :=
  let s := { s with ops := s.ops ++ [o] }
  match o.wo with
  | none => s
  | some r =>
    s.modCtx o.own.cid fun c =>
      let w : WReg := tget {} c.w r
      { c with w := tput c.w r { w with pend := some o.id } }

/-- A witness register written at commit (R301). -/
def State.setWit (s : State) (cid : Nat) (r : Nat) (v : Word) : State :=
  s.modCtx cid fun c => { c with w := tput c.w r { val := wNorm v, pend := none } }

/-- A witness output written at commit, if there is one. -/
def State.setWit? (s : State) (cid : Nat) (r : Option Nat) (v : Word) : State :=
  match r with
  | some r => s.setWit cid r v
  | none => s

/-- A status that a commit decides lands in an address register (R64). -/
def State.landAt (s : State) (cid : Nat) (file : Bool) (d : Nat) (v : Word) : State :=
  s.modCtx cid fun c =>
    let l : Landing := { dst := .a file d, due := c.n + (if isStream cid then 4 else c.lat.cst), val := v.zeroExtend 2048,
                         mask := (BitVec.allOnes 64).zeroExtend 2048 }
    { c with landing := c.landing ++ [l] }

/-! ### Publishing -/

/-- A remote notice as the fabric carries it (R317, R367). -/
def noticeReq (s : State) (n : Notice) : FabReq :=
  { src := s.fab.part, off := n.addr.toNat, len := n.size, op := n.pcore * 64 + n.slot, ty := n.gen, seq := n.idx,
    tag := n.tag.toNat, wit := n.win, cmp := wd (n.cons * 2 ^ 32 + n.ctseq), v := wd (n.prio + n.cifc * 8) }

/-- The notice that a message of another part carries, under the interface here that holds its tag of ownership (R317, R367). -/
def noticeOf (r : FabReq) (from' : Nat) : Notice :=
  { cons := r.cmp.toNat / 2 ^ 32, ctseq := r.cmp.toNat % 2 ^ 30, cifc := fld r.v.toNat 8 3, idx := r.seq % 8,
    tag := BitVec.ofNat 32 r.tag, size := r.len, prio := r.v.toNat % 8, addr := wd r.off, pcore := r.op / 64 % 1024, puid := 0, pcid := 0,
    slot := r.op % 64, gen := r.ty % 256, win := r.wit, rem := true, inc := true, part := from', port := r.port % 32 }

/-- The Chive destination of a notice: the consumer's station, or that of the optical port engine that the route selects (R16, R326,
R367). -/
def noticeDst (n : Notice) : Nat := if n.rem && !n.inc then portStation n.port else cidStation n.cons

/-- Where a notice starts: its producer's station, or that of the optical port engine that received it (R16, R367). -/
def noticeSrc (n : Notice) : Nat := if n.inc then portStation n.port else cidStation n.pcid

/-- The notice for consumer entry i (R317, R319). -/
def noticeFor (s : State) (cid r : Nat) (addr : Word) (slot : Nat) (gen : Nat) (tag : BitVec 32) (win : Word) (i : Nat) : Notice :=
  let e := consEntry r i
  { cons := fld e 57 48 * 8 + fld e 47 45, ctseq := fld e 29 0, cifc := fld e 63 58, idx := i, tag := tag, size := noticeSize r,
    prio := fld r 546 544, addr := addr, pcore := coreOf cid, puid := (s.ctx cid).uid, pcid := cid, slot := slot, gen := gen,
    win := win, rem := fld e 44 44 == 1, part := fld e 43 32, port := ((pathTo s (fld e 43 32) slot).getD (0, 0)).1 }

/-- A notice leaves its producer (R319). -/
def sendNotice (o : Owner) (s : State) (n : Notice) : State :=
  let (id, s) := s.newId
  let op : Op := { id := id, own := o, win := n.win, kind := .notice n }
  sendChive { s with ops := s.ops ++ [op] } id (noticeSrc n) (noticeDst n)

/-- `pub` at its commit (R319): the slot is taken and the notices are sent. A slot that the other `pub` of its bundle has just taken is
released first (log entry 36). -/
def applyPub (s : State) (cid : Nat) (rcd : BitVec 1024) (addr : Word) (slot : Nat) (tag : BitVec 32) (win : Word)
    (r : Option Nat) : State :=
  let core := coreOf cid
  let c := s.ctx cid
  let own : Owner := { cid := cid, uid := c.uid, ifc := c.ifc, tseq := c.tseq }
  let x := rcd.toNat
  let used := consUsed x
  let s := if (tget {} (s.core core).ret slot).holder.isSome then releaseSlot s core slot else s
  let old := tget {} (s.core core).ret slot
  let lp := pagesOf addr.toNat (noticeSize x)
  let (id, s) := s.newId
  let rs : RetSlot :=
    { holder := some own, gen := old.gen + 1, count := used.length,
      out := BitVec.ofNat 8 (used.foldl (fun z i => z + 2 ^ i) 0), pages := lp,
      phys := lp.map fun j => (c.pages.getD j ⟨0, .zero⟩).phys, deadline := s.tick + old.tmo * 4000, tmo := old.tmo, addr := addr,
      wit := r.map fun _ => id }
  let s := s.modCore core fun k => { k with ret := tput k.ret slot rs }
  let s := if r.isSome then s.beginOp { id := id, own := own, win := win, wo := r, kind := .retention core slot } else s
  used.foldl (fun s i => sendNotice own s (noticeFor s cid x addr slot rs.gen.toNat tag win i)) s

/-! ### Retention slots -/

/-- A slot as the executing task finds it: 0 its own, 1 free, 2 another task's (R325). -/
def slotState (s : State) (cid slot : Nat) : Nat :=
  match (tget {} (s.core (coreOf cid)).ret slot).holder with
  | none => 1
  | some o => if sameTask cid (s.ctx cid) o then 0 else 2

/-- `rtset` at its commit (R325). -/
def applyRtset (s : State) (cid d : Nat) (file : Bool) (slot v : Nat) : State :=
  let k := slotState s cid slot
  let f := fun (r : RetSlot) =>
    if k = 0 then { r with tmo := v, deadline := s.tick + v * 4000, raised := false } else if k = 1 then { r with tmo := v } else r
  (s.modCore (coreOf cid) fun c => { c with ret := tput c.ret slot (f (tget {} c.ret slot)) }).landAt cid file d (wd k)

/-- `rtrel` at its commit (R325). -/
def applyRtrel (s : State) (cid d : Nat) (file : Bool) (slot : Nat) : State :=
  let k := slotState s cid slot
  (if k = 0 then releaseSlot s (coreOf cid) slot else s).landAt cid file d (wd k)

/-- A consumer's answer at the producer core (R322). -/
def answerAt (s : State) (core slot gen idx : Nat) : State :=
  let r := tget {} (s.core core).ret slot
  if r.holder.isSome && r.gen.toNat == gen && r.out.getLsbD idx then
    let r' := { r with out := r.out &&& ~~~(1#8 <<< idx), count := r.count - 1 }
    let s := s.modCore core fun c => { c with ret := tput c.ret slot r' }
    if r'.count = 0 then releaseSlot s core slot else s
  else s

/-- The notice that an answer from another part ends is no longer kept (R366, R367). -/
def forgetNotice (s : State) (core slot gen idx : Nat) : State :=
  (s.ops.filter fun o => match o.kind with
    | .notice n => n.rem && !n.inc && n.st == 3 && n.pcore == core && n.slot == slot && n.gen == gen && n.idx == idx
    | _ => false).foldl (init := s) fun s o => match o.kind with
      | .notice n => leaveTable (s.dropOp o.id) o.id n
      | _ => s

/-- R322: an answer that its message has brought; operation 0 is an answer from another part. -/
def execRetentionAnswer (s : State) : Res :=
  .next (if s.arg.a = 0 then
      let s := forgetNotice s (s.arg.b % 1024) (s.arg.c % 64) (s.arg.d / 8) (s.arg.d % 8)
      answerAt s (s.arg.b % 1024) (s.arg.c % 64) (s.arg.d / 8) (s.arg.d % 8)
    else match s.op? s.arg.a with
    | some o => match o.kind with
      | .answer core slot gen idx => if delivered s o.id then answerAt (s.dropOp o.id) core slot gen idx else s
      | _ => s
    | none => s)

/-- The holder of a slot stands in a context of the core and can trap (R323). -/
def holderResident (s : State) (core : Nat) (o : Owner) : Bool :=
  match s.residence o with
  | some cid => coreOf cid == core
  | none => false

/-- R323. -/
def execRetentionTimeout (s : State) : Res :=
  .next (
    let core := s.arg.a
    let slot := s.arg.b
    let r := tget {} (s.core core).ret slot
    match r.holder with
    | none => s
    | some o =>
      let f : Flt := { cls := 3, code := Code.rettmo.num, addr := r.addr, cause := slot + 256 * r.out.toNat }
      if s.tick < r.deadline then s
      else if holderResident s core o then
        if r.raised then s
        else
          let s := s.modCore core fun c => { c with ret := tput c.ret slot { r with raised := true } }
          asyncFault (dillAdd s 15 core) o f
      else if s.holds? o && (s.ctx o.cid).dying then s
      else
        let s := if r.raised then s else dillAdd s 15 core
        postEvent (releaseSlot s core slot) o.ifc 3 o.tseq f.cause f.code f.addr)

/-! ### Notices -/

/-- The pending notices of a station's table (R326). -/
def tableOf (s : State) (st : Nat) : List (Op × Notice) :=
  s.ops.filterMap fun o => match o.kind with
    | .notice n => if n.st == 2 && cidStation n.cons == st then some (o, n) else none
    | _ => none

/-- The lowest free index of a station's notice table, if any (R316). -/
def freeIdx (s : State) (st : Nat) : Option Nat :=
  let t := (tableOf s st).map fun p => p.2.tidx
  (List.range 256).find? fun i => !t.contains i

/-- The consumer's context holds the task that a notice names (R326). -/
def consumerThere (s : State) (n : Notice) : Bool :=
  let c := s.ctx n.cons
  decide (n.cons < 8192) && c.st != .free && c.st != .evicted && c.st != .frozen && c.ifc == n.cifc && c.tseq % 2 ^ 30 == n.ctseq

/-- The pages that a block needs (R326, R327). -/
def blockPages (n : Notice) : Nat := (n.size + 65535) / 65536

/-- A notice to another part has reached its optical port engine: its table of 1,024 entries takes it, or it stays at its sender
(R367). -/
def holdRemote (s : State) (o : Op) (n : Notice) : State :=
  let p := n.port
  let l := (s.port p).notices
  if l.contains o.id then s
  else if 1024 ≤ l.length then s.setOp o.id (.notice { n with st := 1 })
  else s.modPort p fun x => { x with notices := x.notices ++ [o.id] }

/-- A notice has entered its consumer's table (R326, R367): one of another part leaves its port's table, and its sender is told. -/
def accepted (s : State) (id : Nat) (n : Notice) : State :=
  if n.inc then
    fabQueue (leaveTable s id n) { id := 0, op := 0, piece := 1, kind := 7, port := 0, link := 0, part := n.part,
                                   req := { src := s.fab.part, seq := n.idx, op := n.pcore * 64 + n.slot, ty := n.gen } } n.slot
  else s

/-- R326: a delivered notice is checked at the consumer's table. -/
def execNoticeArrival (s : State) : Res :=
  .next (match s.op? s.arg.a with
    | none => s
    | some o => match o.kind with
      | .notice n =>
        if n.st ≠ 0 ∨ !delivered s o.id then s
        else if n.rem ∧ !n.inc then holdRemote s o n
        else if !consumerThere s n then decline s o n
        else
          let c := s.ctx n.cons
          if c.standing.contains n.tag.toNat then
            decline (s.modCtx n.cons fun c => { c with standing := c.standing.erase n.tag.toNat }) o n
          else if c.pages.length < blockPages n then decline s o n
          else match freeIdx s (cidStation n.cons) with
            | none => s.setOp o.id (.notice { n with st := 1 })
            | some i => accepted (s.setOp o.id (.notice { n with st := 2, atick := s.tick, tidx := i })) o.id n
      | _ => s)

/-- R326: a refused notice is sent again once the table has space. -/
def execNoticeResend (s : State) : Res :=
  .next (match s.op? s.arg.a with
    | none => s
    | some o => match o.kind with
      | .notice n =>
        let space := if n.rem && !n.inc then decide ((s.port n.port).notices.length < 1024)
          else (freeIdx s (cidStation n.cons)).isSome
        if n.st = 1 ∧ space then
          sendChive (s.setOp o.id (.notice { n with st := 0 })) o.id (noticeSrc n) (noticeDst n)
        else s
      | _ => s)

/-- `decl` at its commit (R331): the oldest pending notice with the tag, or a standing decline. -/
def applyDecl (s : State) (cid d : Nat) (file : Bool) (tag : BitVec 32) : State :=
  let l := (pendingOf s cid).filter fun p => p.2.tag == tag
  let old := l.foldl (fun (r : Option (Op × Notice)) p => match r with
    | some q => if p.2.atick < q.2.atick ∨ (p.2.atick = q.2.atick ∧ p.2.tidx < q.2.tidx) then some p else some q
    | none => some p) none
  match old with
  | some p => (decline s p.1 p.2).landAt cid file d 0
  | none =>
    if (s.ctx cid).standing.length < 4 then
      (s.modCtx cid fun c => { c with standing := c.standing ++ [tag.toNat] }).landAt cid file d 1
    else s.landAt cid file d 2

/-- R332: a notice pending for longer than DL. -/
def execAutoDecline (s : State) : Res :=
  .next (match s.op? s.arg.b with
    | none => s
    | some o => match o.kind with
      | .notice n =>
        let dl := (s.ctx n.cons).dl
        if n.st = 2 ∧ cidStation n.cons = s.arg.a ∧ dl ≠ 0 ∧ dl * 4000 < s.tick - n.atick then decline s o n else s
      | _ => s)

/-! ### Sage -/

/-- The lowest run of `n` set bits of a landing mask (R327). -/
def lowestRun (lm : BitVec 32) (n : Nat) : Option Nat :=
  (List.range 32).find? fun i => decide (i + n ≤ 32) && (List.range n).all fun j => lm.getLsbD (i + j)

/-- The mask of a run of pages. -/
def runMask (run n : Nat) : BitVec 32 := BitVec.ofNat 32 ((2 ^ n - 1) * 2 ^ run)

/-- Whether a notice fits now (R327). -/
def fitsNow (s : State) (n : Notice) : Bool :=
  let c := s.ctx n.cons
  decide ((pullsOf s n.cons).length < c.mo) && decide (n.size / 64 ≤ c.bm) && (lowestRun c.lm (blockPages n)).isSome

/-- The valid Thyme slots of an interface on the output that feeds a cluster (R333). -/
def clusterSlots (s : State) (st ifc : Nat) : Nat :=
  (s.thyme.filter fun (p : Nat × BitVec 32) =>
    p.1 / 1024 == st * 7 + 4 && fld p.2.toNat 31 31 == 1 && thymeIfc p.2 == ifc).length

/-- The bytes that pulls of an interface may ask for in a revolution: through the mesh, or through the optical port of a remote
producer (R333, R353). -/
def pullLimit (s : State) (n : Notice) : Nat :=
  let p := 256 - paceOf (s.stn (cidStation n.cons)) n.cifc
  if n.inc then 254912 * (s.ifc n.cifc).sh / 64 * p / 256 else clusterSlots s (cidStation n.cons) n.cifc * p

/-- The global line at which a pull from another part reads next (R329, R347). -/
def pullLine (n : Notice) (pos : Nat) : Nat := (2 ^ 63 + n.part * 2 ^ 51 + n.addr.toNat + pos) / 256

/-- The optical port that the next request of a pull from another part goes through (R349, R353). -/
def pullPort (s : State) (n : Notice) (pos : Nat) : Nat := ((pathTo s n.part (pullLine n pos)).getD (32, 0)).1

/-- The bytes asked for in this revolution. -/
def pullUsed (s : State) (n : Notice) (pos : Nat) : Nat :=
  if n.inc then tget 0 (s.port (pullPort s n pos)).credit n.cifc else tget 0 (s.stn (cidStation n.cons)).credit n.cifc

/-- The next request of a pull: at most 8 KiB, and at most what a revolution admits (R329, R333). -/
def nextRequest (s : State) (n : Notice) (pos : Nat) : Nat := min (min 8192 (n.size - pos)) (pullLimit s n / 64 * 64)

/-- On a circuit port Sage asks in the producer's lit slots only (R353). -/
def producerLit (s : State) (n : Notice) (pos : Nat) : Bool :=
  let x := s.port (pullPort s n pos)
  !n.inc || !x.circuit ||
    match slotAtTick x s.tick with
    | some (_, e, dark) => !dark && peerOf e == n.part
    | none => false

/-- Whether the ingress is open for a request (R333, R353). -/
def ingressOpen (s : State) (n : Notice) (pos : Nat) : Bool :=
  let k := nextRequest s n pos
  decide (0 < k) && decide (pullUsed s n pos + k ≤ pullLimit s n) && producerLit s n pos

/-- The credit that a request takes (R333, R353). -/
def takeCredit (s : State) (n : Notice) (pos k : Nat) : State :=
  let u := pullUsed s n pos + k
  if n.inc then s.modPort (pullPort s n pos) fun p => { p with credit := tput p.credit n.cifc u }
  else s.modStn (cidStation n.cons) fun t => { t with credit := tput t.credit n.cifc u }

/-- The class of a notice (R332, R334). -/
def classOf (s : State) (n : Notice) : Nat :=
  let m := cmapOf (s.stn (cidStation n.cons)) n.cifc
  fld m (2 * n.prio + 1) (2 * n.prio)

/-- Sage's order of two notices that both fit and are open (R332). -/
def ranksBefore (s : State) (x y : Notice) : Bool :=
  let a := classOf s x
  let b := classOf s y
  decide (b < a) || (a == b && (decide (x.atick < y.atick) || (x.atick == y.atick && decide (x.tidx < y.tidx))))

/-- The notice that Sage starts, if any (R332). -/
def sagePick (s : State) (st : Nat) : Option (Op × Notice) :=
  ((tableOf s st).filter fun p => fitsNow s p.2 && ingressOpen s p.2 0).foldl (fun r p => match r with
    | some q => if ranksBefore s p.2 q.2 then some p else some q
    | none => some p) none

/-- The mailbox entry (R328). -/
def mailboxEntry (n : Notice) (run : Nat) : List Byte :=
  let w1 := run + (if n.inc then n.part * 2 ^ 24 + 2 ^ 36 else 0) + n.prio * 2 ^ 37 + n.gen * 2 ^ 40 + n.slot * 2 ^ 48 + n.pcore * 2 ^ 54
  wordBytes [wd (n.size + n.tag.toNat * 2 ^ 32), wd w1, wd n.atick, 0]

/-- R328, R329, R332: the pull of the notice that Sage picks begins. -/
def execPullStart (s : State) : Res :=
  .next (match sagePick s s.arg.a with
    | none => s
    | some (o, n) =>
      let c := s.ctx n.cons
      let k := blockPages n
      match lowestRun c.lm k with
      | none => s
      | some run =>
        let at' := c.mb.toNat + 32 * (c.pn.toNat % 64)
        let fp := if c.mb = 0 then [] else fillPages c at' 32
        if !fp.isEmpty then askRefill s n.cons fp
        else if c.mb ≠ 0 ∧ !(heldPages s n.cons at' 32).isEmpty then s
        else
          let s := s.modCtx n.cons fun c => { c with lm := c.lm &&& ~~~runMask run k, pn := c.pn + 1, bm := c.bm - n.size / 64 }
          let s := if c.mb = 0 then s else
            match resolve s (s.who n.cons) { wr := true, dev := false } false at' 32 with
            | .ok segs => writeSegs s segs (mailboxEntry n run)
            | .error _ => s
          let p : PullOp := { no := n, run := run, mb := c.pn.toNat % 64 }
          let op : Op := { id := o.id, own := { cid := n.cons, uid := c.uid, ifc := c.ifc, tseq := c.tseq }, win := n.win,
                           pages := c.pages.map (·.phys), tick := s.tick, kind := .pull p }
          { s with ops := s.ops.map fun x => if x.id == o.id then op else x })

/-- Where a range of a block lies at its producer, as far as it translates, and the fault of its translation (R318, R329). -/
def blockSegs (s : State) (core ifc : Nat) (pages : List (Nat × Nat)) (va len : Nat) : List Seg × Option (Code × Nat) :=
  if kindOf va = 2 then (spSegs (stationOf core) ((List.range 32).map fun j => tget 0 pages j) false 3 (va - localBase) len, none)
  else reach s (portWho core ifc) { loc := false } false va len

/-- Whether a read of a block is refused as stale (R330). -/
def staleRead (s : State) (core slot gen : Nat) : Bool :=
  let r := tget {} (s.core core).ret slot
  r.holder.isNone || r.gen.toNat != gen

/-- The destination of a range of a pull: its physical runs (R329). -/
def pullDst (o : Op) (p : PullOp) (pos len : Nat) : List Seg :=
  spSegs (cidStation o.own.cid) o.pages false 3 (p.run * 65536 + pos) len

/-- Bytes delivered to a pull, with zeros to the end of the run after the last (R329). -/
def pullDeliver (s : State) (o : Op) (p : PullOp) (bs : List Byte) : State :=
  let s := writeSegs s (pullDst o p p.pos bs.length) bs
  let pos := p.pos + bs.length
  let rest := blockPages p.no * 65536 - pos
  let s := if p.no.size ≤ pos ∧ rest ≠ 0 then writeSegs s (pullDst o p pos rest) (List.replicate rest 0) else s
  s.setOp o.id (.pull { p with pos := pos, last := s.tick, asked := false, got := none })

/-- A pull stops (R330). -/
def pullStop (s : State) (o : Op) (p : PullOp) (code : Nat) : State :=
  s.setOp o.id (.pull { p with stop := some code, last := s.tick, asked := false, got := none })

/-- What a request of a pull brings (R329, R330): the bytes before the first that failed, then the stop. -/
def pullTake (s : State) (o : Op) (p : PullOp) (bs : List Byte) (stop : Option Nat) : State :=
  let s := if bs.isEmpty then s else pullDeliver s o p bs
  match stop, s.op? o.id with
  | some c, some o => match o.kind with
    | .pull p => pullStop s o p c
    | _ => s
  | _, _ => s

/-- Where a range of the block in a retention slot lies, as far as it translates, and the fault of its translation. -/
def blockAt (s : State) (core ifc slot va len : Nat) : List Seg × Option (Code × Nat) :=
  let r := tget {} (s.core core).ret slot
  blockSegs s core ifc (r.pages.zip r.phys) va len

/-- Where a range of the block in a retention slot lies, as far as it translates. -/
def blockSpan (s : State) (core ifc slot va len : Nat) : List Seg := (blockAt s core ifc slot va len).1

/-- What a read of a block at its producer gives: the state, the bytes before the first that cannot be read, and the code of a stop. -/
def blockRead (s : State) (core ifc slot gen : Nat) (va len : Nat) (win : Word) : State × List Byte × Option Code :=
  if staleRead s core slot gen then (s, [], some .nstale)
  else
    let w := portWho core ifc
    let at' := blockAt s core ifc slot va len
    let s := match at'.2 with
      | none => touchXlat s w va len
      | some (_, a) => noteWalk (touchXlat s w va (a - va)) w a
    match readUpTo s false win at'.1 with
    | (s, bs, none) => (s, bs, at'.2.map (·.1))
    | r => r

/-- A read of a block must wait at its producer: for a refill, for a fill that its witness covers, or for a way of L2 (R246, R274,
R298). -/
def blockWaits (s : State) (core slot gen : Nat) (win : Word) (segs : List Seg) : Bool :=
  !staleRead s core slot gen && ((fillGate s (physPages segs)).isSome || fillsBefore s win segs || l2Waits s segs)

/-- What a read of a block that waits asks for. -/
def blockAsks (s : State) (segs : List Seg) : State := (fillGate s (physPages segs)).getD s

/-- Where the next bytes of a pull land: those that its last request has read, or those that its next one asks for (R246, R321). -/
def pullNext (s : State) (o : Op) (p : PullOp) : List Seg :=
  pullDst o p p.pos (match p.got with | some (_, bs, _) => bs.length | none => nextRequest s p.no p.pos)

/-- The next request of a pull goes to its producer (R329, R330, R333): a read at a slot of this part, which reaches the consumer in a later
cycle (R322), or a request to another part. -/
def pullAsk (s : State) (o : Op) (p : PullOp) : State :=
  let n := p.no
  let k := nextRequest s n p.pos
  let va := n.addr.toNat + p.pos
  let st := cidStation o.own.cid
  if !ingressOpen s n p.pos then s
  else if n.inc then
    if !pathOpen s n.cifc (portStation (pullPort s n p.pos), 5) (st, 4) then s
    else
      fabRequest ((takeCredit s n p.pos k).setOp o.id (.pull { p with asked := true })) o.id (p.pos / 8192) n.part
        { kind := .pull, tag := tagOf s n.cifc, off := va, len := k, op := n.pcore * 64 + n.slot, ty := n.gen, wit := n.win }
        (pullLine n p.pos)
  else
    let src := blockSpan s n.pcore n.cifc n.slot va k
    if !crossesTo s n.cifc src (.sp (st * 2 ^ 21)) then s
    else if blockWaits s n.pcore n.slot n.gen n.win src then blockAsks s src
    else
      let (s, bs, c) := blockRead (takeCredit s n p.pos k) n.pcore n.cifc n.slot n.gen va k n.win
      s.setOp o.id (.pull { p with got := some (s.tick, bs, c.map (·.num)) })

/-- R321, R322, R329, R330: a pull's next request is read at its producer, or what the last one has read is written. -/
def execPullRead (s : State) : Res :=
  .next (match s.op? s.arg.a with
    | none => s
    | some o => match o.kind with
      | .pull p =>
        let dst := pullNext s o p
        if p.stop.isSome ∨ p.asked ∨ p.no.size ≤ p.pos ∨ !satHome s o.win ∨ heldSegs s o dst then s
        else if let some s := fillGate s (physPages dst) then s
        else match p.got with
          | some (t, bs, c) => if s.inCycle t then s else pullTake s o p bs c
          | none => pullAsk s o p
      | _ => s)

/-- A record of an operation that ends: KIND 0–6, with STAT from its stop code (R259, R330). -/
def statOf (stop : Option Nat) : Nat :=
  match stop with
  | none => 0
  | some c => if c = Code.nstale.num then 3 else if c = Code.peergone.num then 4 else 1

/-- R322, R329: the pull answers its producer, writes its record and ends. -/
def execPullComplete (s : State) : Res :=
  .next (match s.op? s.arg.a with
    | none => s
    | some o => match o.kind with
      | .pull p =>
        if p.stop.isSome ∨ p.no.size ≤ p.pos then
          let cid := o.own.cid
          let w := wMerge (mkWit 1 p.stop.isSome false p.last) o.win
          let s := joinViews (sendAnswer (s.dropOp o.id) p.no (cidStation cid)) (wTick w)
          let s := ringRecord s (coreOf cid) 5 0 (ctxNo cid) p.pos (statOf p.stop) (p.stop.getD 0) p.mb w
          sweepPages s (cidStation cid)
        else s
      | _ => s)

/-! ### Tile walks -/

/-- `walk` at its commit (R336): an engine, a generation and the handle. -/
def applyWalk (s : State) (cid : Nat) (desc : BitVec 1024) (tgts : List (Nat × Owner)) (file : Bool) (d : Nat) (o : Op) : State :=
  let st := cidStation cid
  let e := ((freeEngines s st).head?).getD 0
  let g := (tget 0 (s.stn st).wgen e + 1) % 256
  let w : Walk := { op := o.id, own := o.own, desc := desc, tgts := tgts, grants := tgts.map fun _ => 0 }
  let s := s.modStn st fun t => { t with walks := tput t.walks e (some w), wgen := tput t.wgen e g }
  (s.beginOp { o with kind := .walkWit st e 4 (walkTiles desc.toNat) }).landAt cid file d (wd (e + 256 * g))

/-- The target number of a context in a walk, as its place in the list. -/
def tgtPlace (w : Walk) (cid uid : Nat) : Option Nat := w.tgts.findIdx? fun t => t.2.cid == cid && t.2.uid == uid

/-- `permit` at its commit (R338). -/
def applyPermit (s : State) (cid : Nat) (h b win : Word) (r : Option Nat) : State :=
  let st := cidStation cid
  let c := s.ctx cid
  let e := fld h.toNat 1 0
  let bad := fun (scope : Nat) => s.setWit? cid r (wMerge (poisoned s scope) win)
  match tget none (s.stn st).walks e with
  | none => bad 1
  | some w =>
    if wd (e + 256 * tget 0 (s.stn st).wgen e) ≠ h then bad 1
    else match tgtPlace w cid c.uid with
      | none => bad (walkScope w)
      | some i =>
        let n := fld b.toNat 15 0
        let g := w.grants.getD i 0
        let perm := if n = 0 then w.perm else w.perm ++ [(i, g, g + n - 1, win)]
        let w := { w with grants := w.grants.set i (g + n), perm := perm }
        let s := s.modStn st fun t => { t with walks := tput t.walks e (some w) }
        let u := fld b.toNat 47 16
        match r with
        | none => s
        | some r =>
          if fld b.toNat 63 63 = 0 then s.setWit cid r 0
          else if g + n ≤ u ∨ walkTiles w.desc.toNat ≤ u then s.setWit cid r (wMerge (poisoned s (walkScope w)) win)
          else match w.wits.find? fun x => x.1 == i && x.2.1 == u with
            | some x => s.setWit cid r x.2.2
            | none =>
              let (id, s) := s.newId
              s.beginOp { id := id, own := { cid := cid, uid := c.uid, ifc := c.ifc, tseq := c.tseq }, wo := some r, kind := .walkWit st e i u }

/-- The permits that granted tile t. -/
def permitsOf (w : Walk) (t : Nat) : List Word :=
  (w.perm.filter fun p => decide (p.2.1 ≤ t) && decide (t ≤ p.2.2.1)).map fun p => p.2.2.2

/-- The accesses of a walk: those of the port engine, whose translations are the station's (R402). -/
def walkWho (o : Op) : Who := { o.who with eng := true }

/-- The memory rows of a tile, located, or the address of the first byte that cannot be reached (R335, R337). -/
def tileMem (s : State) (o : Op) (d t : Nat) (wr : Bool) : Except Nat (List Seg) :=
  (List.range (walkRows d)).foldl (init := .ok []) fun r i =>
    match r with
    | .error a => .error a
    | .ok l =>
      let a := walkMem d t i
      if kindOf a ≠ 0 then .error a
      else match resolve s (walkWho o) { wr := wr, loc := false } false a (walkLen d * 64) with
        | .ok x => .ok (l ++ x)
        | .error (_, a) => .error a

/-- The caches after the translations of a tile's rows were used (R402). -/
def touchRows (s : State) (o : Op) (d t : Nat) : State :=
  (List.range (walkRows d)).foldl (fun s i => touchXlat s (walkWho o) (walkMem d t i) (walkLen d * 64)) s

/-- The buffer of a tile in a target's pages: its ranges by row (R335). -/
def tileBuf (d t : Nat) : List (Nat × Nat) :=
  (List.range (walkRows d)).map fun r => (walkBuf d (t % walkBufs d) r, walkLen d * 64)

/-- The located bytes of a buffer in a target's pages, in the walk's view (R250, R335). -/
def bufSegs (s : State) (d t cid : Nat) : List Seg :=
  (tileBuf d t).flatMap fun r =>
    match resolve s (s.who cid) { dev := false } (fld d 441 441 == 1) r.1 r.2 with
    | .ok l => l
    | .error _ => []

/-- The logical pages of a buffer. -/
def bufPages (d t : Nat) : List Nat := (tileBuf d t).flatMap fun r => pagesOf r.1 r.2

/-- A tile has moved (R337): its witness reaches the permits that asked for it, and the last one ends the walk. -/
def tileMoved (s : State) (st e : Nat) (w : Walk) (o : Op) (v : Word) : State :=
  let t := w.tile
  let s := joinViews s (wTick v)
  let acc := wMerge w.acc v
  let w' := { w with tile := t + 1, acc := acc, wits := w.wits ++ w.tgts.zipIdx.map fun p => (p.2, t, v) }
  let s := (s.ops.filter fun x => match x.kind with | .walkWit a b i u => a == st && b == e && i != 4 && u == t | _ => false).foldl
    (fun s x => s.finish x v) s
  if w'.tile = walkTiles w.desc.toNat then
    (s.modStn st fun x => { x with walks := tput x.walks e none }).finish o acc
  else s.modStn st fun x => { x with walks := tput x.walks e (some w') }

/-- R337: the next tile of a walk moves once it is granted, its inputs are satisfied, and the budget, the pages and the mesh
admit it. -/
def execWalkTileMove (s : State) : Res :=
  let st := s.arg.a
  let e := s.arg.b
  .next (match tget none (s.stn st).walks e with
    | none => s
    | some w => match s.op? w.op with
      | none => s
      | some o =>
        let d := w.desc.toNat
        let t := w.tile
        let store := fld d 440 440 == 1
        let wins := permitsOf w t
        let win := wins.foldl wMerge o.win
        let n := walkRows d * walkLen d
        let live := s.holds? o.own
        let buf := w.tgts.flatMap fun p => bufSegs s d t p.2.cid
        let held := !store && w.tgts.any fun p => (tileBuf d t).any fun r => !(heldPages s p.2.cid r.1 r.2).isEmpty
        if !(w.grants.all (t < ·)) ∨ !satHome s o.win ∨ !wins.all (satHome s) ∨ (live ∧ (s.ctx o.own.cid).bm < n) ∨ held then s
        else if let some s := fillGate s (physPages buf) then s
        else match tileMem s o d t store with
          | .error a => abortWalk (noteWalk s (walkWho o) a) st e
          | .ok mem =>
            let sp : Loc := .sp (st * 2 ^ 21)
            if (store && (mem.any (fun g => marked s g.loc g.len) || fillsBefore s win buf)) || l2Waits s mem then s
            else if !(if store then crossesBack s o.own.ifc sp mem else crossesTo s o.own.ifc mem sp) then s
            else
              let src := if store then bufSegs s d t ((w.tgts.head?.map (·.2.cid)).getD 0) else mem
              match badSeg s 0 src with
              | some (_, off) => abortWalk (markPoison s (segAt src off)) st e
              | none =>
                let (s, bs) := readIn (touchRows s o d t) (store && fld d 441 441 == 1) win src
                let s := if store then writeSegs s mem bs
                  else w.tgts.foldl (fun s p => writeSegs s (bufSegs s d t p.2.cid) bs) s
                let s := if live then s.modCtx o.own.cid fun c => { c with bm := c.bm - n } else s
                tileMoved s st e w o (wMerge (mkWit (if store then 2 else 1) false false s.tick) win))

/-! ### The mesh and the Chive network -/

/-- R333, R340, R419: a die's revolution starts. -/
def execThymeRevolution (s : State) : Res :=
  let d := s.arg.a
  let k := s.cycle / 1024
  .next (if 4 ≤ d ∨ k ≤ tget 0 s.thymeAt d then s
    else
      let mine := fun (key : Nat) => key / 7168 / 64 == d
      let now := s.thymeStaged.filter fun (p : Nat × BitVec 32) => mine p.1
      let s := { s with thymeAt := tput s.thymeAt d k, thymeStaged := s.thymeStaged.filter fun (p : Nat × BitVec 32) => !mine p.1 }
      let put := fun (t : Tbl (BitVec 32)) (p : Nat × BitVec 32) =>
        let ifc := (tget 0 t p.1) &&& BitVec.ofNat 32 (63 * 2 ^ 25)
        tput t p.1 ((p.2 &&& BitVec.ofNat 32 (2 ^ 31 + 7 * 2 ^ 22)) ||| ifc)
      let s := { s with thyme := now.foldl put s.thyme }
      let s := { s with stations := s.stations.map fun (p : Nat × Station) => if p.1 / 64 = d then (p.1, { p.2 with credit := [] }) else p }
      if d = 0 then s.modFab fun f => { f with ports := f.ports.map fun (p : Nat × FPort) => (p.1, { p.2 with credit := [] }) } else s)

/-- The replays of a link within the last millisecond, with one at this tick (R342, R346). -/
def recentReplays (l : List Nat) (now : Nat) : List Nat := (l.filter fun t => decide (now < t + 4000000)) ++ [now]

/-- R342: a replay on a link of a router, and half width after the eighth within 1 ms. -/
def execMeshCrcReplay (s : State) : Res :=
  let st := s.arg.a
  let out := s.arg.b
  .next (if 256 ≤ st ∨ 7 ≤ out then s
    else
      let t := s.stn st
      let l := recentReplays (tget [] t.replays out) s.tick
      let s := (dillAdd s 10 (st * 7 + out)).modStn st fun t => { t with replays := tput t.replays out l }
      if 8 ≤ l.length ∧ !t.half.contains out then (dillAdd s 11 (st * 7 + out)).modStn st fun t => { t with half := t.half ++ [out] } else s)

/-- R343: a message reaches its destination; with `flag` its acknowledgement is lost. -/
def execChiveMessageArrival (s : State) : Res :=
  .next (
    let keep := fun (m : Chive) => if m.id == s.arg.a then { m with arrived := true } else m
    if s.arg.flag then { s with chive := s.chive.map keep } else { s with chive := s.chive.filter fun m => m.id != s.arg.a })

/-- An atomic that is lost on its way writes nothing: 0 lands, its witness is poisoned (R279, R343). -/
def atomicLost (s : State) (o : Op) (x : AtomicOp) : State :=
  let w := wMerge (poisoned s (scopeOf x.loc)) o.win
  ((s.landLate o.own o.id 0).account o.own false w).finish o w

/-- The operation of a lost message ends (R343). -/
def chiveLost (s : State) (op : Nat) : State :=
  match s.op? op with
  | none => s
  | some o => match o.kind with
    | .notice n =>
      let s := leaveTable (s.dropOp o.id) o.id n
      if n.inc then sendAnswer s n (noticeSrc n) else answerAt s n.pcore n.slot n.gen n.idx
    | .atomic x => atomicLost s o x
    | .join .. => (s.landLate o.own o.id 2).dropOp o.id
    | .barv _ _ _ _ w => s.finish o (wMerge (poisoned s 2) w)
    | _ => s.finish o (stopWit s o)

/-- R343: a message without an acknowledgement is sent again after 2 µs, eight times. -/
def execChiveResendTimeout (s : State) : Res :=
  .next (match s.chive.find? (·.id == s.arg.a) with
    | none => s
    | some m =>
      if s.now < m.sent + 8000 then s
      else if m.resends < 8 then
        let again := fun (x : Chive) => if x.id == m.id then { x with sent := s.now, resends := x.resends + 1 } else x
        { s with chive := s.chive.map again }
      else
        let s := { s with chive := s.chive.filter (·.id != m.id) }
        if m.arrived then s else chiveLost (dillAdd s 13 m.src) m.op)

end Sys2Proof.Machine
end

