-- ==== Sys2Proof/Machine/Sha.lean ====
section
/-! DEFINITION. SHA-512, by which a snapshot's completion record names the bytes stored (R432), and the signatures of R442 and R443. -/
namespace Sys2Proof.Machine

/-- Round constants 0 to 15. -/
def shaK0 : List Word :=
  [0x428A2F98D728AE22, 0x7137449123EF65CD, 0xB5C0FBCFEC4D3B2F, 0xE9B5DBA58189DBBC,
   0x3956C25BF348B538, 0x59F111F1B605D019, 0x923F82A4AF194F9B, 0xAB1C5ED5DA6D8118,
   0xD807AA98A3030242, 0x12835B0145706FBE, 0x243185BE4EE4B28C, 0x550C7DC3D5FFB4E2,
   0x72BE5D74F27B896F, 0x80DEB1FE3B1696B1, 0x9BDC06A725C71235, 0xC19BF174CF692694]

/-- Round constants 16 to 31. -/
def shaK1 : List Word :=
  [0xE49B69C19EF14AD2, 0xEFBE4786384F25E3, 0x0FC19DC68B8CD5B5, 0x240CA1CC77AC9C65,
   0x2DE92C6F592B0275, 0x4A7484AA6EA6E483, 0x5CB0A9DCBD41FBD4, 0x76F988DA831153B5,
   0x983E5152EE66DFAB, 0xA831C66D2DB43210, 0xB00327C898FB213F, 0xBF597FC7BEEF0EE4,
   0xC6E00BF33DA88FC2, 0xD5A79147930AA725, 0x06CA6351E003826F, 0x142929670A0E6E70]

/-- Round constants 32 to 47. -/
def shaK2 : List Word :=
  [0x27B70A8546D22FFC, 0x2E1B21385C26C926, 0x4D2C6DFC5AC42AED, 0x53380D139D95B3DF,
   0x650A73548BAF63DE, 0x766A0ABB3C77B2A8, 0x81C2C92E47EDAEE6, 0x92722C851482353B,
   0xA2BFE8A14CF10364, 0xA81A664BBC423001, 0xC24B8B70D0F89791, 0xC76C51A30654BE30,
   0xD192E819D6EF5218, 0xD69906245565A910, 0xF40E35855771202A, 0x106AA07032BBD1B8]

/-- Round constants 48 to 63. -/
def shaK3 : List Word :=
  [0x19A4C116B8D2D0C8, 0x1E376C085141AB53, 0x2748774CDF8EEB99, 0x34B0BCB5E19B48A8,
   0x391C0CB3C5C95A63, 0x4ED8AA4AE3418ACB, 0x5B9CCA4F7763E373, 0x682E6FF3D6B2B8A3,
   0x748F82EE5DEFB2FC, 0x78A5636F43172F60, 0x84C87814A1F0AB72, 0x8CC702081A6439EC,
   0x90BEFFFA23631E28, 0xA4506CEBDE82BDE9, 0xBEF9A3F7B2C67915, 0xC67178F2E372532B]

/-- Round constants 64 to 79. -/
def shaK4 : List Word :=
  [0xCA273ECEEA26619C, 0xD186B8C721C0C207, 0xEADA7DD6CDE0EB1E, 0xF57D4F7FEE6ED178,
   0x06F067AA72176FBA, 0x0A637DC5A2C898A6, 0x113F9804BEF90DAE, 0x1B710B35131C471B,
   0x28DB77F523047D84, 0x32CAAB7B40C72493, 0x3C9EBE0A15C9BEBC, 0x431D67C49C100D4C,
   0x4CC5D4BECB3E42B6, 0x597F299CFC657E2A, 0x5FCB6FAB3AD6FAEC, 0x6C44198C4A475817]

/-- The round constants. -/
def shaK : List Word := shaK0 ++ shaK1 ++ shaK2 ++ shaK3 ++ shaK4

/-- The initial hash value. -/
def shaH : List Word :=
  [0x6A09E667F3BCC908, 0xBB67AE8584CAA73B, 0x3C6EF372FE94F82B, 0xA54FF53A5F1D36F1,
   0x510E527FADE682D1, 0x9B05688C2B3E6C1F, 0x1F83D9ABFB41BD6B, 0x5BE0CD19137E2179]

/-- Rotation right. -/
def shaRot (x : Word) (n : Nat) : Word := (x >>> n) ||| (x <<< (64 - n))

/-- A big-endian word of eight bytes. -/
def shaWord (l : List Byte) : Word := l.foldl (fun z b => (z <<< 8) ||| b.zeroExtend 64) 0

/-- The message schedule: `w` holds the last sixteen words, newest first. -/
def shaSched : (n : Nat) → (w : List Word) → List Word
  | 0, _ => []
  | n + 1, w =>
    let a := w.getD 14 0
    let b := w.getD 1 0
    let s0 := shaRot a 1 ^^^ shaRot a 8 ^^^ (a >>> 7)
    let s1 := shaRot b 19 ^^^ shaRot b 61 ^^^ (b >>> 6)
    let x := s1 + w.getD 6 0 + s0 + w.getD 15 0
    x :: shaSched n (x :: w.take 15)

/-- One round on the eight working words. -/
def shaRound (v : List Word) (kw : Word) : List Word :=
  let x := fun i => v.getD i 0
  let e := x 4
  let a := x 0
  let t1 := x 7 + (shaRot e 14 ^^^ shaRot e 18 ^^^ shaRot e 41) + ((e &&& x 5) ^^^ (~~~e &&& x 6)) + kw
  let t2 := (shaRot a 28 ^^^ shaRot a 34 ^^^ shaRot a 39) + ((a &&& x 1) ^^^ (a &&& x 2) ^^^ (x 1 &&& x 2))
  [t1 + t2, a, x 1, x 2, x 3 + t1, e, x 5, x 6]

/-- Sixteen words of a block of 128 bytes. -/
def shaWords : (n : Nat) → List Byte → List Word
  | 0, _ => []
  | n + 1, l => shaWord (l.take 8) :: shaWords n (l.drop 8)

/-- One block. -/
def shaBlock (h : List Word) (b : List Byte) : List Word :=
  let w := shaWords 16 b
  let all := w ++ shaSched 64 w.reverse
  List.zipWith (· + ·) h ((List.zipWith (· + ·) shaK all).foldl shaRound h)

/-- The blocks of a padded message. -/
def shaBlocks : (n : Nat) → List Word → List Byte → List Word
  | 0, h, _ => h
  | n + 1, h, l => shaBlocks n (shaBlock h (l.take 128)) (l.drop 128)

/-- A word's eight bytes, most significant first. -/
def shaBytes (w : Word) : List Byte := (List.range 8).map fun i => w.extractLsb' (56 - 8 * i) 8

/-- SHA-512. -/
def sha512 (m : List Byte) : List Byte :=
  let pad := (239 - m.length % 128) % 128
  let len : Word := BitVec.ofNat 64 (m.length * 8)
  let l := m ++ [0x80#8] ++ List.replicate (pad + 8) 0 ++ shaBytes len
  (shaBlocks (l.length / 128) shaH l).flatMap shaBytes

/-! ### RSASSA-PSS with RSA-4096 over SHA-512 (R442, R443) -/

/-- Bytes as a number, the most significant first. -/
def beNat (l : List Byte) : Nat := l.foldl (fun z b => z * 256 + b.toNat) 0

/-- The `n` bytes of a number, the most significant first. -/
def beBytes (n x : Nat) : List Byte := (List.range n).map fun i => BitVec.ofNat 8 (x / 256 ^ (n - 1 - i))

/-- The power of a number modulo `m`, by the low `k` bits of the exponent. -/
def powMod (m : Nat) : (k e b : Nat) → Nat
  | 0, _, _ => 1 % m
  | k + 1, e, b => (if e % 2 = 1 then b else 1) * powMod m k (e / 2) (b * b % m) % m

/-- The mask generation function MGF1. -/
def mgf1 (seed : List Byte) (len : Nat) : List Byte := ((List.range ((len + 63) / 64)).flatMap fun i => sha512 (seed ++ beBytes 4 i)).take len

/-- The digest that a PSS encoding holds. -/
def pssHash (msg salt : List Byte) : List Byte := sha512 (List.replicate 8 0 ++ sha512 msg ++ salt)

/-- Two byte strings combined, the top bit cleared. -/
def xorTop (a b : List Byte) : List Byte :=
  match List.zipWith (· ^^^ ·) a b with
  | [] => []
  | x :: r => (x &&& 0x7F) :: r

/-- The encoding of a message under a salt of 64 bytes. -/
def pssEncode (msg salt : List Byte) : List Byte :=
  let h := pssHash msg salt
  xorTop (List.replicate 382 0 ++ [0x01#8] ++ salt) (mgf1 h 447) ++ h ++ [0xBC#8]

/-- A signature: the encoding raised to the private exponent. -/
def pssSign (n d : Nat) (msg salt : List Byte) : List Byte := beBytes 512 (powMod n 4096 d (beNat (pssEncode msg salt)))

/-- A signature verifies under a modulus and the public exponent 65,537. -/
def pssVerify (n : Nat) (msg sig : List Byte) : Bool :=
  let em := beBytes 512 (powMod n 17 65537 (beNat sig))
  let h := (em.drop 447).take 64
  let db := xorTop (em.take 447) (mgf1 h 447)
  sig.length == 512 && decide (beNat sig < n) && em.drop 511 == [0xBC#8] && (em.headD 0).toNat < 128 &&
    db.take 383 == List.replicate 382 0 ++ [0x01#8] && h == pssHash msg (db.drop 383)

end Sys2Proof.Machine
end

