-- ==== Sys2Proof/Machine/Bay.lean ====
section
/-! DEFINITION. Bay, the snapshot engine: arming, marking, shadowing, draining and completion (R425–R434). -/
namespace Sys2Proof.Machine

/-- The physical page behind a virtual page whose leaf takes part in snapshots (R399, R430). -/
def cowPage (s : State) (ifc vp : Nat) : Option Nat :=
  if kindOf (vp * 65536) ≠ 0 then none
  else match walk s ifc (vp * 65536) with
  | .ok (e, lvl) =>
    let x : Xlat := { ifc := ifc, va := vp * 65536 / pageSize lvl * pageSize lvl, size := pageSize lvl, pte := wd e, gen := 0 }
    if fld e 60 60 = 1 then some (x.pa (vp * 65536) / 65536) else none
  | .error _ => none

/-- `snap.at` at its commit (R427). -/
def applySnapAt (s : State) (ifc : Nat) (rcd : BitVec 1024) (step : Word) (o : Op) : State :=
  (s.modSnap ifc fun _ => { st := 1, rcd := rcd, step := step, op := o.id }).beginOp o

/-- The regions are marked (R429, R430): a page whose leaf has COW = 0 is skipped. -/
def markRegions (s : State) (ifc : Nat) : State :=
  let vps := (snapPages (s.ifc ifc).snap.rcd.toNat).map (·.1)
  let l := vps.filterMap fun vp => (cowPage s ifc vp).map fun p => (vp, p)
  s.modSnap ifc fun x => { x with st := 2, mtick := s.tick, marks := l, todo := l, skip := vps.length - l.length, last := s.tick }

/-- `snap.at.step` at its commit (R428). -/
def applySnapStep (s : State) (cid ifc r : Nat) (w : Word) : State :=
  let s := s.modIfc ifc fun i => { i with step := i.step + 1 }
  let i := s.ifc ifc
  let s := if i.snap.st = 1 ∧ i.snap.step = i.step then markRegions s ifc else s
  s.setWit cid r (wMerge (mkWit 2 false false s.tick) w)

/-- The bytes that storage has acknowledged, in the order of the image (R432). -/
def imageBytes (x : Snap) : List Byte := (snapPages x.rcd.toNat).flatMap fun p => ((x.stored.find? (·.1 == p.2)).map (·.2)).getD []

/-- The completion record and the witness of a snapshot, which then ends (R432, R433). -/
def snapEnd (s : State) (ifc : Nat) : State :=
  let x := (s.ifc ifc).snap
  let body := leBytes 8 (x.stat + 256 * x.fcode) ++
    wordBytes [wd x.stored.length, wd x.shad, wd x.waits, wd s.tick, x.step, wd x.skip, 0] ++ sha512 (imageBytes x)
  let s := (writeVa s ifc (fld x.rcd.toNat 255 192) body).getD s
  let w := mkWit 3 (x.stat != 0) false x.last
  let s := s.modSnap ifc fun _ => {}
  match s.op? x.op with
  | some o => s.finish o (wMerge w o.win)
  | none => s

/-- `snap.dis` at its commit (R433). -/
def applySnapDis (s : State) (ifc : Nat) : State :=
  let x := (s.ifc ifc).snap
  if x.st = 1 then
    let s := s.modSnap ifc fun _ => {}
    match s.op? x.op with
    | some o => s.finish o 0
    | none => s
  else if x.st = 2 then snapEnd (bayStop s ifc 2 0) ifc
  else s

/-- `shcp` and `shdrn` at their commit (R434). -/
def applyShadow (s : State) (cid : Nat) (drain : Bool) (va : Word) (r : Option Nat) : State :=
  let ifc := (s.ctx cid).ifc
  let vp := va.toNat / 65536
  let w := mkWit 2 false false s.tick
  if !((s.ifc ifc).snap.marks.any (·.1 == vp)) then s.setWit? cid r 0
  else if drain then (bayDrain s ifc vp).setWit? cid r w
  else match bayShadow s ifc vp with
    | some s => s.setWit? cid r w
    | none => s.setWit? cid r 0

/-- The credit of an interface at a port holds a line more (R353, R431). -/
def bayShare (s : State) (ifc port n : Nat) : Bool := decide (tget 0 (s.port port).credit ifc + n ≤ 254912 * (s.ifc ifc).sh / 64)

/-- A line may leave for storage: its interface has slots on the way to the optical port, and share there (R341, R353, R431). -/
def bayMay (s : State) (ifc : Nat) (l : BayLine) : Bool :=
  match pathTo s (fld l.addr 62 51) (l.addr / 256) with
  | none => true
  | some p => pathOpen s ifc (locStation s l.src) (portStation p.1, 5) && bayShare s ifc p.1 l.data.length

/-- A line sent to storage as an acknowledged store (R357, R431). -/
def baySend (s : State) (ifc : Nat) (l : BayLine) : State :=
  let x := (s.ifc ifc).snap
  let part := fld l.addr 62 51
  let s := match pathTo s part (l.addr / 256) with
    | none => s
    | some p => s.modPort p.1 fun y => { y with credit := tput y.credit ifc (tget 0 y.credit ifc + l.data.length) }
  fabRequest (s.modSnap ifc fun x => { x with await := x.await + 1 }) x.op ((l.addr - fld x.rcd.toNat 63 0) / 256) part
    { kind := .store, tag := tagOf s ifc, off := fld l.addr 50 0, len := l.data.length, data := l.data } (l.addr / 256)

/-- The lines that wait, sent in order as far as slots and share allow (R431). -/
def bayRun (ifc : Nat) : (l : List BayLine) → (s : State) → State
  | [], s => s.modSnap ifc fun x => { x with out := [] }
  | l :: ls, s => if bayMay s ifc l then bayRun ifc ls (baySend s ifc l) else s.modSnap ifc fun x => { x with out := l :: ls }

/-- R431: the lines that wait are sent, and the next page is read once none does, in region and address order. -/
def execBayDrainPage (s : State) : Res :=
  .next (
    let ifc := s.arg.a
    let x := (s.ifc ifc).snap
    if x.st ≠ 2 then s
    else if !x.out.isEmpty then bayRun ifc x.out s
    else match x.todo.head? with
      | some t =>
        let s := bayDrain s ifc t.1
        bayRun ifc (s.ifc ifc).snap.out s
      | none => s)

/-- R432: the last page has been acknowledged. -/
def execSnapshotComplete (s : State) : Res :=
  .next (
    let x := (s.ifc s.arg.a).snap
    if x.st = 2 ∧ ((x.todo.isEmpty ∧ x.out.isEmpty ∧ x.await = 0) ∨ x.stat ≠ 0) then snapEnd s s.arg.a else s)

end Sys2Proof.Machine
end

