-- ==== Sys2Proof/Machine/Control.lean ====
section
/-! DEFINITION. Control transfer, special registers, trap return, and the witness and barrier instructions of the S slot (R144–R148,
R152–R160, R252, R302–R307). -/
namespace Sys2Proof.Machine

/-! ### Transfers -/

/-- The target of a label (R144). -/
def labelOf (s : State) (imm : BitVec 36) : Word := s.iss.pc + imm.signExtend 64 * 8

/-- The link value (R144). -/
def linkOf (s : State) : Word := s.iss.pc + wd s.iss.len

/-- A transfer to a register's address (R60, R144). -/
def jumpTo (s : State) (a : Word) (k : State → State) : State :=
  if a.toNat % 8 ≠ 0 then s.faultB .align else k (s.eff (.jump a))

/-- R145. -/
def execBr (f : SI) (s : State) : Res := .next (sOp s f.kneg f.k 1 fun s => s.eff (.jump (labelOf s f.imm)))
/-- R145. -/
def execCall (f : SI) (s : State) : Res :=
  .next (sOp s f.kneg f.k 1 fun s => (s.landS f.d (linkOf s) s.lat.salu).eff (.jump (labelOf s f.imm)))
/-- R145. -/
def execBrr (f : SR) (s : State) : Res := .next (sOp s f.kneg f.k 1 fun s => jumpTo s (s.me.sreg f.a) id)
/-- R145. -/
def execCallr (f : SR) (s : State) : Res :=
  .next (sOp s f.kneg f.k 1 fun s => jumpTo s (s.me.sreg f.a) fun t => t.landS f.d (linkOf s) s.lat.salu)
/-- R145. -/
def execRet (f : SR) (s : State) : Res := .next (sOp s f.kneg f.k 1 fun s => jumpTo s (s.me.sreg f.a) id)
/-- R146. -/
def execLoop (f : SI) (s : State) : Res :=
  .next (sOp s f.kneg f.k 1 fun s =>
    let c := s.me.sreg f.d - 1
    let s := s.landS f.d c s.lat.salu
    if c ≠ 0 then s.eff (.jump (labelOf s f.imm)) else s)
/-- R147. -/
def execTrap (f : SI) (s : State) : Res :=
  .next (sOp s f.kneg f.k 1 fun s => s.eff (.swtrap (f.imm.extractLsb' 0 16).toNat))

/-! ### Special registers -/

/-- R148, R149. -/
def execMfsr (f : SI) (s : State) : Res :=
  let n := (f.imm.extractLsb' 0 12).toNat
  .next (if s.onStream && !srStream n then s.faultB .illenc
    else sOp s f.kneg f.k 1 fun s =>
      withSat s [wfAt f.imm 12, wfAt f.imm 18] fun _ => s.landS f.d (srRead s s.iss.cid n) s.lat.salu)

/-- R148, R149, R151. -/
def execMtsr (f : SI) (s : State) : Res :=
  let n := (f.imm.extractLsb' 0 12).toNat
  .next (if s.onStream && !srStream n then s.faultB .illenc
    else match w1cReg n with
      | none => s.faultB .priv
      | some r => sOp s f.kneg f.k 1 fun s => s.eff (.w1c r (s.me.sreg f.a)))

/-! ### Trap return -/

/-- A scale load of a task still waits for its data, and no engine fault holds it (R224, R237). -/
def scalesOpen (s : State) (o : Owner) : Bool :=
  s.ops.any fun x => x.own.cid == o.cid && x.own.uid == o.uid && !x.held && match x.kind with
    | .mscl _ _ _ _ data => data.isEmpty
    | _ => false

/-- R135, R160, R382: outside a handler it faults; its commit waits for the handler's own results. -/
def execTret (f : SR) (s : State) : Res :=
  .next (sOp s f.kneg f.k 1 fun s =>
    if s.me.resume.isNone then s.faultB .priv
    else if s.me.landing.any (·.late.isSome) || scalesOpen s s.owner then s.wait
    else s.eff .tret)

/-- R135, R160, R382. -/
def execTkill (f : SR) (s : State) : Res :=
  .next (sOp s f.kneg f.k 1 fun s =>
    if s.me.resume.isNone then s.faultB .priv else s.eff (.tkill ((s.me.sreg f.a).toNat % 2 ^ 16)))

/-! ### Witnesses -/

/-- R302. -/
def execWmrg (f : SR) (s : State) : Res :=
  .next (sOp s f.kneg f.k 1 fun s => withData s [f.wi1, f.wi2] fun w => match WFi f.wo with
    | some r => s.eff (.wset r w)
    | none => s)

/-- A store or reduction counted in WSTO whose witness is not known (R301, R303). -/
def storeOpen (o : Owner) (x : Op) : Bool :=
  x.own.cid == o.cid && x.own.uid == o.uid && match x.kind with
    | .store _ | .atomic _ | .fst _ | .rsto _ => true
    | .m m => m.kind == .mst
    | _ => false

/-- A channel copy counted in WCPY that has not completed (R301, R303). -/
def copyOpen (o : Owner) (x : Op) : Bool :=
  x.own.cid == o.cid && x.own.uid == o.uid && match x.kind with
    | .copy _ | .mcst _ => true
    | _ => false

/-- R303. -/
def execWall (f : SR) (s : State) : Res :=
  .next (sOp s f.kneg f.k 1 fun s =>
    let o := s.owner
    if s.ops.any (storeOpen o) || (f.fn.getLsbD 0 && s.ops.any (copyOpen o)) then s.wait
    else match WFi f.wo with
      | some r => s.eff (.wall r (f.fn.getLsbD 0))
      | none => s)

/-- R304. -/
def execWtst (f : SR) (s : State) : Res :=
  .next (sOp s f.kneg f.k 1 fun s => withData s [f.wi1] fun w => s.landK f.d (sat s w))
/-- R304. -/
def execWtstPoisoned (f : SR) (s : State) : Res :=
  .next (sOp s f.kneg f.k 1 fun s => withData s [f.wi1] fun w => s.landK f.d (!wNull w && wPsn w))
/-- R304. -/
def execWtstLanded (f : SR) (s : State) : Res :=
  .next (sOp s f.kneg f.k 1 fun s => s.landK f.d ((s.wregs [f.wi1]).all (·.pend.isNone)))
/-- R305. -/
def execWwait (f : SR) (s : State) : Res :=
  .next (sOp s f.kneg f.k 1 fun s => withSat s [f.wi1, f.wi2] fun _ => s)
/-- R306. -/
def execWrd (f : SR) (s : State) : Res :=
  .next (sOp s f.kneg f.k 1 fun s => withData s [f.wi1] fun w => s.landS f.d w s.lat.salu)
/-- R307. -/
def execWset (f : SR) (s : State) : Res :=
  .next (sOp s f.kneg f.k 1 fun s => match WFi f.wo with
    | some r => s.eff (.wset r (wNorm (s.me.sreg f.a)))
    | none => s)

/-- A load walk that the context registered has a tile to move that every target has granted (R335, R338). -/
def walksOpen (s : State) (o : Owner) : Bool :=
  (s.stn (cidStation o.cid)).walks.any fun p => match p.2 with
    | some w => w.own.cid == o.cid && w.own.uid == o.uid && fld w.desc.toNat 440 440 == 0 && w.grants.all (w.tile < ·)
    | none => false

/-- Whether a scratchpad write of the context has yet to perform in both views (R251, R252): a slot store, an atomic, an `mst`, one
of an engine that a bundle of the context started, a pull into its pages, or a tile of its walks. A tile that a permit may still grant is
not waited for (log entry 114). -/
def viewsOpen (s : State) (o : Owner) : Bool :=
  s.views.any (fun v => v.own.cid == o.cid && v.own.uid == o.uid) || walksOpen s o ||
  s.ops.any fun x => x.own.cid == o.cid && x.own.uid == o.uid && match x.kind with
    | .store y => y.left.any fun p => match p.loc with | .sp _ => true | _ => false
    | .atomic y => (match y.loc with | .sp _ => true | _ => false)
    | .m y => y.kind == .mst
    | .copy y => kindOf y.dst.toNat == 2
    | .mcst _ | .gld _ | .pull _ => true
    | .rsto y => !(physPages y.segs).isEmpty
    | _ => false

/-- A write in either view covered by a witness has yet to perform in both (R252). -/
def viewsCovered (s : State) (w : Word) : Bool :=
  !wNull w && s.views.any fun v => decide (v.tick ≤ wTick w)

/-- R252. -/
def execVjoin (f : SR) (s : State) : Res :=
  .next (sOp s f.kneg f.k 1 fun s => withSat s [f.wi1, f.wi2] fun w =>
    if viewsOpen s s.owner || viewsCovered s w then s.wait
    else match WFi f.wo with
      | some r =>
        let v := wMerge w (mkWit 1 false false s.tick)
        (s.eff (.wset r v)).eff (.vjoin v)
      | none => s)

/-! ### Barriers -/

/-- An arrival on a barrier (R157): the barrier after it, and whether it was counted. -/
def arrive (b : Barrier) (w : Word) : Barrier × Bool :=
  if !b.arm then (b, false)
  else if b.done then ({ b with ovf := true }, false)
  else
    let b := { b with w := wMerge b.w w, arr := b.arr + 1 }
    (if b.arr = b.exp then { b with done := true, gen := b.gen + 1 } else b, true)

/-- R154. -/
def execBari (f : SI) (s : State) : Res :=
  .next (sOp s f.kneg f.k 1 fun s => s.eff (.bari f.d.toNat (f.imm.extractLsb' 0 12).toNat))

/-- R155. -/
def execBarl (f : SR) (s : State) : Res :=
  .next (sOp s f.kneg f.k 1 fun s => withData s [f.wi1, f.wi2] fun w => s.eff (.barl f.d.toNat w))

/-- R153, R156: the name's check takes effect at commit. -/
def execBarv (f : SR) (s : State) : Res :=
  .next (sOp s f.kneg f.k 1 fun s => withData s [f.wi1, f.wi2] fun w =>
    let n := (s.me.sreg f.a).toNat
    let core := fld n 57 48
    if fld n 63 58 ≠ s.me.ifc ∨ (s.core core).own ≠ some s.me.ifc then s.eff (.viol s.iss.pc)
    else (s.start w f.wo (.barv (core * 8 + fld n 47 45) (fld n 63 58) (fld n 39 0) (fld n 44 40) w)).2)

/-- The value and witness that `barw` reads (R158). -/
def barwRead (s : State) (f : SR) (b : Barrier) (wit : Bool) : State :=
  let s := s.landS f.d b.control s.lat.salu
  match WFi f.wo with
  | some r => s.eff (.wset r (if wit then b.w else 0))
  | none => s

/-- `barw` and `barw.rearm` wait until the barrier is complete or empty (R158). -/
def barwWait (s : State) (f : SR) (k : State → Barrier → State) : State :=
  let b := tget {} s.me.b f.b.toNat
  if b.arm && !b.done then s.wait else k (barwRead s f b b.arm) b

/-- R158. -/
def execBarw (f : SR) (s : State) : Res := .next (sOp s f.kneg f.k 1 fun s => barwWait s f fun s _ => s)
/-- R158. -/
def execBarwRearm (f : SR) (s : State) : Res :=
  .next (sOp s f.kneg f.k 1 fun s => barwWait s f fun s b => if b.arm then s.eff (.rearm f.b.toNat) else s)
/-- R158. -/
def execBarwTest (f : SR) (s : State) : Res :=
  .next (sOp s f.kneg f.k 1 fun s =>
    let b := tget {} s.me.b f.b.toNat
    barwRead s f b (b.arm && b.done))

end Sys2Proof.Machine
end

