-- ==== Sys2Proof/Machine/Vector.lean ====
section
/-! DEFINITION. The vector arithmetic, logic, compare, conversion, permute, reduction and predicate instructions (R175–R181,
R195–R209). -/
namespace Sys2Proof.Machine

/-- The operand of a list of sources. -/
abbrev op (vs : List VReg) (i : Nat) : VReg := vs.getD i 0

/-- R175. -/
def execVadd (f : VO) (s : State) : Res := .next (vRound s f 1 s.lat.valu (fmtW f.fmt) [f.a, f.b] fun act g vs =>
    vArith 0 f.fmt f.c.toNat f.sat act g (op vs 0) (op vs 1))

/-- R175. -/
def execVsub (f : VO) (s : State) : Res := .next (vRound s f 1 s.lat.valu (fmtW f.fmt) [f.a, f.b] fun act g vs =>
    vArith 1 f.fmt f.c.toNat f.sat act g (op vs 0) (op vs 1))

/-- R175. -/
def execVmul (f : VO) (s : State) : Res := .next (vRound s f 1 s.lat.vfma (fmtW f.fmt) [f.a, f.b] fun act g vs =>
    vArith 2 f.fmt f.c.toNat f.sat act g (op vs 0) (op vs 1))

/-- R176. -/
def execVfma (f : VO) (s : State) : Res := .next (vPure s f 1 s.lat.vfma [f.a, f.b, f.c] fun act vs =>
    vFused 0 f.fmt f.sat act (op vs 0) (op vs 1) (op vs 2))

/-- R176. -/
def execVfms (f : VO) (s : State) : Res := .next (vPure s f 1 s.lat.vfma [f.a, f.b, f.c] fun act vs =>
    vFused 1 f.fmt f.sat act (op vs 0) (op vs 1) (op vs 2))

/-- R176. -/
def execVfnma (f : VO) (s : State) : Res := .next (vPure s f 1 s.lat.vfma [f.a, f.b, f.c] fun act vs =>
    vFused 2 f.fmt f.sat act (op vs 0) (op vs 1) (op vs 2))

/-- R177. -/
def execVmax (f : VO) (s : State) : Res := .next (vPure s f 1 s.lat.valu [f.a, f.b] fun act vs => vMaxMin true f.fmt act (op vs 0) (op vs 1))

/-- R177. -/
def execVmin (f : VO) (s : State) : Res := .next (vPure s f 1 s.lat.valu [f.a, f.b] fun act vs => vMaxMin false f.fmt act (op vs 0) (op vs 1))

/-- R177. -/
def execVabs (f : VO) (s : State) : Res := .next (vPure s f 1 s.lat.valu [f.a] fun act vs => vSign 0 f.fmt act (op vs 0) 0)

/-- R177. -/
def execVneg (f : VO) (s : State) : Res := .next (vPure s f 1 s.lat.valu [f.a] fun act vs => vSign 1 f.fmt act (op vs 0) 0)

/-- R177. -/
def execVcpsg (f : VO) (s : State) : Res := .next (vPure s f 1 s.lat.valu [f.a, f.b] fun act vs => vSign 2 f.fmt act (op vs 0) (op vs 1))

/-- R178. -/
def execVexp2 (f : VO) (s : State) : Res := .next (vPure s f 4 s.lat.vtr [f.a] fun act vs => vTrans 0 f.fmt act (op vs 0))

/-- R178. -/
def execVlog2 (f : VO) (s : State) : Res := .next (vPure s f 4 s.lat.vtr [f.a] fun act vs => vTrans 1 f.fmt act (op vs 0))

/-- R178. -/
def execVrcp (f : VO) (s : State) : Res := .next (vPure s f 4 s.lat.vtr [f.a] fun act vs => vTrans 2 f.fmt act (op vs 0))

/-- R178. -/
def execVrsqrt (f : VO) (s : State) : Res := .next (vPure s f 4 s.lat.vtr [f.a] fun act vs => vTrans 3 f.fmt act (op vs 0))

/-- R178. -/
def execVtanh (f : VO) (s : State) : Res := .next (vPure s f 4 s.lat.vtr [f.a] fun act vs => vTrans 4 f.fmt act (op vs 0))

/-- R179. -/
def execViadd (f : VO) (s : State) : Res := .next (vPure s f 1 s.lat.valu [f.a, f.b] fun act vs =>
    vInt 0 f.fmt f.sat act (op vs 0) (op vs 1) (op vs 2))

/-- R179. -/
def execVisub (f : VO) (s : State) : Res := .next (vPure s f 1 s.lat.valu [f.a, f.b] fun act vs =>
    vInt 1 f.fmt f.sat act (op vs 0) (op vs 1) (op vs 2))

/-- R179. -/
def execVimul (f : VO) (s : State) : Res := .next (vPure s f 1 s.lat.vfma [f.a, f.b] fun act vs =>
    vInt 2 f.fmt f.sat act (op vs 0) (op vs 1) (op vs 2))

/-- R179. -/
def execVimad (f : VO) (s : State) : Res := .next (vPure s f 1 s.lat.vfma [f.a, f.b, f.c] fun act vs =>
    vInt 3 f.fmt f.sat act (op vs 0) (op vs 1) (op vs 2))

/-- R179. -/
def execVimax (f : VO) (s : State) : Res := .next (vPure s f 1 s.lat.valu [f.a, f.b] fun act vs =>
    vInt 4 f.fmt f.sat act (op vs 0) (op vs 1) (op vs 2))

/-- R179. -/
def execVimin (f : VO) (s : State) : Res := .next (vPure s f 1 s.lat.valu [f.a, f.b] fun act vs =>
    vInt 5 f.fmt f.sat act (op vs 0) (op vs 1) (op vs 2))

/-- R179. -/
def execViabs (f : VO) (s : State) : Res := .next (vPure s f 1 s.lat.valu [f.a] fun act vs =>
    vInt 6 f.fmt f.sat act (op vs 0) (op vs 1) (op vs 2))

/-- R180. -/
def execVand (f : VO) (s : State) : Res := .next (vPure s f 1 s.lat.valu [f.a, f.b] fun act vs => vLogic 0 f.fmt act (op vs 0) (op vs 1))

/-- R180. -/
def execVor (f : VO) (s : State) : Res := .next (vPure s f 1 s.lat.valu [f.a, f.b] fun act vs => vLogic 1 f.fmt act (op vs 0) (op vs 1))

/-- R180. -/
def execVxor (f : VO) (s : State) : Res := .next (vPure s f 1 s.lat.valu [f.a, f.b] fun act vs => vLogic 2 f.fmt act (op vs 0) (op vs 1))

/-- R180. -/
def execVnot (f : VO) (s : State) : Res := .next (vPure s f 1 s.lat.valu [f.a] fun act vs => vLogic 3 f.fmt act (op vs 0) (op vs 1))

/-- R181. -/
def execVshl (f : VO) (s : State) : Res := .next (vPure s f 1 s.lat.valu [f.a, f.b] fun act vs => vShift true f.fmt f.sat act (op vs 0) (op vs 1))

/-- R181. -/
def execVshr (f : VO) (s : State) : Res := .next (vPure s f 1 s.lat.valu [f.a, f.b] fun act vs => vShift false f.fmt f.sat act (op vs 0) (op vs 1))
/-- A compare: one bit per active lane (R197). -/
def vCompare (f : VO) (s : State) (cc : Nat) : State :=
  vOp s f 1 (fmtW f.fmt) [f.a, f.b] fun s vs =>
    let r := vCmp cc f.fmt (f.c == 1) (voAct f s) (op vs 0) (op vs 1)
    let s := landQ s f.file f.d.toNat (wd r.val) (wd r.mask) s.lat.valu
    if r.fl = 0 then s else s.eff (.flags (if f.file then 1 else 0) (r.fl.zeroExtend 64))

/-- R197. -/
def execVcmpEq (f : VO) (s : State) : Res := .next (vCompare f s 0)

/-- R197. -/
def execVcmpNe (f : VO) (s : State) : Res := .next (vCompare f s 1)

/-- R197. -/
def execVcmpLt (f : VO) (s : State) : Res := .next (vCompare f s 2)

/-- R197. -/
def execVcmpLe (f : VO) (s : State) : Res := .next (vCompare f s 3)

/-- R197. -/
def execVcmpTord (f : VO) (s : State) : Res := .next (vCompare f s 4)

/-- R197. -/
def execVcmpUn (f : VO) (s : State) : Res := .next (vCompare f s 5)

/-- R198. -/
def execVsel (f : VO) (s : State) : Res := .next (vPure s f 1 s.lat.valu [f.a, f.b] fun act vs =>
    vSel f.fmt act (s.me.qreg f.file f.c.toNat) (op vs 0) (op vs 1))

/-- R199. -/
def execVcxc (f : VO) (s : State) : Res := .next (vPure s f 2 s.lat.valu [f.a, f.b] fun act vs => vCxc f.fmt (f.c == 1) act (op vs 0) (op vs 1))

/-- R200: the source's elements have the width of SRC (R43). -/
def execVcvt (f : VO) (s : State) : Res := .next (vRound s f 1 s.lat.valu (fmtW (f.c.extractLsb' 3 4)) [f.a] fun act g vs =>
    vCvt (f.c.extractLsb' 3 4) f.fmt (f.c.extractLsb' 0 3).toNat (f.c.extractLsb' 8 3).toNat f.sat act g (op vs 0))

/-- R201. -/
def execVpack (f : VO) (s : State) : Res := .next (vWhole s f 1 s.lat.valu 8 [f.a] fun _ vs => vPack (op vs 0))

/-- R201. -/
def execVunpk (f : VO) (s : State) : Res := .next (vPure s f 1 s.lat.valu [f.a] fun _ vs => vUnpk (op vs 0))

/-- R202: the source's elements are .f32 (R43). -/
def execVscl (f : VO) (s : State) : Res := .next (vWhole s f 1 s.lat.valu 32 [f.a] fun act vs => vScl f.fmt act (op vs 0))

/-- R203: the elements of vA are .f32, those of vB are .e8m0 (R43). -/
def execVqmx (f : VO) (s : State) : Res := .next (vOp s f 2 32 [f.a] fun t va => readSrcs t f.file 8 [f.b] fun t vb =>
    landRound t f s.lat.vfma fun act g =>
      vQmx f.fmt (f.c.extractLsb' 0 3).toNat (f.c.extractLsb' 3 3).toNat (f.c.extractLsb' 6 5).toNat f.sat act g (op va 0) (op vb 0))

/-- R85, R204. -/
def execVseed (f : VO) (s : State) : Res := .next (vOp s f 1 32 [f.a] fun s vs =>
    let act := voAct f s
    s.eff (.gens f.file ((List.range 64).filterMap fun i =>
      let g := BitVec.ofNat 16 (lane (op vs 0) i)
      if act.getLsbD i then some (i, if g = 0 then 1 else g) else none)))

/-- R205. -/
def execVperm (f : VO) (s : State) : Res := .next (vPure s f 2 s.lat.valu [f.a, f.b] fun act vs => vPerm f.fmt act (op vs 0) (op vs 1))

/-- R205. -/
def execVbcast (f : VO) (s : State) : Res := .next (vPure s f 1 s.lat.valu [f.a] fun act vs => vBcast f.fmt f.c.toNat act (op vs 0))

/-- R205. -/
def execVzip (f : VO) (s : State) : Res := .next (vPure s f 1 s.lat.valu [f.a, f.b] fun act vs => vZip f.fmt f.c.toNat act (op vs 0) (op vs 1))

/-- R205. -/
def execVuzp (f : VO) (s : State) : Res := .next (vPure s f 1 s.lat.valu [f.a, f.b] fun act vs => vUzp f.fmt f.c.toNat act (op vs 0) (op vs 1))

/-- R206. -/
def execVrsum (f : VO) (s : State) : Res := .next (vPure s f 2 s.lat.vfma [f.a] fun act vs =>
    vRed 0 f.fmt (f.c.extractLsb' 0 4).toNat (f.c.extractLsb' 4 7).toNat f.sat act (op vs 0))

/-- R206. -/
def execVrmax (f : VO) (s : State) : Res := .next (vPure s f 2 s.lat.vfma [f.a] fun act vs =>
    vRed 1 f.fmt (f.c.extractLsb' 0 4).toNat (f.c.extractLsb' 4 7).toNat f.sat act (op vs 0))

/-- R206. -/
def execVrmin (f : VO) (s : State) : Res := .next (vPure s f 2 s.lat.vfma [f.a] fun act vs =>
    vRed 2 f.fmt (f.c.extractLsb' 0 4).toNat (f.c.extractLsb' 4 7).toNat f.sat act (op vs 0))

/-- R206. -/
def execVramax (f : VO) (s : State) : Res := .next (vPure s f 2 s.lat.vfma [f.a] fun act vs =>
    vRed 3 f.fmt (f.c.extractLsb' 0 4).toNat (f.c.extractLsb' 4 7).toNat f.sat act (op vs 0))

/-- R206. -/
def execVirsum (f : VO) (s : State) : Res := .next (vPure s f 2 s.lat.vfma [f.a] fun act vs =>
    vRed 4 f.fmt (f.c.extractLsb' 0 4).toNat (f.c.extractLsb' 4 7).toNat f.sat act (op vs 0))

/-- R207. -/
def execVmov (f : VO) (s : State) : Res := .next (vPure s f 1 s.lat.valu [f.a] fun act vs => vMov f.fmt act (op vs 0))
/-- A result that `xmv` moves into another file (R66, R208). -/
def landX (s : State) (d : Dst) (v mask : VReg) : State :=
  s.eff (.land { dst := d, due := s.me.n + s.lat.vxmv, val := v, mask := mask, stop := true, xmv := true })

/-- The mask of a 64-bit register. -/
def mask64 : VReg := (BitVec.allOnes 64).zeroExtend 2048

/-- Word i of a register (R208). -/
def vWord (v : VReg) (i : Nat) : VReg := BitVec.ofNat 2048 (elem 64 v i)

/-- R208. -/
def execXmvVec (f : VO) (s : State) : Res := .next (vOp s f 1 32 [f.a] fun s vs => landX s (.v (!f.file) f.d.toNat) (op vs 0) (BitVec.allOnes 2048))

/-- R208. -/
def execXmvPred (f : VO) (s : State) : Res := .next (landX (s.charge 1 0) (.q (!f.file) f.d.toNat) ((s.me.qreg f.file f.a.toNat).zeroExtend 2048) mask64)

/-- R208. -/
def execXmvToS (f : VO) (s : State) : Res := .next (vOp s f 1 32 [f.a] fun s vs => landX s (.s f.d.toNat) (vWord (op vs 0) f.b.toNat) mask64)

/-- R208, R209: a scalar register, as it stood when the group opened, in every 64-bit element. -/
def execXmvFromS (f : VO) (s : State) : Res :=
  let x : Word := tget 0 (if s.me.group.isEmpty then s.me.s else s.me.sg) f.a.toNat
  let v : VReg := BitVec.setWidth 2048 (BitVec.replicate 32 x)
  .next (landX (s.charge 1 0) (.v f.file f.d.toNat) v (BitVec.allOnes 2048))

/-- R208. -/
def execXmvToC (f : VO) (s : State) : Res := .next (vOp s f 1 32 [f.a] fun s vs =>
    landX s (.a (f.d.getLsbD 5) (f.d.toNat % 32)) (vWord (op vs 0) f.b.toNat) mask64)

/-- R208. -/
def execXmvPredToS (f : VO) (s : State) : Res := .next (landX (s.charge 1 0) (.s f.d.toNat) ((s.me.qreg f.file f.a.toNat).zeroExtend 2048) mask64)
/-- A predicate instruction (R196). -/
def qOp (f : VO) (s : State) (g : Word → Word → Word) : State :=
  landQ (s.charge 1 0) f.file f.d.toNat (g (s.me.qreg f.file f.a.toNat) (s.me.qreg f.file f.b.toNat)) (BitVec.allOnes 64) s.lat.valu

/-- R196. -/
def execQand (f : VO) (s : State) : Res := .next (qOp f s fun a b => a &&& b)

/-- R196. -/
def execQor (f : VO) (s : State) : Res := .next (qOp f s fun a b => a ||| b)

/-- R196. -/
def execQxor (f : VO) (s : State) : Res := .next (qOp f s fun a b => a ^^^ b)

/-- R196. -/
def execQnot (f : VO) (s : State) : Res := .next (qOp f s fun a _ => ~~~a)

/-- R196. -/
def execQsetNone (f : VO) (s : State) : Res := .next (qOp f s fun _ _ => 0)

/-- R196. -/
def execQsetAll (f : VO) (s : State) : Res := .next (qOp f s fun _ _ => BitVec.allOnes 64)

/-- R196. -/
def execQsetFirst (f : VO) (s : State) : Res := .next (qOp f s fun _ _ => wd (2 ^ s.iss.bimm.toNat - 1))

/-- R196. -/
def execQsetNz (f : VO) (s : State) : Res := .next (vOp s f 1 32 [f.a] fun s vs =>
    landQ s f.file f.d.toNat (wd (laneNz (op vs 0))) (BitVec.allOnes 64) s.lat.valu)

end Sys2Proof.Machine
end

