-- ==== Sys2Proof/Machine/Commit.lean ====
section
/-! DEFINITION. What the effects of a bundle do when it commits (R58, R59), and how results land (R64–R67, R169–R171, R208). -/
namespace Sys2Proof.Machine

/-! ### Landing -/

/-- The bits of `mask` taken from `v`. -/
def mixBits {n : Nat} (old v mask : BitVec n) : BitVec n := (v &&& mask) ||| (old &&& ~~~mask)

/-- The bytes of a register whose every bit a mask covers. -/
def wholeBytes (mask : VReg) : BitVec 256 :=
  BitVec.ofNat 256 ((List.range 256).foldl (fun z i => if mask.extractLsb' (8 * i) 8 = 0xFF then z + 2 ^ i else z) 0)

/-- A vector register after a result: its contents, its deadline or marks, and its parity (R168–R170): the bytes written whole have good
parity again. A partial result leaves an expired register expired. -/
def landVreg (cycle : Nat) (f : VFile) (r : Nat) (l : Landing) : VFile :=
  let whole := l.mask == BitVec.allOnes 2048
  let dead := f.expired.contains r || (match f.eph.find? (·.1 == r) with | some d => decide (d.2 ≤ cycle) | none => false)
  let bad := if f.badReg r then tput f.bad r (tget 0 f.bad r &&& ~~~(wholeBytes l.mask)) else f.bad
  let f := { f with r := tput f.r r (mixBits (tget 0 f.r r) l.val l.mask), bad := bad }
  if dead && !whole then f
  else { f with expired := f.expired.filter (· != r), eph := if l.eph then tput f.eph r (cycle + 4096) else tdel f.eph r }

/-- A 64-bit register after a result. -/
def landWord (t : Tbl Word) (r : Nat) (l : Landing) : Tbl Word :=
  tput t r (mixBits (tget 0 t r) (l.val.setWidth 64) (l.mask.setWidth 64))

/-- A result lands (R64). -/
def landOne (cycle : Nat) (c : Ctx) (l : Landing) : Ctx :=
  match l.dst with
  | .s r => { c with s := landWord c.s r l }
  | .k r => { c with k := if l.val.getLsbD 0 then c.k ||| (1#8 <<< r) else c.k &&& ~~~(1#8 <<< r) }
  | .v f r => c.modVf f fun x => landVreg cycle x r l
  | .q f r => c.modVf f fun x => { x with q := landWord x.q r l }
  | .mrow => { c with mrow := l.val }
  | .td r =>
    { c with td := tput c.td r (mixBits (tget 0 c.td r) (l.val.setWidth 256) (l.mask.setWidth 256))
             tdUe := if l.mask.setWidth 256 = BitVec.allOnes 256 then c.tdUe.filter (· != r) else c.tdUe }
  | .a f r => if f then { c with a1 := landWord c.a1 r l } else { c with a0 := landWord c.a0 r l }

/-- Results in landing order: by bundle, and within one the `xmv` results before the slot's own (R208). -/
def landSort (l : List Landing) : List Landing := byDue (l.filter (·.xmv) ++ l.filter (!·.xmv))

/-- Scale registers take the data of `mscl` loads whose bundle has come (R224). -/
def landScales (s : State) (cid : Nat) (all : Bool) : State :=
  let c := s.ctx cid
  (s.ops.filter fun o => o.own.cid == cid && o.own.uid == c.uid && match o.kind with
    | .mscl _ _ _ due data => !data.isEmpty && (all || decide (due ≤ c.n))
    | _ => false).foldl (init := s) fun s o =>
      match o.kind with
      | .mscl e _ _ _ data =>
        (s.modCtx cid fun c => { c with e := data.zipIdx.foldl (fun t p => tput t (e * 1024 + p.2) p.1) c.e
                                        eUe := c.eUe.filter (· != e) }).dropOp o.id
      | _ => s

/-- A result that lands at a bundle, with what its register held (R64, R378). -/
def landNow (cycle : Nat) (c : Ctx) (l : Landing) : Ctx :=
  let u : Landed := match l.dst with
    | .v f r =>
      let x := c.vf f
      { l := l, old := c.oldOf l.dst, eph := (x.eph.find? (·.1 == r)).map (·.2), expired := x.expired.contains r, bad := tget 0 x.bad r }
    | .td r => { l := l, old := c.oldOf l.dst, bad := if c.tdUe.contains r then 1 else 0 }
    | _ => { l := l, old := c.oldOf l.dst }
  { landOne cycle c l with landed := u :: c.landed }

/-- The results due at the context's next bundle land, anew at every attempt to issue it, so that a deadline runs from the attempt that
commits (R64, R169); `all` lands for good every result that has its value (R67). -/
def landDue (s : State) (cid : Nat) (all : Bool) : State :=
  let c := unland (s.ctx cid)
  let go := fun (l : Landing) => l.late.isNone && (all || (!l.stop && decide (l.due ≤ c.n)))
  let c' := (landSort (c.landing.filter go)).foldl (if all then landOne s.cycle else landNow s.cycle) c
  landScales (s.setCtx cid { c' with landing := c.landing.filter (!go ·) }) cid all

/-- A wait for an operation that is not counted towards a hang (R386): for a `tkget` or `rslot` reply, or for a write that waits under R321 or
R430. -/
def uncounted (s : State) (o : Op) : Bool :=
  match o.kind with
  | .tkget .. | .rslot _ => true
  | .atomic x => marked s x.loc (tySize x.ty) || heldSegs s o [⟨x.loc, tySize x.ty⟩]
  | .m m => m.kind == .mst && m.linesA.any fun l => heldSegs s o l || l.any fun g => marked s g.loc g.len
  | _ => false

/-- A result that is due at the context's next bundle has not come: the bundle stalls, uncounted where all that is missing is (R65, R386). -/
def lateDue (s : State) (cid : Nat) : Option Bool :=
  let c := s.ctx cid
  let l := c.landing.filter fun l => l.late.isSome && !l.stop && decide (l.due ≤ c.n)
  if l.isEmpty then none
  else some (l.all fun x => match x.late.bind s.op? with
    | some o => uncounted s o
    | none => false)

/-! ### Stores, copies and arrivals that begin -/

/-- A run of bytes as a number line: device memory, scratchpads from 2^60, other parts from 2^63. -/
def runOf (g : Seg) : Nat × Nat :=
  match g.loc with
  | .dev a => (a, g.len)
  | .sp a => (2 ^ 60 + a, g.len)
  | .glob a => (a, g.len)
  | .ring a => (2 ^ 61 + a, g.len)

/-- Two runs share a byte. -/
def runsMeet (x y : Nat × Nat) : Bool := decide (x.1 < y.1 + y.2) && decide (y.1 < x.1 + x.2)

/-- Fetched chunks that a committed store of the context overlaps are fetched again (R190). -/
def dropOverlap (f : VFile) (runs : List (Nat × Nat)) : VFile :=
  { f with ports := f.ports.map fun (p : Nat × Port) =>
      (p.1, { p.2 with chunks := p.2.chunks.filter fun c => !c.runs.any fun x => runs.any (runsMeet x) }) }

/-- The cores that share a core's L1 (R271). -/
def l1Sharers (s : State) (core : Nat) : List Nat := if (s.stn (stationOf core)).fused then upto (core / 4 * 4) 4 else [core]

/-- The contexts of some cores changed, less the free ones. -/
def modCtxs (s : State) (cores : List Nat) (f : Ctx → Ctx) : State :=
  (cores.flatMap fun k => upto (k * 8) 8).foldl (init := s) fun s cid =>
    if (s.ctx cid).st == .free then s else s.modCtx cid f

/-- Every chunk that ports of some cores have fetched is fetched again (R190, R269). -/
def dropCoreChunks (s : State) (cores : List Nat) : State :=
  modCtxs s cores fun c => { c with v0 := dropChunks c.v0, v1 := dropChunks c.v1 }

/-- Chunks that a store of a core overlaps are fetched again (R190). -/
def snoop (s : State) (core : Nat) (runs : List (Nat × Nat)) : State :=
  modCtxs s (l1Sharers s core) fun c => { c with v0 := dropOverlap c.v0 runs, v1 := dropOverlap c.v1 runs }

/-- A store of a context has committed: its L1 copy and the ports see it (R190, R270). -/
def seenStore (s : State) (cid : Nat) (l : List Piece) : State :=
  let core := coreOf cid
  snoop (l.foldl (fun s p => l1Write s core p) s) core (l.map fun p => runOf ⟨p.loc, p.bytes.length⟩)

/-- A copy takes its channel (R254, R258). Of two copies of one bundle on one channel, that of C0 is the earlier (log entry 99). -/
def takeChan (s : State) (core ch : Nat) (o : Op) : State :=
  s.modCore core fun k => { k with chans := tput k.chans ch { run := some o.id, own := some o.own, wp := 0 } }

/-- An arrival is applied to a barrier of the task that it names (R157): the state, and whether it was counted. -/
def arriveAt (s : State) (cid ifc tseq b : Nat) (w : Word) : State × Bool :=
  let c := s.ctx cid
  if c.st == .free || c.st == .evicted || c.ifc != ifc || c.tseq != tseq then (s, false)
  else
    let r := arrive (tget {} c.b b) w
    (s.setCtx cid { c with b := tput c.b b r.1 }, r.2)

/-- The witness that answers a `barv`, merged with the inputs that it carried (R156, R295). -/
def arrivalWit (s : State) (counted : Bool) (w : Word) : Word := wMerge (mkWit 2 (!counted) false s.tick) w

/-- A ticket message of an operation to the port of another part (R364): `k` is 0 get, 1 wait, 2 done. -/
def sendTicket (s : State) (o : Op) (k part port tmo num : Nat) : State :=
  let s := s.beginOp o
  if part = s.fab.part then s
  else fabQueue s { id := 0, op := o.id, piece := 0, kind := 5, port := 0, link := 0, part := part,
                    req := { src := s.fab.part, port := port, op := k, len := tmo, seq := num, v := wd o.id } } port

/-- An operation that a bundle starts (R59): the ports of the context see its stores, atomics and `mst` (R190); barrier arrivals, atomics, joins and
requests for lines are messages of the Chive network (R341). -/
def startOp (s : State) (cid : Nat) (o : Op) : State :=
  match o.kind with
  | .barv t ifc tseq b w =>
    if t = cid then
      let r := arriveAt s cid ifc tseq b w
      r.1.setWit? cid o.wo (arrivalWit r.1 r.2 w)
    else sendChive (s.beginOp o) o.id (meshStation cid) (cidStation t)
  | .store x => (seenStore s cid x.left).beginOp o
  | .atomic x =>
    let s := snoop s (coreOf cid) [runOf ⟨x.loc, tySize x.ty⟩]
    match x.loc with
    | .dev _ => sendChive (s.beginOp o) o.id (meshStation cid) (locStation s x.loc).1
    | _ => s.beginOp o
  | .m m => (if m.kind == .mst then snoop s (coreOf cid) (m.linesA.flatten.map runOf) else s).beginOp o
  | .join .. => sendChive (s.beginOp o) o.id (meshStation cid) (64 * dieOf (coreOf cid))
  | .rload _ line _ _ _ =>
    if line < 2 ^ 55 then sendChive (s.beginOp o) o.id (meshStation cid) (locStation s (.dev (line * 256))).1 else s.beginOp o
  | .copy x => (takeChan s x.core x.ch o).beginOp o
  | .mcst x => (takeChan s x.core x.ch o).beginOp o
  | .tkget part port tmo => sendTicket s o 0 part port tmo 0
  | .tkwait part port num => sendTicket s o 1 part port 0 num
  | .tkdone part port num => sendTicket s o 2 part port 0 num
  | _ => s.beginOp o

/-! ### Items of an interface -/

/-- A staged item of the fabric owner replaces an earlier one of the same name (R419). -/
def stageItem (s : State) (n : Nat) (a b : Word) : State :=
  s.modFab fun f => { f with staged := f.staged.filter (fun (x : Nat × Nat × Word) => !(x.1 == n && x.2.1 == a.toNat)) ++ [(n, a.toNat, b)] }

/-- A Thyme write is staged for the die's next revolution (R419). -/
def stageThyme (s : State) (a b : Nat) : State :=
  let k := thymeKey (fld a 23 16) (fld a 12 10) (fld a 9 0)
  { s with thymeStaged := s.thymeStaged.filter (fun (p : Nat × BitVec 32) => p.1 != k) ++ [(k, BitVec.ofNat 32 b)] }

/-- A thaw frees the frozen contexts (R422). -/
def thaw (s : State) (ifc : Nat) : State :=
  ((frozenCtxs s ifc).foldl freeCtx s).modIfc ifc fun i => { i with frozen := false }

/-- `cslot` at its commit (R418, R419). -/
def applyItem (s : State) (ifc n : Nat) (a b : Word) : State :=
  let i := s.ifc ifc
  match n with
  | 0 => s.setIfc ifc { i with xlat := mixBits b i.xlat (BitVec.ofNat 64 (0xFFFF * 2 ^ 48 + 0x3FE)) }
  | 1 => s.setIfc ifc { i with qi := fld b.toNat 31 0 }
  | 2 => s.setIfc ifc { i with qm := fld b.toNat 39 0 }
  | 3 => s.setIfc ifc { i with polCore := fld b.toNat 1 0, polCluster := fld b.toNat 3 2, polIfc := fld b.toNat 5 4 }
  | 4 => s.setIfc ifc { i with dumpBase := a, dumpSize := b, dumpW := 0, dumpA := 0 }
  | 5 => s.setIfc ifc { i with dumpA := i.dumpA + b.toNat }
  | 6 => s.setIfc ifc { i with evb := b }
  | 7 => stageThyme s a.toNat b.toNat
  | 8 =>
    s.modDie (a.toNat / 256) fun d =>
      let g := tget {} d.grp (a.toNat % 256)
      { d with grp := tput d.grp (a.toNat % 256) { g with ht := b.toNat } }
  | 14 => thaw s ifc
  | n => stageItem s n a b

/-- `hsig` at its commit (R416): the message and the interrupt. -/
def applyHsig (s : State) (ifc : Nat) (a b : Word) : State :=
  let i := s.ifc ifc
  let s := { s with hostMem := memPut s.hostMem (i.hmb.toNat + 16 * (i.hsc.toNat % 64)) (wordBytes [a, b]) }
  interrupt (s.modIfc ifc fun i => { i with hsc := i.hsc + 1 }) ifc

/-- A cache after an invalidation (R403): entries of the interface that overlap the range go, the others take the generation. -/
def cacheDrop (t : List Xlat) (ifc a len gen : Nat) : List Xlat :=
  (t.filter fun x => !(x.ifc == ifc && decide (x.va < a + len) && decide (a < x.va + x.size))).map fun x =>
    if x.ifc == ifc then { x with gen := gen } else x

/-- Every cache of the part after an invalidation (R403). -/
def dropXlat (s : State) (ifc a len gen : Nat) : State :=
  { s with cores := s.cores.map fun (p : Nat × Core) => (p.1, { p.2 with tlb := cacheDrop p.2.tlb ifc a len gen }),
           stations := s.stations.map fun (p : Nat × Station) => (p.1, { p.2 with tlb := cacheDrop p.2.tlb ifc a len gen }),
           fab := { s.fab with
             ports := s.fab.ports.map fun (p : Nat × FPort) => (p.1, { p.2 with tlb := cacheDrop p.2.tlb ifc a len gen }) } }

/-- `xinv` at its commit (R403, R417). -/
def applyXinv (s : State) (ifc a len : Nat) (o : Op) : State :=
  let g := (xlatGen s ifc + 1) % 65536
  let s := s.modIfc ifc fun i => { i with xlat := mixBits i.xlat (wd (g * 2 ^ 48)) (BitVec.ofNat 64 (0xFFFF * 2 ^ 48)) }
  (dropXlat s ifc a len g).beginOp o

/-- The part reports drained once it holds drain markers from every peer on every path (R365, R420). -/
def checkDrained (s : State) : State :=
  let all := s.peers.all fun p => (routePorts s p).all fun q => (linksUp (s.port q)).all fun l =>
    s.fab.drained.contains (p * 128 + q * 4 + l)
  match s.fab.drainWit with
  | some id =>
    if s.fab.drain ≠ 0 ∧ all then
      let s := s.modFab fun f => { f with drainWit := none }
      match s.op? id with
      | some o => s.finish o (mkWit 3 false false s.tick)
      | none => s
    else s
  | none => s

/-- `fdrain` at its commit (R365, R420): timers stop, markers enter every queue behind what it holds, and new requests wait. -/
def applyFdrain (s : State) (next : BitVec 32) (id : Nat) : State :=
  let held := s.fab.sends.map fun m => { m with ran := timerOf s m }
  let marks := s.peers.flatMap fun p => (routePorts s p).flatMap fun q => (linksUp (s.port q)).map fun l => (p, q, l)
  let s := s.modFab fun f => { f with drain := 1, locked := false, nextGroup := some next.toNat, drainWit := some id, sends := held }
  let s := marks.foldl (init := s) fun s m =>
    let (n, s) := s.newId
    s.modFab fun f => { f with sends := f.sends ++ [{ id := n, op := 0, piece := 0, kind := 2, port := m.2.1, link := m.2.2, part := m.1 }] }
  checkDrained s

/-- `fdrain.lock` at its commit (R420); its operation ends at relock. -/
def applyLock (s : State) : State := s.modFab fun f => { f with locked := true }

/-! ### Group loads -/

/-- `gld` at its commit (R284, R285): it takes its sequence. -/
def applyGld (s : State) (cid : Nat) (o : Op) : State :=
  match o.kind with
  | .gld x =>
    match tget none (s.ctx cid).ge x.e with
    | none => s
    | some n =>
      let q := n.nseq
      let s := s.modCtx cid fun c => { c with ge := tput c.ge x.e (some { n with nseq := q + 1 }) }
      let s := s.modDie x.die fun d =>
        let g := tget {} d.grp n.grp
        let h := if (q + 1 - g.hseq).toNat < 2 ^ 31 then q + 1 else g.hseq
        { d with grp := tput d.grp n.grp { g with hseq := h, mem := g.mem.map fun m => if m.1 == cid then (m.1, m.2.1, q + 1) else m } }
      s.beginOp { o with kind := .gld { x with g := n.grp, q := q } }
  | _ => s

/-! ### Effects -/

/-- One effect of a bundle of a context at its commit (R58, R59). Transfers and the end of a task are the sequencer's. -/
def applyEff (cid : Nat) (s : State) (e : Eff) : State :=
  let ifc := (s.ctx cid).ifc
  match e with
  | .land l => s.modCtx cid fun c => { c with landing := c.landing ++ [l] }
  | .wset r v => s.setWit cid r v
  | .start o => startOp s cid o
  | .cont a => s.modCtx cid fun c => { c with cont := a }
  | .flags r m => s.modCtx cid fun c => setFlags c r m
  | .bari b n =>
    s.modCtx cid fun c =>
      let x : Barrier := tget {} c.b b
      let y : Barrier := if n = 0 then { gen := x.gen } else { gen := x.gen, exp := BitVec.ofNat 12 n, arm := true }
      { c with b := tput c.b b y }
  | .barl b w => s.modCtx cid fun c => { c with b := tput c.b b (arrive (tget {} c.b b) w).1 }
  | .rearm b =>
    s.modCtx cid fun c =>
      let x : Barrier := tget {} c.b b
      if x.arm && x.done then { c with b := tput c.b b { x with arr := 0, done := false, w := 0 } } else c
  | .retOr m => s.modCtx cid fun c => { c with ret := c.ret ||| m }
  | .retAnd m => s.modCtx cid fun c => { c with ret := c.ret &&& ~~~m }
  | .gens f g => s.modCtx cid fun c => c.modVf f fun x => { x with gen := g.foldl (fun t p => tput t p.1 p.2) x.gen }
  | .port f p v => s.modCtx cid fun c => c.modVf f fun x =>
    { x with ports := tput x.ports p { v with chunks := v.chunks.filter (tget {} x.ports p).chunks.contains } }
  | .wall r cp =>
    let c := s.ctx cid
    let v := if cp then wMerge c.wsto c.wcpy else c.wsto
    (s.setCtx cid { c with wsto := 0, wcpy := if cp then 0 else c.wcpy }).setWit cid r v
  | .gleave e _ => leaveGroup s cid e
  | .lm or m => s.modCtx cid fun c => { c with lm := if or then c.lm ||| m else c.lm &&& ~~~m }
  | .mbox a => s.modCtx cid fun c => { c with mb := a }
  | .limits dl mo => s.modCtx cid fun c => { c with dl := dl, mo := mo }
  | .cmap v => s.modStn (cidStation cid) fun t => { t with cmap := tput t.cmap ifc v }
  | .pace v => s.modStn (cidStation cid) fun t => { t with pace := tput t.pace ifc v }
  | .decl d f tag => applyDecl s cid d f tag
  | .rtset d f slot v => applyRtset s cid d f slot v
  | .rtrel d f slot => applyRtrel s cid d f slot
  | .item n a b => applyItem s ifc n a b
  | .hsig a b => applyHsig s ifc a b
  | .xinv _ a len o => applyXinv s ifc a len o
  | .fdrain lock next r => if lock then applyLock s else applyFdrain s next r
  | .snapAt rcd step o => applySnapAt s ifc rcd step o
  | .snapStep r w => applySnapStep s cid ifc r w
  | .snapDis => applySnapDis s ifc
  | .shadow drain va r => applyShadow s cid drain va r
  | .invLine pa glob => dropCoreChunks (l1Drop s (coreOf cid) (pa / 256) glob) (l1Sharers s (coreOf cid))
  | .pub rcd addr slot tag win _ r => applyPub s cid rcd addr slot tag win r
  | .walk desc tgts f d o => applyWalk s cid desc tgts f d o
  | .permit h b win r => applyPermit s cid h b win r
  | .launch e =>
    let core := (bestCore s (openCores s e.ifc (placement e.lb))).getD 0
    (s.modIfc e.ifc fun i => { i with tseq := e.tseq }).beginOp
      { id := e.id, own := { cid := cid, uid := (s.ctx cid).uid, ifc := ifc }, kind := .enqueue e core }
  | .gld o => applyGld s cid o
  | .vjoin w => joinViews s (wTick w)
  | .w1c _ _ | .jump _ | .exit _ | .tret | .tkill _ | .swtrap _ | .rearmT _ | .viol _ => s

end Sys2Proof.Machine
end

