-- ==== Sys2Proof/Machine/Bundle.lean ====
section
/-! DEFINITION. The sequencer: issuing a dynamic bundle, its commit with the budget check, yields, asynchronous faults, hangs and
ephemeral registers (R38, R50, R55–R63, R67, R115, R119, R123, R127, R167–R171, R374–R386, R411). -/
namespace Sys2Proof.Machine

/-! ### The checks of a bundle -/

/-- The slots that name a crossing name, as (slot, name) (R56). -/
def groupEntry (ws : List (Slot × Instr)) (sync : BitVec 6) : GrpEnt :=
  let of := fun (f : Uses → List Nat) => ws.flatMap fun p => (f p.2.uses).map fun n => (slotNo p.1, n)
  { names := of (·.nm), writes := of (·.wr), sync := sync }

/-- Two slots are joined by a SYNC of one of the bundles (R56). -/
def joined (l : List GrpEnt) (a b : Nat) : Bool := l.any fun e => e.sync.getLsbD a && e.sync.getLsbD b

/-- Whether a slot of the younger bundle crosses an older bundle without SYNC (R56): `later` are the bundles after the older one. -/
def crosses (older young : GrpEnt) (later : List GrpEnt) (sl : Nat) : Bool :=
  let hit := fun (mine theirs : List (Nat × Nat)) =>
    mine.any fun x => x.1 == sl && theirs.any fun y => y.1 != sl && y.2 == x.2 && !joined later sl y.1
  hit young.names older.writes || hit young.writes older.names

/-- Whether a slot of the bundle breaks its group (R56). -/
def breaksGroup (grp : List GrpEnt) (e : GrpEnt) (rep : Nat) (sl : Nat) : Bool :=
  let mine := fun (l : List (Nat × Nat)) => l.filter (·.1 == sl)
  let others := fun (l : List (Nat × Nat)) => l.filter (·.1 != sl)
  let meet := fun (a b : List (Nat × Nat)) => a.any fun x => b.any fun y => x.2 == y.2
  meet (mine e.writes) (others e.writes) ||
  (rep != 0 && (meet (mine e.writes) (others e.names) || meet (mine e.names) (others e.writes))) ||
  (List.range grp.length).any fun i => crosses (grp.getD i ⟨[], [], 0⟩) e (grp.drop (i + 1) ++ [e]) sl

/-- An instruction that ends its bundle's group by a transfer or an end (R55, R160). -/
def endsGroup (sl : Slot) (i : Instr) : Bool :=
  sl == .s && (let o := i.opcode; (0x40 ≤ o && o < 0x60) || o == 0xA0 || o == 0xB2 || o == 0xB3)

/-- The restrictions of R55 on one slot. -/
def restricted (s : State) (cid : Nat) (h : Header) (sl : Slot) (i : Instr) : Option Code :=
  let o := i.opcode
  let stream := isStream cid
  if (!stream && sl == .s && 0xC0 ≤ o && o < 0xD0) || (stream && sl != .s) ||
      (stream && (o == 0x65 || (0x90 ≤ o && o < 0x9A) || o == 0xA0 || o == 0xA1)) then some .illop
  else if !stream && sl == .s && o == 0xA3 then some .priv
  else if (sl == .c0 || sl == .c1) && 0x80 ≤ o && o < 0x90 && (s.ctx cid).lb.prio != 7 then some .priv
  else if endsGroup sl i && (!h.stop || h.rep != 0 || i.stk) then some .illenc
  else if sl == .s && o == 0xA0 && h.yield && h.wk != 0 then some .illenc
  else none

/-- A field that the word's entry forbids on the kind of core that runs it (R50): a handle in `budrd` of a compute core (R129), and a
special register that a stream core lacks (R148). -/
def badHere (stream : Bool) : Instr → Bool
  | .budrd f => !stream && f.a != 0
  | .mfsr f | .mtsr f => stream && !srStream (f.imm.extractLsb' 0 12).toNat
  | _ => false

/-- The decoding of a slot word as a check sees it. -/
def decodesTo (p : Slot × Word) (e : DecErr) : Bool :=
  match decodeSlot p.1 p.2 with
  | .error x => x == e
  | .ok _ => false

/-- The instructions of words that decode. -/
def decoded (l : List (Slot × Word)) : List (Slot × Instr) :=
  l.filterMap fun p => match decodeSlot p.1 p.2 with
    | .ok i => some (p.1, i)
    | .error _ => none

/-- The faults of the first check that fails, by slot (R50, R55, R56). -/
def checkBundle (s : State) (cid : Nat) (h : Header) (rep : Nat) (l : List (Slot × Word)) : List (Slot × Code) :=
  let c := s.ctx cid
  let ws := decoded l
  let e := groupEntry ws h.sync
  let a := (l.filter (decodesTo · .illop)).map fun p => (p.1, Code.illop)
  let b := (l.filter (decodesTo · .illenc)).map (fun p => (p.1, Code.illenc)) ++
    (ws.filter fun p => p.2.badImm h.immv h.bimm || badHere (isStream cid) p.2).map fun p => (p.1, Code.illenc)
  let r := if isStream cid then [] else (ws.filter fun p => !p.2.uses.fits c.lb p.1).map fun p => (p.1, Code.regrange)
  let g := if rep ≠ 0 ∧ !c.group.isEmpty then []
    else (ws.filter fun p => breaksGroup c.group e h.rep (slotNo p.1)).map fun p => (p.1, Code.grpdep)
  let x := ws.filterMap fun p => (restricted s cid h p.1 p.2).map fun k => (p.1, k)
  if !a.isEmpty then a else if !b.isEmpty then b else if !r.isEmpty then r else if !g.isEmpty then g else x

/-! ### Fetching and issuing -/

/-- A context that may issue a bundle (R32, R103, R411); a fault queued for it waits for the bundle (R375). -/
def canIssue (s : State) (cid : Nat) : Bool :=
  let c := s.ctx cid
  (c.st == .running || c.st == .inHandler) && c.yield.isNone && !c.returning && !s.iss.on &&
    (isStream cid || (s.core (coreOf cid)).run == some (ctxNo cid))

/-- Eight bytes of a bundle, or the header fault of their fetch with the sector to mark (R374). -/
def fetchWord (s : State) (cid : Nat) (a : Nat) : Except (Flt × List Seg) Word :=
  match resolve s (s.who cid) { fetch := true, loc := false } false a 8 with
  | .error (c, x) => .error ({ cls := 0, code := c.num, addr := wd x }, walkBad s (s.who cid) x)
  | .ok segs =>
    match badSeg s 0 segs with
    | some (c, off) => .error ({ cls := 0, code := c.num, addr := wd (max a ((a + off) / 64 * 64)) }, segAt segs 0)
    | none => .ok (wd (leNat (readSegs s segs)))

/-- Where the words of a bundle lie. -/
def bundleSegs (s : State) (cid pc n : Nat) : List Seg :=
  (List.range n).flatMap fun i => match resolve s (s.who cid) { fetch := true, loc := false } false ((pc + 8 * i) % 2 ^ 64) 8 with
    | .ok l => l
    | .error _ => []

/-- The slot words of a bundle, in order (R34). -/
def fetchWords (s : State) (cid : Nat) : (l : List Slot) → (a : Nat) → Except (Flt × List Seg) (List (Slot × Word))
  | [], _ => .ok []
  | sl :: l, a =>
    match fetchWord s cid a with
    | .error e => .error e
    | .ok w => match fetchWords s cid l (a + 8) with
      | .error e => .error e
      | .ok t => .ok ((sl, w) :: t)

/-- A bundle fetched and its header checked (R38, R374). -/
def fetchBundle (s : State) (cid : Nat) (pc : Nat) : Except (Flt × List Seg) (Header × List (Slot × Word)) :=
  if pc % 8 ≠ 0 then .error ({ cls := 0, code := Code.align.num, addr := wd pc }, [])
  else match fetchWord s cid pc with
    | .error e => .error e
    | .ok w => match decodeHeader (isStream cid) w with
      | none => .error ({ cls := 0, code := Code.illenc.num, addr := wd pc }, [])
      | some h => match fetchWords s cid (presSlots h.pres) ((pc + 8) % 2 ^ 64) with
        | .error e => .error e
        | .ok l => .ok (h, l)

/-- The slots in PRES order. -/
def allSlots : List Slot := [.s, .v0, .v1, .m, .c0, .c1]

/-- The words that a dynamic bundle issues with their sticky indices: those present, and active sticky words of absent slots
(R61, R62). -/
def issued (c : Ctx) (rep : Nat) (l : List (Slot × Word)) : List (Slot × Word × Nat) :=
  allSlots.filterMap fun sl =>
    match l.find? (·.1 == sl), c.sticky.find? (·.1 == slotNo sl) with
    | some p, some k => some (sl, p.2, if rep ≠ 0 ∧ k.2.word = p.2 then k.2.j else 0)
    | some p, none => some (sl, p.2, 0)
    | none, some k => some (sl, k.2.word, k.2.j)
    | none, none => none

/-- The sticky words that stay active after the bundle (R61, R62); a sticky `nop` is one of them (R49; log entry 98). -/
def stickyAfter (l : List (Slot × Word × Nat)) : Tbl Sticky :=
  l.filterMap fun p => if p.2.1.getLsbD 55 then some (slotNo p.1, { word := p.2.1, j := p.2.2 + 1 }) else none

/-- The commit buffer of a bundle that faults before any slot executes. -/
def faultedIssue (c : Ctx) (cid : Nat) (f : Flt) (marks : List Seg) : Issue :=
  { on := true, cid := cid, pc := c.pc, rep := c.rep, hdr := some f, marks := marks }

/-- The dynamic bundle at a context's pc, checked and ready for its slots (R38, R50, R57). -/
def issueBundle (s : State) (cid : Nat) : State :=
  let s := landDue s cid false
  let s := s.modCtx cid fun c => if c.group.isEmpty then { c with sg := c.s } else c
  let c := s.ctx cid
  let pc := c.pc.toNat
  match lateDue s cid with
  | some idle => { s with iss := { on := true, cid := cid, pc := c.pc, rep := c.rep, stall := true, idle := idle } }
  | none =>
    match c.wakeFault with
    | some f => { s with iss := faultedIssue c cid { f with addr := if f.addr = 0 then c.pc else f.addr } [] }
    | none =>
      match fetchBundle s cid pc with
      | .error (f, m) => { s with iss := faultedIssue c cid f m }
      | .ok (h, l) =>
        let s := noteCe (touchXlat s (s.who cid) pc (8 + 8 * l.length)) (bundleSegs s cid pc (l.length + 1))
        let opens := c.rep == 0 || c.group.isEmpty
        if opens && 16 ≤ c.group.length then
          { s with iss := faultedIssue c cid { cls := 1, code := Code.illenc.num, addr := c.pc } [] }
        else
          let ws := issued c c.rep l
          let bad := checkBundle s cid h c.rep (ws.map fun p => (p.1, p.2.1))
          let todo := ws.filterMap fun p => match decodeSlot p.1 p.2.1 with
            | .ok i => some (p.1, p.2.2, i)
            | .error _ => none
          let grp := if opens then some (groupEntry (todo.map fun p => (p.1, p.2.2)) h.sync) else none
          { s with iss :=
            { on := true, cid := cid, pc := c.pc, len := 8 + 8 * l.length, rep := c.rep, repN := h.rep, stop := h.stop, yield := h.yield,
              wk := h.wk, wr := h.wr, sync := h.sync, bimm := h.bimm, immv := h.immv, todo := if bad.isEmpty then todo else [],
              sticky := stickyAfter ws, grp := grp,
              flts := bad.map fun p => (p.1, { cls := 1, code := p.2.num, addr := c.pc }) } }

/-- R57: operand `a` names the context. -/
def execBundleIssue (s : State) : Res := .next (if canIssue s s.arg.a then issueBundle s s.arg.a else s)

/-- The file, by slot, into which an effect brings a result (R378): some effects of the copy slots land their result as they commit. -/
def Eff.fills : Eff → Option Nat
  | .land l => some l.dst.owner
  | .decl d f _ | .rtset d f _ _ | .rtrel d f _ | .walk _ _ f d _ => some (Dst.owner (.a f d))
  | _ => none

/-- More than 256 results would be in flight to some file that the bundle's results land in (R378). Results that a trap captured count
again once the handler has returned (log entry 100). -/
def overfull (s : State) : Bool :=
  let mine := s.iss.effs.filterMap Eff.fills
  let all := (s.me.landing.map (·.dst.owner)) ++ mine
  (List.range 6).any fun f => mine.contains f && decide (256 < (all.filter (· == f)).length)

/-- R378: a bundle that would bring more than 256 results in flight to one file faults, at the slot that does so and at every later one: the
count stays above the limit (DESIGN CHOICE, log entry 100: the spec does not say which slots `fault.mask` then names). -/
def checkQueue (s : State) : State :=
  if overfull s && !(s.iss.flts.any fun p => p.1 == s.iss.cur) then s.faultB .illenc else s

/-! ### Commit -/

/-- A stalled bundle is abandoned: it asks for refills and lines, and its wait counts towards a hang (R246, R268, R386). -/
def abandon (s : State) (i : Issue) : State :=
  let s := { s with iss := {} }
  let s := s.modCtx i.cid fun c =>
    { c with stallT := if i.idle then c.stallT else c.stallT + (s.now - c.lastTry), lastTry := s.now,
             refill := c.refill ++ i.fills.filter (!c.refill.contains ·) }
  let core := coreOf i.cid
  i.lines.foldl (init := s) fun s l =>
    let k : OpKind := .rload core l.1 l.2.1 l.2.2.1 false
    if s.ops.any fun o => o.own.cid == i.cid && o.kind == k && o.win == l.2.2.2 then s
    else
      let (id, s) := s.newId
      let c := s.ctx i.cid
      { s with ops := s.ops ++ [{ id := id, own := { cid := i.cid, uid := c.uid, ifc := c.ifc, tseq := c.tseq }, win := l.2.2.2, kind := k }] }

/-- The trap of a bundle (R374, R375): the lowest faulting slot's fault, with the mask of all. An asynchronous or engine fault that was to fall on
the bundle stays queued behind it (R381). -/
def bundleTrap (s : State) (i : Issue) : State :=
  let s := i.soft.foldl (fun s u => dillAdd s 5 u) (markPoison { s with iss := {} } i.marks)
  let s := s.modCtx i.cid fun c => holdFour { c with wakeFault := none }
  match i.hdr with
  | some f => trapEntry s i.cid f
  | none =>
    let mask := allSlots.foldl (fun m sl => if i.flts.any (·.1 == sl) then m + 2 ^ slotNo sl else m) 0
    match (allSlots.findSome? fun sl => i.flts.find? (·.1 == sl)) with
    | some p => trapEntry s i.cid { p.2 with mask := mask }
    | none => s

/-- An asynchronous or engine fault is due at a context's oldest uncommitted bundle (R374, R381): outside a handler. -/
def asyncDue (c : Ctx) : Bool := !c.queued.isEmpty && c.resume.isNone

/-- The oldest queued fault is taken, and the bundle is discarded (R374, R381). -/
def takeAsync (s : State) (cid : Nat) : State :=
  match (s.ctx cid).queued with
  | [] => s
  | f :: fs => trapEntry ({ s with iss := {} }.modCtx cid fun c => { c with queued := fs, yield := none }) cid f

/-- The budgets of successors (R123), from the parent's remainder. -/
def succBudget (s : State) (ifc : Nat) (remI remM : Nat) (b : LaunchBlk) : Nat × Nat :=
  if b.inh then (remI * (b.inhfr + 1) / 256, remM * (b.inhfr + 1) / 256)
  else (min b.bi (s.ifc ifc).qi, min b.bm (s.ifc ifc).qm)

/-- What reserving entries for successors gives: the state, the successors that have a place with their entries, and those that found no
free entry. -/
structure Places where
  s : State
  got : List (LaunchBlk × Nat) := []
  short : List LaunchBlk := []

/-- Places for successors on the cores of their sets, one after the other (R108, R122). -/
def reserve (ifc : Nat) (l : List LaunchBlk) (s : State) : Places :=
  l.foldl (init := { s := s }) fun p b =>
    match bestCore p.s (openCores p.s ifc (placement b)) with
    | none => { p with short := p.short ++ [b] }
    | some core =>
      let (id, s) := p.s.newId
      let q : QEntry := { id := id, lb := b, ifc := ifc, tseq := 0, evict := false, pend := true, rtick := 0, prio := b.prio, age := 0, bi := 0, bm := 0 }
      let o : Op := { id := id, own := { cid := 0, uid := 0, ifc := ifc }, kind := .enqueue q core }
      { p with s := { s with ops := s.ops ++ [o] }, got := p.got ++ [(b, id)] }

/-- A reserved entry takes its handle and budgets (R110, R123). -/
def nameSucc (s : State) (ifc : Nat) (remI remM : Nat) (p : LaunchBlk × Nat) : State :=
  let t := ((s.ifc ifc).tseq + 1) % 2 ^ 40
  let b := succBudget s ifc remI remM p.1
  let s := s.modIfc ifc fun i => { i with tseq := t }
  match s.op? p.2 with
  | some o => match o.kind with
    | .enqueue q core => s.setOp o.id (.enqueue { q with tseq := t, bi := b.1, bm := b.2 } core)
    | _ => s
  | none => s

/-- The successors of an `exit` in the bundle, if it has one (R127). -/
def exitOf (i : Issue) : Option (List LaunchBlk) := i.effs.findSome? fun e => match e with | .exit l => some l | _ => none

/-- A budget after the emergency grant (R119); a sum beyond the register's width is a free value (log entry 24). -/
def granted (width b : Nat) : Nat := if b + 256 < 2 ^ width then b + 256 else Config.overGrant width b % 2 ^ width

/-- The transfer of a budget exhaustion (R119, R189). -/
def toContinuation (s : State) (i : Issue) : State :=
  s.modCtx i.cid fun c =>
    let c := unland c
    { c with exh := true, bi := granted 32 c.bi, bm := granted 40 c.bm, xpc := i.pc, xrep := i.rep, pc := c.cont, rep := 0, sticky := [],
             group := [], sg := [], v0 := dropChunks c.v0, v1 := dropChunks c.v1, lent := [] }

/-- A bundle above the budget (R119, R120, R380). In a handler it is the failure of the handler’s budget, also where an exit asks for more
than the remainder (R123; DESIGN CHOICE, log entry 78). -/
def exhausted (s : State) (i : Issue) : State :=
  let s := { s with iss := {} }
  let c := s.ctx i.cid
  if c.resume.isSome then trapEntry s i.cid { cls := 5, code := Code.hbud.num, addr := i.pc }
  else if !c.exh then toContinuation s i
  else startEvict s i.cid

/-- The charge of a bundle fits (R119, R380); a stream context outside its handler has no budget (R411). -/
def fitsBudget (c : Ctx) (stream : Bool) (ci cm : Nat) : Bool :=
  if c.resume.isSome then decide (ci ≤ c.hb) else stream || (decide (ci ≤ c.bi) && decide (cm ≤ c.bm))

/-- The charge of a bundle taken. -/
def payBudget (c : Ctx) (stream : Bool) (ci cm : Nat) : Ctx :=
  if c.resume.isSome then { c with hb := c.hb - ci } else if stream then c else { c with bi := c.bi - ci, bm := c.bm - cm }

/-- Where the sequencer goes after a committed bundle (R57, R60, R63). -/
def advance (c : Ctx) (i : Issue) (jump : Option Word) : Ctx :=
  let last := decide (i.repN ≤ i.rep)
  let closes := jump.isSome || (i.stop && last)
  let grp := match i.grp with | some g => c.group ++ [g] | none => c.group
  let pc := match jump with | some a => a | none => if last then i.pc + wd i.len else i.pc
  { c with pc := pc, rep := if last then 0 else i.rep + 1, n := c.n + 1, sticky := if closes then [] else i.sticky,
           group := if closes then [] else grp, stallT := 0, landed := [], lent := [] }

/-- A commit resets the retry count of its bundle and ends a chain that a policy resumed (R384). -/
def clearRetry (c : Ctx) (i : Issue) : Ctx :=
  let c := if c.retryPc = i.pc ∧ c.retryRep = i.rep then { c with retries := 0 } else c
  if c.resumedByPolicy then { c with resumedByPolicy := false, chain := [] } else c

/-- `xmv` results that waited for a STOP bundle are counted from it (R66): the last repetition of a STOP bundle is one, for an `xmv` of its own
earlier repetitions too (DESIGN CHOICE, log entry 88). -/
def passStop (c : Ctx) : Ctx :=
  { c with landing := c.landing.map fun l => if l.stop then { l with stop := false, due := max l.due (c.n + 1) } else l }

/-- The wait that a yield's kind selects (R36, R115, R119). -/
def waitOf (c : Ctx) (i : Issue) : Wait :=
  let w := match i.wk with
    | 1 => Wait.witness i.wr
    | 2 => .barrier i.wr
    | 3 => .group i.wr
    | 4 => .ring
    | 5 => .budget
    | _ => .none
  if c.exh then .topup w else w

/-- The effects of a bundle become architectural (R59). -/
def commitEffects (s : State) (i : Issue) : State :=
  let cid := i.cid
  let s := { s with iss := {} }
  let s := s.modCtx cid fun c => i.effs.foldl (fun c e => match e with | .w1c r m => clearFlags c r m | _ => c) c
  let s := if i.stop && decide (i.repN ≤ i.rep) then s.modCtx cid passStop else s
  let s := i.effs.foldl (applyEff cid) s
  let jump := i.effs.findSome? fun e => match e with | .jump a => some a | _ => none
  let s := if isStream cid then s else s.modCore (coreOf cid) fun k => { k with committed := k.committed + 1 }
  s.modCtx cid fun c => clearRetry { advance c i jump with lastTry := s.now } i

/-- The chain of a task that `tkill` ends (R381, R382): its cause at level handler, then the faults still queued. -/
def tkillChain (s : State) (c : Ctx) (cause : Nat) : List ChainEnt :=
  withQueued c (addChain c.chain
    { addr := c.flt.addr, tick := s.tick, code := c.flt.code, level := 4, policy := 0, cls := 5, cause := cause, retries := 0 })

/-- `tkill` at its commit (R382, R385): the chain is completed and kept with the interface, since no dump holds it (R387); the kill is
reported; a stream's stops the stream. -/
def tkillAt (s : State) (cid cause : Nat) : State :=
  let c := s.ctx cid
  let chain := tkillChain s c cause
  let s := s.modCtx cid fun c => { c with chain := chain, queued := [] }
  if isStream cid then streamStop s c.ifc c.flt.code
  else
    let s := s.modIfc c.ifc fun i => { i with tkillChain := chain }
    endTask (postEvent s c.ifc 1 c.tseq cause c.flt.code (BitVec.allOnes 64)) cid

/-- Results of the context are still in flight (R67, R127, R160). -/
def stillLanding (s : State) (cid : Nat) : Bool :=
  let c := s.ctx cid
  c.landing.any (·.late.isSome) || scalesOpen s { cid := cid, uid := c.uid }

/-- A handler returns once every result of its own bundles has landed (R160, R382). -/
def returnOnce (s : State) (cid : Nat) : State :=
  if stillLanding s cid then s.modCtx cid fun c => { c with returning := true }
  else trapReturn ((landDue s cid true).modCtx cid fun c => { c with returning := false }) cid

/-- What follows the effects: a return, a kill, a software trap or a yield (R67, R147, R160). -/
def afterCommit (s : State) (i : Issue) : State :=
  let cid := i.cid
  let s := i.effs.foldl (init := s) fun s e => match e with
    | .tret => returnOnce s cid
    | .tkill n => tkillAt s cid n
    | .swtrap n => trapEntry s cid { cls := 2, code := Code.swtrap.num, mask := 1, addr := i.pc, cause := n }
    | _ => s
  if i.yield && (s.ctx cid).uid != 0 && !(i.effs.any fun e => match e with | .swtrap _ => true | _ => false) then
    s.modCtx cid fun c => { c with yield := some (waitOf c i), topped := false }
  else s

/-- Results or M operations of the context are still in flight (R67, R115, R217). -/
def stillDraining (s : State) (cid : Nat) : Bool :=
  stillLanding s cid || s.ops.any fun o => o.own.cid == cid && o.own.uid == (s.ctx cid).uid && match o.kind with
    | .m _ => !o.held
    | _ => false

/-- What a draining yield waits for is not counted towards a hang (R386). -/
def drainIdle (s : State) (cid : Nat) : Bool :=
  let c := s.ctx cid
  (s.ops.filter fun o => o.own.cid == cid && o.own.uid == c.uid && match o.kind with
    | .m _ | .mscl .. => true
    | _ => c.landing.any (·.late == some o.id)).all (uncounted s)

/-- `exit` at its commit (R122, R123, R127): places, budgets, successors, and the end of the task. -/
def commitExit (s : State) (i : Issue) (succ : List LaunchBlk) : State :=
  let cid := i.cid
  let c := s.ctx cid
  let ci := max 1 i.ci
  let r := reserve c.ifc succ { s with iss := {} }
  if stillLanding s cid then abandon s i
  else if !r.short.isEmpty then
    let s := { s with iss := {} }
    let sets := r.short.map fun b => (placement b).map fun k => (k, freeEntries s k)
    let s := s.modCtx cid fun c => { unland c with st := .waiting, wait := .queue sets, met := none }
    s.modCore (coreOf cid) fun k => { k with run := none }
  else if !fitsBudget c false ci i.cm then exhausted s i
  else
    let inH := c.resume.isSome
    let remI := if inH then c.bi else c.bi - ci
    let remM := if inH then c.bm else c.bm - i.cm
    let b := succ.map (succBudget s c.ifc remI remM)
    if remI < (b.map (·.1)).foldl (· + ·) 0 ∨ remM < (b.map (·.2)).foldl (· + ·) 0 then exhausted s i
    else leaveTask (r.got.foldl (fun s p => nameSucc s c.ifc remI remM p) (commitEffects r.s i)) cid

/-- The violation that a bundle commits (R156): a `barv` whose name its interface does not own. -/
def violates (i : Issue) : Option Word := i.effs.findSome? fun e => match e with | .viol a => some a | _ => none

/-- A violation freezes the bundle's interface, and the bundle is discarded (R421; log entry 105). -/
def violate (s : State) (i : Issue) (a : Word) : State :=
  let s := { s with iss := {} }.modCtx i.cid fun c => { c with disc := [(i.pc, i.rep)] }
  freeze s (s.ctx i.cid).ifc a (isStream i.cid)

/-- The commit of the bundle in the buffer (R59, R119, R375, R421): a precise fault once every slot has executed or faulted, then a fault
queued for the bundle, then a stall. A bundle that violates charges nothing (log entry 105). -/
def commitBundle (s : State) : State :=
  let i := s.iss
  let stream := isStream i.cid
  if i.hdr.isSome then bundleTrap s i
  else if !i.flts.isEmpty then (if i.stall then abandon s i else bundleTrap s i)
  else if asyncDue (s.ctx i.cid) then takeAsync s i.cid
  else if i.stall then abandon s i
  else match i.viol with
    | some a => violate s i a
    | none => match exitOf i with
      | some succ => commitExit s i succ
      | none =>
        let ci := max 1 i.ci
        if !fitsBudget (s.ctx i.cid) stream ci i.cm then exhausted s i
        else match violates i with
          | some a => violate s i a
          | none => afterCommit (commitEffects (s.modCtx i.cid fun c => payBudget c stream ci i.cm) i) i

/-- R59: operand `a` names the context whose bundle is in the buffer. -/
def execBundleCommit (s : State) : Res := .next (if s.iss.on && s.iss.cid == s.arg.a then commitBundle s else s)

/-! ### Waking -/

/-- The commit count of a core (R114). -/
def commits (s : State) (core : Nat) : Nat := (s.core core).committed

/-- A waiting context becomes ready (R103, R115), at the tick since which its condition holds. -/
def makeReady (s : State) (cid : Nat) (f : Ctx → Ctx) : State :=
  let n := commits s (coreOf cid)
  s.modCtx cid fun c => { f c with st := .ready, rtick := c.met.getD s.tick, met := none, age := n }

/-- A wait ends in a trap at the context's next bundle (R115, R356). -/
def wakeTrap (s : State) (cid : Nat) (code : Code) (cause : Nat) : State :=
  makeReady s cid fun c => { c with wakeFault := some { cls := 1, code := code.num, cause := cause } }

/-- The record that a wait on a ring looks for has been written (R115, R260). -/
def ringMet (s : State) (cid : Nat) : Bool :=
  match tget none (s.core (coreOf cid)).lastRec (ctxNo cid) with
  | some k => decide ((k - (s.ctx cid).rrp).toNat < 2 ^ 31)
  | none => false

/-- The condition of a wait holds (R115, R122). -/
def waitMet (s : State) (cid : Nat) (w : Wait) : Bool :=
  let c := s.ctx cid
  match w with
  | .none => true
  | .witness r =>
    let x : WReg := tget {} c.w r
    x.pend.isNone && ((wPsn x.val && !wNull x.val) || sat s x.val || (winTimedOut s x.val).isSome)
  | .barrier b =>
    let x : Barrier := tget {} c.b b
    !x.arm || x.done
  | .group e => !s.ops.any fun o => o.own.cid == cid && o.own.uid == c.uid && match o.kind with | .gld x => x.e == e | _ => false
  | .ring => ringMet s cid
  | .budget => c.topped
  | .topup w => c.topped && waitMet s cid w
  | .queue sets => sets.isEmpty

/-- A wait kind other than queue space, once its condition holds (R115, R260). -/
def wakeOn (s : State) (cid : Nat) (w : Wait) : State :=
  let c := s.ctx cid
  if !waitMet s cid w then s
  else match w with
    | .witness r =>
      let x : WReg := tget {} c.w r
      if wPsn x.val && !wNull x.val then wakeTrap s cid .wpoison 0
      else if sat s x.val then makeReady s cid id
      else wakeTrap s cid .wintmo ((winTimedOut s x.val).getD 0)
    | .ring => makeReady s cid fun c => { c with rrp := (s.core (coreOf cid)).ringCount }
    | .queue _ => s
    | _ => makeReady s cid id

/-- A waiting context looked at (R115, R119, R381): a queued fault wakes it, and a top-up brings a recorded wait into force. -/
def wakeCtx (s : State) (cid : Nat) : State :=
  let c := s.ctx cid
  if c.st != .waiting then s
  else if !c.queued.isEmpty && c.resume.isNone then makeReady s cid id
  else match c.wait with
    | .topup w => if c.topped then wakeOn (s.modCtx cid fun c => { c with wait := w }) cid w else s
    | w => wakeOn s cid w

/-- A waiting context whose condition holds remembers since when (R115): `t` gives the tick for the witness that it waits for. -/
def ctxMet (s : State) (t : Word → Nat) (cid : Nat) (c : Ctx) : Ctx :=
  if c.st == .waiting && c.met.isNone && ((!c.queued.isEmpty && c.resume.isNone) || waitMet s cid c.wait) then
    { c with met := some (t (match c.wait with
      | .witness r | .topup (.witness r) => (tget {} c.w r).val
      | _ => 0)) }
  else c

/-! ### Yields and landings -/

/-- A wait for results goes on: it counts towards a hang unless nothing that it waits for does (R386). -/
def drainOn (s : State) (cid : Nat) : State :=
  s.modCtx cid fun c => { c with stallT := if drainIdle s cid then c.stallT else c.stallT + (s.now - c.lastTry), lastTry := s.now }

/-- R67, R113, R115, R160, R386: operand `a` names the context. A return that waits for results ends the handler once they have landed; a yield
ends the run once nothing is in flight, and the context is ready at once where its condition holds. -/
def execYieldBundle (s : State) : Res :=
  let cid := s.arg.a
  let c := s.ctx cid
  .next (if c.returning then
      if c.st != .inHandler then s else if stillLanding s cid then drainOn s cid else returnOnce s cid
    else match c.yield with
    | none => s
    | some w =>
      if c.st != .running && c.st != .inHandler then s
      else if stillDraining s cid then drainOn s cid
      else
        let s := landDue s cid true
        let s := s.modCtx cid fun c => { c with yield := none, st := .waiting, wait := w, met := none }
        wakeCtx (s.modCore (coreOf cid) fun k => { k with run := none }) cid)

/-- R64: operand `a` names the context. Its due results land at the bundle that it is about to issue. -/
def execResultLanding (s : State) : Res := .next (if canIssue s s.arg.a then landDue s s.arg.a false else s)

/-! ### Asynchronous faults and hangs -/

/-- R374, R375, R381: operand `a` names the context. Its oldest queued fault is taken outside a handler: at its bundle, once no slot has
faulted on that, or while it drains a yield, which gives way. -/
def execAsyncFaultDelivery (s : State) : Res :=
  let cid := s.arg.a
  let c := s.ctx cid
  let i := s.iss
  let at' := if i.on then i.cid == cid && i.hdr.isNone && i.flts.isEmpty else c.yield.isSome
  .next (if asyncDue c && c.st == .running && at' then takeAsync s cid else s)

/-- Ticks of 2^20 cycles (R6, R24, R386). -/
def hangTicks : Nat := 2 ^ 20 * 20 / 9

/-- R386: ignore and retry act as kill self. -/
def execHangDetect (s : State) : Res :=
  let cid := s.arg.a
  let c := s.ctx cid
  .next (if !isStream cid && (c.st == .running || c.st == .inHandler) && hangTicks < c.stallT then
      let f : Flt := { cls := 6, code := Code.hang.num, addr := c.pc, rep := c.rep, tick := s.tick }
      contain (s.modCtx cid (toContain s.cycle f f)) cid f true false
    else s)

/-! ### Vector files -/

/-- R170: an ephemeral register past its deadline is expired. -/
def execEphemeralExpiry (s : State) : Res :=
  let f := s.arg.flag
  let r := s.arg.b
  .next (match ((s.ctx s.arg.a).vf f).eph.find? (·.1 == r) with
    | none => s
    | some d =>
      if s.cycle < d.2 then s
      else s.modCtx s.arg.a fun c => c.modVf f fun x =>
        { x with eph := tdel x.eph r, expired := x.expired.filter (· != r) ++ [r] })

/-- The register of a context that a physical row of a file holds: the context and the register's name (R163). -/
def rowHolder (s : State) (core : Nat) (f : Bool) (row : Nat) : Option (Nat × Nat) :=
  (upto (core * 8) 8).findSome? fun cid =>
    let c := s.ctx cid
    if c.st == .free then none
    else (if f then c.vpages1 else c.vpages0).zipIdx.findSome? fun p =>
      if p.1 == row / 64 then some (cid, p.2 * 64 + row % 64) else none

/-- A row that the refresh engine visits (R167): its page is good, and no register with an ephemeral mark lies in it. -/
def rowRefreshed (s : State) (core : Nat) (f : Bool) (row : Nat) : Bool :=
  !(if f then (s.core core).gone1 else (s.core core).gone0).contains (row / 64) &&
  match rowHolder s core f row with
  | some (cid, r) => !((s.ctx cid).vf f).eph.any (·.1 == r)
  | none => true

/-- The rows from one to the next that the refresh engine visits (R167): those between keep their cycles. -/
def rowsOn (s : State) (core : Nat) (f : Bool) (row : Nat) : Nat :=
  ((List.range 2048).find? fun k => rowRefreshed s core f ((row + 1 + k) % 2048)).elim 2048 (· + 1)

/-- R167: a bank cycle of a file's refresh engine, the row's own: no bank gives two within 32 cycles. It changes no value. -/
def execRefreshCycle (s : State) : Res :=
  let f := s.arg.flag
  .next (s.modCore s.arg.a fun k =>
    let row := if f then k.refresh1 else k.refresh0
    let at' := if f then k.refreshAt1 else k.refreshAt0
    let n := rowsOn s s.arg.a f row
    if s.cycle < at' + n then k
    else if f then { k with refresh1 := (row + n) % 2048, refreshAt1 := s.cycle }
    else { k with refresh0 := (row + n) % 2048, refreshAt0 := s.cycle })

end Sys2Proof.Machine
end

