-- ==== Sys2Proof/Machine/MatFn.lean ====
section
/-! DEFINITION. What the matrix engine computes: one k-block folded into a tile, power units, and the conversions of tiles to and
from memory (R93, R95–R98, R219, R223, R225, R227, R232, R235). -/
namespace Sys2Proof.Machine

/-- The bytes of a 32-element block in memory (R219). -/
def bpb (fmt : BitVec 4) : Nat :=
  match fmt.toNat with
  | 6 => 8
  | 15 => 16
  | 13 | 14 => 24
  | 9 | 10 => 64
  | 8 | 2 => 128
  | _ => 32

/-- The bits of an element in an operand line (R79, R219). -/
def lineW (fmt : BitVec 4) : Nat := bpb fmt * 8 / 32

/-- The array cycles of a k-block (R225). -/
def blkCycles (fa fb : BitVec 4) : Nat :=
  if fa = 9 ∨ fa = 10 then 64
  else if fa = 6 ∨ fb = 6 then 8
  else if fa = 0 then 32
  else if 13 ≤ fa ∧ 13 ≤ fb then 16
  else 32

/-- The power factor of a form (R235). -/
def powerF (fa fb : BitVec 4) : Nat := blkCycles fa fb / 8

/-- The 32 elements of a block as encodings. -/
def blkElems (fmt : BitVec 4) (bs : List Byte) : List Nat :=
  let x := leNat bs
  (List.range 32).map fun i => (x >>> (lineW fmt * i)) % 2 ^ lineW fmt

/-- One floating group folded into an FP32 element (R95, R96, R98). A sum that is exactly zero counts as +0, in the groups of R96 too
(log entry 103). -/
def foldF (acc : Nat) (mx : Bool) (xa xb : Nat) (ps : List (FVal × Flags)) : Nat × Flags :=
  let pf := ps.foldl (fun z p => z ||| p.2) (0 : Flags)
  let s := fsum (ps.map (·.1))
  let s0 := match s.1 with
    | .fin _ 0 _ => FVal.fin false 0 0
    | v => v
  let t := if mx then (fmul (fmul s0 (e8m0 xa)).1 (e8m0 xb)).1 else s0
  let bad := mx && (xa % 256 == 255 || xb % 256 == 255)
  let r := fadd false ((ffOf 8).decode acc) t
  let o := (ffOf 8).put .rne false false r.1
  (o.bits, pf ||| s.2 ||| fIf bad fIV ||| r.2 ||| o.fl)

/-- The exact products of two blocks. -/
def prods (a b : List FVal) : List (FVal × Flags) := List.zipWith fmul a b

/-- A ternary or INT8 element: its value and whether it is the illegal code (R97). -/
def intElem (fmt : BitVec 4) (x : Nat) : Int × Bool :=
  if fmt = 6 then (if x = 1 then 1 else if x = 3 then -1 else 0, x == 2) else (intOf true 8 x, false)

/-- One element of a tile after a block (R95–R97): `a` and `b` are the encodings of the block's elements. -/
def foldElem (fa fb : BitVec 4) (xa xb : Nat) (a b : List Nat) (acc : Nat) : Nat × Flags :=
  if fa = 6 ∨ fb = 6 ∨ fa = 0 then
    let p := List.zipWith (fun x y => (intElem fa x).1 * (intElem fb y).1) a b
    let tb := a.any (fun x => (intElem fa x).2) || b.any (fun y => (intElem fb y).2)
    (toBits 32 (p.foldl (· + ·) (intOf true 32 acc)), fIf tb fTB)
  else
    let da := a.map (ffOf fa).decode
    let db := b.map (ffOf fb).decode
    if fa = 9 ∨ fa = 10 then
      let r := foldF acc false 0 0 (prods (da.take 16) (db.take 16))
      let r2 := foldF r.1 false 0 0 (prods (da.drop 16) (db.drop 16))
      (r2.1, r.2 ||| r2.2)
    else foldF acc true xa xb (prods da db)

/-- One row of a tile after a block (R227). -/
def foldRow (fa fb : BitVec 4) (xa : Nat) (a : List Nat) (bs : List (Nat × List Nat)) (row : VReg) : VReg × Flags :=
  let r := bs.zipIdx.foldl (init := (row.toNat, (0 : Flags))) fun z q =>
    let old := (row.toNat >>> (32 * q.2)) % 2 ^ 32
    let y := foldElem fa fb xa q.1.1 a q.1.2 old
    (z.1 + y.1 <<< (32 * q.2) - old <<< (32 * q.2), z.2 ||| y.2)
  (BitVec.ofNat 2048 r.1, r.2)

/-- The scale byte of a captured register, or 0x7F (R223, R227). -/
def scaleAt (l : List Byte) (i : Nat) : Nat := if l.isEmpty then 0x7F else (l.getD i 0).toNat

/-- A tile after one k-block (R227): `ba` and `bb` are the blocks' bytes, line by line; `ka` and `kb` the absolute k-block
numbers. -/
def foldBlock (fa fb : BitVec 4) (sa sb : List Byte) (ka kb : Nat) (ba bb : List (List Byte)) (tile : Tbl VReg) (base : Nat) :
    Tbl VReg × Flags :=
  let cols := bb.zipIdx.map fun p => (scaleAt sb (kb % 16 * 64 + p.2), blkElems fb p.1)
  ba.zipIdx.foldl (init := (tile, (0 : Flags))) fun z p =>
    let r := foldRow fa fb (scaleAt sa (ka % 8 * 128 + p.2)) (blkElems fa p.1) cols (tget 0 z.1 (base + p.2))
    (tput z.1 (base + p.2) r.1, z.2 ||| r.2)

/-- The one bits of a list of bytes. -/
def popBytes (l : List Byte) : Nat := l.foldl (fun n b => n + (List.range 8).foldl (fun k i => k + (b.getLsbD i).toNat) 0) 0

/-- The power units of a block from bytes 0–7 of line 0 of both operands and those of the block before (R235). -/
def blkUnits (fa fb : BitVec 4) (a b pa pb : List Byte) : Nat :=
  let x := fun (u v : List Byte) => (List.range 8).map fun i => u.getD i 0 ^^^ v.getD i 0
  (32 + (popBytes (x a pa) + popBytes (x b pb)) / 4) * powerF fa fb

/-- Columns of a row as `mst` writes them (R232), with the flags that R232 lists: NX, OF and ST, and neither UF nor IV (R84, R87; log
entry 101). -/
def storeCols (fa : BitVec 4) (sat : Bool) (row : VReg) (col n : Nat) : List Byte × Flags :=
  (List.range n).foldl (init := ([], (0 : Flags))) fun z i =>
    let x := (row.toNat >>> (32 * (col + i))) % 2 ^ 32
    if fa = 9 ∨ fa = 10 then
      let r := (ffOf fa).put .rne sat false ((ffOf 8).decode x)
      (z.1 ++ leBytes 2 r.bits, z.2 ||| (r.fl &&& (fNX ||| fOF ||| fST)))
    else (z.1 ++ leBytes 4 x, z.2)

/-- A row with `n` columns from `col` on replaced (R232). -/
def loadCols (row : VReg) (col n : Nat) (bs : List Byte) : VReg :=
  let mask := (2 ^ (32 * n) - 1) <<< (32 * col)
  (row &&& ~~~(BitVec.ofNat 2048 mask)) ||| BitVec.ofNat 2048 ((leNat bs % 2 ^ (32 * n)) <<< (32 * col))

end Sys2Proof.Machine
end

