-- ==== Sys2Proof/Machine/Matrix.lean ====
section
/-! DEFINITION. The instructions of the M slot (R215–R233). -/
namespace Sys2Proof.Machine

/-! ### Descriptors -/

/-- A descriptor register. -/
def State.tdreg (s : State) (r : BitVec 4) : BitVec 256 := tget 0 s.me.td r.toNat

/-- BASE, STRIDE, KORG, VIEW, lines and blocks of a descriptor (R218). -/
def tdBase (t : BitVec 256) : Word := t.extractLsb' 192 64
/-- STRIDE (R218). -/
def tdStride (t : BitVec 256) : Nat := fld t.toNat 191 160
/-- KORG (R218). -/
def tdKorg (t : BitVec 256) : Nat := fld t.toNat 159 144
/-- VIEW (R218). -/
def tdView (t : BitVec 256) : Nat := fld t.toNat 129 128
/-- The number of lines (R218). -/
def tdLines (t : BitVec 256) : Nat := fld t.toNat 11 5 + 1
/-- The number of k-blocks (R218). -/
def tdBlks (t : BitVec 256) : Nat := fld t.toNat 4 0 + 1

/-- A descriptor result: the bits of `mask` take `v` (R221, R222). -/
def landTd (s : State) (r : BitVec 4) (v mask : BitVec 256) (lat : Nat) : State :=
  s.eff (.land { dst := .td r.toNat, due := s.me.n + lat, val := v.zeroExtend 2048, mask := mask.zeroExtend 2048 })

/-! ### The engine's queue -/

/-- An M operation that has an entry of the engine (R215, R237): a scale load keeps its entry until its data have arrived. -/
def Op.mOpen (o : Op) : Bool :=
  match o.kind with
  | .m _ => true
  | .mscl _ _ _ _ data => data.isEmpty
  | _ => false

/-- M operations in flight on the core (R215, R237). -/
def mInFlight (s : State) (core : Nat) : List Op := s.ops.filter fun o => coreOf o.own.cid == core && o.mOpen

/-- An operation for the engine: an entry is reserved, or the slot stalls (R215). -/
def mStart (s : State) (w : Word) (wo : WF) (k : OpKind) : Nat × State :=
  if 8 ≤ (mInFlight s (coreOf s.iss.cid)).length then (0, s.wait) else s.start w wo k

/-- One of some descriptors has an uncorrectable error (R444). -/
def tdBad (s : State) (l : List (BitVec 4)) : Bool := l.any fun r => s.me.tdUe.contains r.toNat

/-- A word that only reads a descriptor checks it, so that an uncorrectable error there raises an engine fault after the commit (R237,
R444). -/
def checkTd (s : State) (r : BitVec 4) : State := if tdBad s [r] then (mStart s 0 none (.m { kind := .check, acc := 0, ue := true })).2 else s

/-- The descriptor that an address of `tdld` or `mscl` comes from, checked (R220, R444). -/
def checkImg (f : MO) (s : State) : State := if f.fn = 2 then checkTd s f.tdb else s

/-! ### Changing a descriptor -/

/-- The bits [hi:lo] of a descriptor. -/
def tdMask (hi lo : Nat) : BitVec 256 := BitVec.ofNat 256 ((2 ^ (hi + 1 - lo) - 1) <<< lo)

/-- The address of `tdld` and `mscl` (R220). -/
def imgAddr (f : MO) (s : State) : Word :=
  if f.fn = 0 then s.me.lb.image + wd s.me.dataOff + s.iss.bimm.zeroExtend 64
  else if f.fn = 1 then wd localBase + s.iss.bimm.zeroExtend 64
  else tdBase (s.tdreg f.tdb) + s.iss.bimm.signExtend 64

/-- R221. -/
def execTdld (f : MO) (s : State) : Res :=
  .next (
    let s := (s.charge 1 0).sectorsOf 1
    withSat s [f.wi1, f.wi2, f.wi3] fun w =>
      let a := (imgAddr f s).toNat
      if a % 32 ≠ 0 then s.faultAt .align a
      else slotHome (byte := true) (checkImg f s) accRec a 32 w fun s bs =>
        let x := leNat bs
        if fld x 143 130 ≠ 0 ∨ fld x 127 12 ≠ 0 ∨ fld x 129 128 = 3 ∨ fld x 159 144 % 32 ≠ 0 then s.faultB .illenc
        else landTd s f.tda (BitVec.ofNat 256 x) (BitVec.allOnes 256) s.lat.vld)

/-- One field of a descriptor changed (R222). -/
def setTd (f : MO) (s : State) (hi lo : Nat) (v : Nat) : Res :=
  .next (landTd (checkTd (s.charge 1 0) f.tda) f.tda (BitVec.ofNat 256 (v <<< lo)) (tdMask hi lo) s.lat.valu)

/-- R222. -/
def execTdsetAdd (f : MO) (s : State) : Res :=
  setTd f s 255 192 (tdBase (s.tdreg f.tda) + s.iss.bimm.signExtend 64).toNat
/-- R222. -/
def execTdsetLo (f : MO) (s : State) : Res := setTd f s 223 192 s.iss.bimm.toNat
/-- R222. -/
def execTdsetHi (f : MO) (s : State) : Res := setTd f s 255 224 s.iss.bimm.toNat
/-- R222: the value is checked with the fields (R50). -/
def execTdsetKorg (f : MO) (s : State) : Res := setTd f s 159 144 (s.iss.bimm.toNat % 65536)
/-- R222. -/
def execTdsetShape (f : MO) (s : State) : Res := setTd f s 11 0 (s.iss.bimm.toNat % 4096)
/-- R222. -/
def execTdsetStride (f : MO) (s : State) : Res := setTd f s 191 160 s.iss.bimm.toNat
/-- R222. -/
def execTdsetView (f : MO) (s : State) : Res := setTd f s 129 128 (s.iss.bimm.toNat % 4)

/-! ### Operand lines -/

/-- The address of line l for k origin K (R219). -/
def lineAddr (t : BitVec 256) (k bp l : Nat) : Nat := (tdBase t + wd (l * tdStride t) + wd (k / 32 * bp)).toNat

/-- One line of an operand, checked and translated (R219, R243). -/
def lineSegs (s : State) (t : BitVec 256) (wr : Bool) (a len : Nat) : Except (Code × Nat) (List Seg) :=
  if a % 8 ≠ 0 then .error (.align, a)
  else if tdView t = 0 then
    if kindOf a ≠ 0 then .error (.xprot, a) else resolve s (s.who s.iss.cid) { wr := wr, loc := false } false a len
  else if kindOf a ≠ 2 then .error (.xprot, a)
  else resolve s (s.who s.iss.cid) { wr := wr, dev := false } (tdView t == 2) a len

/-- The lines of an operand: the addresses with what each gives. -/
def tileLines (s : State) (t : BitVec 256) (wr : Bool) (k bp : Nat) : List (Nat × Except (Code × Nat) (List Seg)) :=
  (List.range (tdLines t)).map fun l => let a := lineAddr t k bp l; (a, lineSegs s t wr a (tdBlks t * bp))

/-- The errors of checked lines. -/
def lineErrs (l : List (Nat × Except (Code × Nat) (List Seg))) : List (Code × Nat) :=
  l.filterMap fun p => match p.2 with
    | .error e => some e
    | .ok _ => none

/-- The located bytes of checked lines. -/
def lineOks (l : List (Nat × Except (Code × Nat) (List Seg))) : List (List Seg) :=
  l.filterMap fun p => match p.2 with
    | .ok x => some x
    | .error _ => none

/-- The error with the lowest address (R226). -/
def lowestErr (l : List (Code × Nat)) : Option (Code × Nat) :=
  l.foldl (fun r x => match r with | some y => if x.2 < y.2 then some x else r | none => some x) none

/-- Lines checked, refills asked, translations used (R226, R246, R402); then `k` with the located bytes of every line. -/
def withLines (s : State) (l : List (Nat × Except (Code × Nat) (List Seg))) (len : Nat) (k : State → List (List Seg) → State) : State :=
  match lowestErr (lineErrs l) with
  | some (c, a) => s.faultAt c a
  | none =>
    let fp := l.flatMap fun p => fillPages s.me p.1 len
    if !fp.isEmpty then s.wait.modIss fun i => { i with fills := i.fills ++ fp }
    else k (l.foldl (fun s p => touchXlat s (s.who s.iss.cid) p.1 len) s) (lineOks l)

/-! ### Operations -/

/-- A captured scale register, with SL if its data are late (R216, R224). -/
def takeScale (s : State) (on : Bool) (e : BitVec 3) : List Byte × State :=
  if !on then ([], s)
  else
    let late := s.ops.any fun o => o.own.cid == s.iss.cid && o.own.uid == s.me.uid && match o.kind with
      | .mscl r _ _ due _ => r == e.toNat && decide (due ≤ s.me.n)
      | _ => false
    ((List.range 1024).map fun i => tget 0 s.me.e (e.toNat * 1024 + i), if late then s.eff (.flags 2 128) else s)

/-- `mma` and `mmaz` (R225, R226). -/
def mmaAt (f : MO) (s : State) (z : Bool) : State :=
  let a := s.tdreg f.tda
  let b := s.tdreg f.tdb
  let mx := 11 ≤ f.fa ∧ 11 ≤ f.fb
  let ka := kOrigin s f a
  let kb := kOrigin s f b
  if (f.fn.getLsbD 0 ∧ ¬mx) ∨ (f.fn.getLsbD 1 ∧ ¬mx) ∨ f.fn.getLsbD 2 ∨ (!f.fn.getLsbD 0 ∧ f.ea ≠ 0) ∨ (!f.fn.getLsbD 1 ∧ f.eb ≠ 0) then
    s.faultB .illenc
  else if 64 < tdLines b ∨ tdBlks a ≠ tdBlks b ∨ 65504 < ka ∨ 65504 < kb then s.faultB .illenc
  else
    let la := tileLines s a false ka (bpb f.fa)
    let lb := tileLines s b false kb (bpb f.fb)
    let na := tdBlks a * bpb f.fa
    let nb := tdBlks b * bpb f.fb
    match lowestErr (lineErrs (la ++ lb)) with
    | some (c, x) => s.faultAt c x
    | none =>
      withLines s la na fun s sa => withLines s lb nb fun s sb =>
        withWin s [f.wi1, f.wi2, f.wi3] fun w =>
          let (ea, s) := takeScale s (f.fn.getLsbD 0) f.ea
          let (eb, s) := takeScale s (f.fn.getLsbD 1) f.eb
          let ue := tdBad s [f.tda, f.tdb] || (f.fn.getLsbD 0 && s.me.eUe.contains f.ea.toNat) || (f.fn.getLsbD 1 && s.me.eUe.contains f.eb.toNat)
          let n := (la.map fun p => sectors p.1 na).foldl (· + ·) 0 + (lb.map fun p => sectors p.1 nb).foldl (· + ·) 0
          (mStart (s.charge (tdBlks a) n) w f.wo
            (.m { kind := if z then .mmaz else .mma, acc := f.acc.toNat, tda := a, tdb := b, sa := ea, sb := eb, fa := f.fa, fb := f.fb,
                    zero := z && (!f.stk || s.iss.j == 0), j := s.iss.j, ka := ka, kb := kb, linesA := sa, linesB := sb,
                    ue := ue })).2

/-- R226. -/
def execMma (f : MO) (s : State) : Res := .next (mmaAt f s false)
/-- R226. -/
def execMmaz (f : MO) (s : State) : Res := .next (mmaAt f s true)

/-- R220, R224: the range is checked and the load takes an entry of the engine (R215); nothing waits for its data. -/
def execMscl (f : MO) (s : State) : Res :=
  .next (
    let s := s.charge 1 16
    withWin s [f.wi1, f.wi2, f.wi3] fun w =>
      let a := (imgAddr f s).toNat
      if a % 64 ≠ 0 then s.faultAt .align a
      else match resolve s (s.who s.iss.cid) accRec false a 1024 with
        | .error (c, x) => s.faultAt c x
        | .ok segs =>
          let fp := fillPages s.me a 1024
          if !fp.isEmpty then s.wait.modIss fun i => { i with fills := i.fills ++ fp }
          else
            let s := touchXlat (checkImg f s) (s.who s.iss.cid) a 1024
            (mStart s w none (.mscl f.ea.toNat (wd a) segs (s.me.n + s.lat.vld) [])).2)

/-- R231. -/
def execMdrn (f : MO) (s : State) : Res :=
  .next (
    let s := s.charge 1 0
    let row := f.tda.toNat * 16 + f.tdb.toNat + s.iss.j * f.kstep.toNat
    if 127 < row then s.faultB .illenc
    else
      let (id, s) := mStart s 0 none (.m { kind := .mdrn, acc := f.acc.toNat, row := row, clr := f.fn.getLsbD 0 })
      s.eff (.land { dst := .mrow, due := s.me.n + s.lat.mdrn, val := 0, mask := BitVec.allOnes 2048, late := some id }))

/-- `mst` and `mld` (R232). -/
def tileMove (f : MO) (s : State) (st : Bool) : State :=
  let t := s.tdreg f.tda
  let len := tdBlks t * bpb f.fa
  if 2 < tdKorg t / 32 + tdBlks t then s.faultB .illenc
  else
    let l := tileLines s t st (tdKorg t) (bpb f.fa)
    withLines s l len fun s segs => withWin s [f.wi1, f.wi2, f.wi3] fun w =>
      let n := (l.map fun p => sectors p.1 len).foldl (· + ·) 0
      (mStart (s.charge (if st then 2 else 1) n) w f.wo
        (.m { kind := if st then .mst else .mld, acc := f.acc.toNat, tda := t, fa := f.fa, sat := f.fn.getLsbD 0, linesA := segs,
                ue := tdBad s [f.tda] })).2

/-- R232. -/
def execMst (f : MO) (s : State) : Res := .next (tileMove f s true)
/-- R232. -/
def execMld (f : MO) (s : State) : Res := .next (tileMove f s false)
/-- R233. -/
def execMzero (f : MO) (s : State) : Res := .next (mStart (s.charge 1 0) 0 none (.m { kind := .mzero, acc := f.acc.toNat })).2
/-- R233. -/
def execMmov (f : MO) (s : State) : Res :=
  .next (mStart (s.charge 1 0) 0 none (.m { kind := .mmov, acc := f.acc.toNat, acc2 := f.tda.toNat })).2

end Sys2Proof.Machine
end

