-- ==== Sys2Proof/Machine/Sched.lean ====
section
/-! DEFINITION. Ready queues, admission, the core scheduler, waking, ageing and eviction (R68, R106–R122, R131, R163, R212–R214,
R244–R248, R260, R284, R388). -/
namespace Sys2Proof.Machine

/-! ### Save areas -/

/-- The bad sectors of located bytes, as offsets within them (R275). -/
def badOffs (s : State) : (off : Nat) → (segs : List Seg) → List Nat
  | _, [] => []
  | off, g :: gs =>
    let look := fun (ue ps : List Nat) (a : Nat) =>
      ((upto (a / 64) (sectors a g.len)).filter fun q => ue.contains q || ps.contains q).map fun q => off + (q * 64 - a)
    (match g.loc with
      | .dev a => look s.ue s.poison a
      | l => ((arrayAt l).map (look s.spUe s.spPoison)).getD []) ++ badOffs s (off + g.len) gs

/-- The sector of located bytes at an offset becomes poisoned (R246, R275). -/
def poisonOff (segs : List Seg) (s : State) (off : Nat) : State :=
  match segAt segs off with
  | [⟨.dev a, _⟩] => { s with poison := s.poison ++ [a / 64].filter (!s.poison.contains ·) }
  | [⟨.sp a, _⟩] => { s with spPoison := s.spPoison ++ [a / 64].filter (!s.spPoison.contains ·) }
  | _ => s

/-- Bytes moved from one place to another; a bad sector arrives poisoned (R246, R248). -/
def moveSegs (s : State) (src dst : List Seg) : State :=
  (badOffs s 0 src).foldl (poisonOff dst) (writeSegs (markPoison (noteCe s src) src) dst (readSegs s src))

/-- Bytes of a save area written, or the code and address of what failed (R106). -/
def saveVa (s : State) (ifc va : Nat) (bs : List Byte) : Except (Code × Nat) State :=
  match resolve s (ifcWho ifc) { wr := true, loc := false } false va bs.length with
  | .error e => .error e
  | .ok segs => match badSeg s 0 segs with
    | some (c, off) => .error (c, va + off)
    | none => .ok (writeSegs (admitSegs s segs) segs bs)

/-- Bytes of a save area or an image read, or the code and address of what failed (R68, R106). -/
def loadVa (s : State) (ifc va len : Nat) : Except (Code × Nat) (List Byte) :=
  match resolve s (ifcWho ifc) { loc := false } false va len with
  | .error e => .error e
  | .ok segs => match badSeg s 0 segs with
    | some (c, off) => .error (c, va + off)
    | none => .ok (readSegs s segs)

/-! ### Queues -/

/-- A stable insertion sort. -/
def sortBy {α : Type} (before : α → α → Bool) (l : List α) : List α :=
  l.foldl (fun r x => r.filter (fun y => !before x y) ++ x :: r.filter (before x)) []

/-- An entry put into a core's queue (R107); its ageing counts from there (R114). -/
def queueAt (s : State) (core : Nat) (q : QEntry) : State :=
  s.modCore core fun k => { k with queue := k.queue ++ [{ q with age := k.committed, st := 0 }] }

/-- Every entry and record of a core: general entries, then reserved ones. -/
def coreEntries (s : State) (core : Nat) : List QEntry := (s.core core).queue ++ (s.core core).reserved.filterMap (·.2)

/-- An entry taken out of a core's queue. -/
def unqueue (s : State) (core id : Nat) : State :=
  let is := fun (q : QEntry) => q.id == id
  s.modCore core fun k =>
    { k with
      queue := k.queue.filter (!is ·)
      reserved := k.reserved.filter fun r => !(match r.2 with | some q => is q | none => false) }

/-- An entry held outside every queue (R108, R111, R409). -/
def holdEntry (s : State) (q : QEntry) : State :=
  if s.heldQ.any (·.id == q.id) then s else { s with heldQ := s.heldQ ++ [q] }

/-- An entry no longer held. -/
def unhold (s : State) (id : Nat) : State := { s with heldQ := s.heldQ.filter (·.id != id) }

/-- The cores of an entry's placement set that its interface owns (R29, R108). -/
def ownedCores (s : State) (q : QEntry) : List Nat := (placement q.lb).filter (placeable s q.ifc)

/-- An eviction record placed (R108, R409): `from'` is the core and context that it left. A reserved entry that an earlier record still
holds takes no other (DESIGN CHOICE, log entry 132). -/
def placeRecord (s : State) (q : QEntry) (from' : Option (Nat × Nat)) : State :=
  let own := ownedCores s q
  if own.isEmpty then postEvent s q.ifc 1 q.tseq 0 Code.capacity.num 0
  else match bestCore s (openCores s q.ifc own) with
    | some core => queueAt s core q
    | none => match from' with
      | some (core, c) =>
        if own.contains core && (tget none (s.core core).reserved c).isNone then s.modCore core fun k => { k with reserved := tput k.reserved c (some { q with age := k.committed }) }
        else holdEntry s q
      | none => holdEntry s q

/-- A footprint within a core's capacity (R111, R164, R214). -/
def capable (k : Core) (b : LaunchBlk) : Bool :=
  let c := k.cap.toNat
  decide (64 * b.vp0 ≤ fld c 11 0) && decide (64 * b.vp1 ≤ fld c 23 12) && decide (b.acc ≤ fld c 28 24) && decide (b.td ≤ fld c 39 32)

/-- A refused entry moves to a capable core of its set, is held, or fails (R111); `core` is where it last stood. -/
def placeCapable (s : State) (q : QEntry) (core : Nat) : State :=
  let l := (ownedCores s q).filter fun c => capable (s.core c) q.lb
  if l.isEmpty then containEntry s q core Code.capacity.num 0
  else match bestCore s (openCores s q.ifc l) with
    | some c => queueAt s c q
    | none => holdEntry s { q with st := 1 }

/-- R107, R108: operand `a` names the entry on its way to a queue. -/
def execLaunchEnqueue (s : State) : Res :=
  .next (match s.op? s.arg.a with
    | none => s
    | some o => match o.kind with
      | .enqueue q core =>
        let s := s.dropOp o.id
        if placeable s q.ifc core then queueAt s core q
        else match bestCore s (openCores s q.ifc (placement q.lb)) with
          | some c => queueAt s c q
          | none => if (ownedCores s q).isEmpty then containEntry s q core Code.capacity.num 0 else holdEntry s q
      | _ => s)

/-- R108, R111, R409: operand `a` names an entry held outside every queue; it stays held while no place is free. -/
def execHeldEntryPlace (s : State) : Res :=
  .next (match s.heldQ.find? (·.id == s.arg.a) with
    | none => s
    | some q =>
      let u := unhold s q.id
      let s' :=
        if q.st = 1 then placeCapable u q ((placement q.lb).getD 0 0)
        else if q.evict then placeRecord u q none
        else match bestCore u (openCores u q.ifc (placement q.lb)) with
          | some c => queueAt u c q
          | none => holdEntry u q
      if s'.heldQ.any (·.id == q.id) then s else s')

/-- An entry of a core changed. -/
def modEntry (s : State) (core id : Nat) (f : QEntry → QEntry) : State :=
  s.modCore core fun k => { k with queue := k.queue.map fun q => if q.id == id then f q else q }

/-- A start witness that a peer's silence ends (R356), or that is poisoned (R109). -/
def startFails (s : State) (q : QEntry) : Option Code :=
  if wPsn q.lb.wstart && !wNull q.lb.wstart then some .wpoison
  else if (winTimedOut s q.lb.wstart).isSome then some .wintmo
  else none

/-- R109: operands `a` and `b` name a core and a pending entry of its queue. -/
def execStartWitnessSatisfied (s : State) : Res :=
  let core := s.arg.a
  .next (match (s.core core).queue.find? (·.id == s.arg.b) with
    | none => s
    | some q =>
      if !q.pend then s
      else match startFails s q with
        | some c => containEntry (unqueue s core q.id) q core c.num 0 (if c = .wintmo then (winTimedOut s q.lb.wstart).getD 0 else 0)
        | none =>
          if sat s q.lb.wstart then
            modEntry s core q.id fun q => { q with pend := false, rtick := q.met.getD s.tick, met := none, age := commits s core }
          else s)

/-- A pending entry whose start witness is satisfied remembers since when (R109); `t` gives the tick for the witness. -/
def entryMet (s : State) (t : Word → Nat) (q : QEntry) : QEntry :=
  if q.pend && q.met.isNone && sat s q.lb.wstart then { q with met := some (t q.lb.wstart) } else q

/-! ### Groups -/

/-- A context joins a group (R131, R284): the state and the status; `keep` is the sequence that a restore keeps. -/
def joinGroup (s : State) (cid e g : Nat) (keep : Option (BitVec 32)) : State × Nat :=
  let d := dieOf (coreOf cid)
  let c := s.ctx cid
  let x : Grp := tget {} (s.die d).grp g
  if !x.allot || x.ifc != c.ifc then (s, 2)
  else if x.mem.any (·.1 == cid) then (s, 1)
  else if 64 ≤ x.mem.length then (s, 2)
  else
    let s := leaveGroup s cid e
    let n := keep.getD x.hseq
    let s := s.modDie d fun y =>
      let x : Grp := tget {} y.grp g
      { y with grp := tput y.grp g { x with mem := x.mem ++ [(cid, c.uid, n)] } }
    (s.modCtx cid fun c => { c with ge := tput c.ge e (some { grp := g, nseq := n }) }, 0)

/-- The enrolments of an admission (R111, R131): a group that is not allotted freezes the interface. -/
def joinAll (cid : Nat) (addr : Word) : (l : List (Nat × Nat × Option (BitVec 32))) → (s : State) → State
  | [], s => s
  | (e, g, keep) :: l, s =>
    let ifc := (s.ctx cid).ifc
    if !allotted s (dieOf (coreOf cid)) g ifc then freeze s ifc addr false
    else joinAll cid addr l (joinGroup s cid e g keep).1

/-! ### Admission -/

/-- The latencies and the data offset of a task image header, or none for one that R68 refuses. -/
def imageHeader (h : Nat) : Option (Lat × Nat) :=
  let l := fun (i : Nat) => fld h (71 + 8 * i) (64 + 8 * i)
  if fld h 31 0 ≠ 0x54425A4E ∨ fld h 47 32 ≠ 1 ∨ fld h 63 48 ≠ 64 ∨ fld h 511 448 ≠ 0 ∨ fld h 319 256 ≠ 0 ∨ fld h 191 144 ≠ 0 ∨
      (List.range 10).any (fun i => l i == 0) then none
  else some ({ salu := l 0, smul := l 1, sld := l 2, valu := l 3, vfma := l 4, vtr := l 5, vld := l 6, vxmv := l 7, mdrn := l 8,
               cst := l 9 }, fld h 383 320)

/-- The free good units of a pool of `n`, lowest first (R163, R165, R212, R213). -/
def freeUnits (n : Nat) (gone used : List Nat) : List Nat := (List.range n).filter fun p => !gone.contains p && !used.contains p

/-- The free scratchpad pages of a station (R244). -/
def freePages (s : State) (st : Nat) : List Nat := (List.range 32).filter fun p => !(s.stn st).used.contains p

/-- The pools hold a footprint (R111). -/
def poolsHold (s : State) (core : Nat) (b : LaunchBlk) : Bool :=
  let k := s.core core
  decide (b.vp0 ≤ (freeUnits 32 k.gone0 k.vused0).length) && decide (b.vp1 ≤ (freeUnits 32 k.gone1 k.vused1).length) &&
  decide (b.acc ≤ (freeUnits 16 k.goneAcc k.accUsed).length) && decide (b.td ≤ (freeUnits 128 k.goneTd k.tdUsed).length) &&
  decide (b.spp ≤ (freePages s (stationOf core)).length)

/-- A physical scratchpad page loses what its last holder left (R244, R246, R249). -/
def wipePage (st : Nat) (s : State) (p : Nat) : State :=
  let a := st * 2 ^ 21 + p * 65536
  let out := fun (q : Nat) => decide (q * 64 < a) || decide (a + 65536 ≤ q * 64)
  { s with spad := s.spad.filter fun (x : Host.Cell) => decide (x.1 < a) || decide (a + 65536 ≤ x.1), spPoison := s.spPoison.filter out,
           spUe := s.spUe.filter out, spCe := s.spCe.filter out, views := s.views.filter fun (v : ViewWrite) => out (v.addr / 64) }

/-- The pools allotted to a context, the lowest free good units of each (R111, R163, R212, R213, R244); its pages start in a state. -/
def allot (s : State) (core cid : Nat) (b : LaunchBlk) (st : PgSt) : State :=
  let k := s.core core
  let p0 := (freeUnits 32 k.gone0 k.vused0).take b.vp0
  let p1 := (freeUnits 32 k.gone1 k.vused1).take b.vp1
  let ts := (freeUnits 16 k.goneAcc k.accUsed).take b.acc
  let ds := (freeUnits 128 k.goneTd k.tdUsed).take b.td
  let sp := (freePages s (stationOf core)).take b.spp
  let s := s.modCore core fun k =>
    { k with vused0 := k.vused0 ++ p0, vused1 := k.vused1 ++ p1, accUsed := k.accUsed ++ ts, tdUsed := k.tdUsed ++ ds }
  let s := sp.foldl (wipePage (stationOf core)) (s.modStn (stationOf core) fun t => { t with used := t.used ++ sp })
  s.modCtx cid fun c => { c with vpages0 := p0, vpages1 := p1, tiles := ts, tds := ds, pages := sp.map fun p => { phys := p, st := st } }

/-- What every admitted context starts with (R103, R111, R260). Its commits toward ageing count from here (R114; DESIGN CHOICE, log entry
123). -/
def admitted (s : State) (core : Nat) (q : QEntry) (uid : Nat) (h : Lat × Nat) (c : Ctx) : Ctx :=
  { c with st := .ready, uid := uid, ifc := q.ifc, tseq := q.tseq, lb := q.lb, lat := h.1, dataOff := h.2, bi := q.bi, bm := q.bm,
           rtick := s.tick, age := commits s core, rrp := (s.core core).ringCount, lastTry := s.now }

/-- A new task loaded into a free context (R111, R128, R244); its current priority stays as it has aged (R114). -/
def admitNew (s : State) (core cid : Nat) (q : QEntry) (h : Lat × Nat) : State :=
  let (uid, s) := s.newId
  let c : Ctx := { s := [(0, q.lb.arg)], cont := q.lb.cont, pc := q.lb.entry, epri := q.prio }
  let s := allot (s.setCtx cid (admitted s core q uid h c)) core cid q.lb .zero
  let id := ctxId s cid
  let s := s.modCtx cid fun c => { c with s := tput c.s 1 id }
  let ge := (List.range 4).filterMap fun e => ((q.lb.ge.getD e none).map fun g => (e, g, none))
  joinAll cid q.lb.addr ge (reviewL1 s (stationOf core))

/-- A save that fails is fatal to the task (R106, R393). -/
def saveFails (s : State) (cid : Nat) (c : Code) (a : Nat) : State :=
  let u := (s.ctx cid).uid
  let f : Flt := { cls := 1, code := c.num, addr := wd a, tick := s.tick }
  let s := contain s cid f true false
  let x := s.ctx cid
  if x.uid == u && x.st == .evicted then killCtx s cid f.code f.cause x.chain true else s

/-- A restore that fails (R106): the fault is fatal to the task. Its pools are allotted, the context holds what could be read, and
containment runs as for a save that fails. -/
def restoreFails (s : State) (core cid : Nat) (q : QEntry) (h : Lat × Nat) (c : Code) (a : Nat) (base ext bulk : List Byte) : State :=
  let (uid, s) := s.newId
  let x := ctxFrom q.lb base ext bulk s.tick (s.core core).ringCount.toNat
  let x := { admitted s core q uid h x with st := .evicted, epri := q.prio, refuse := q.refuse }
  saveFails (allot (s.setCtx cid x) core cid q.lb .zero) cid c a

/-- What was read, or nothing. -/
def orEmpty {E A : Type} (x : Except E (List A)) : List A :=
  match x with
  | .ok l => l
  | .error _ => []

/-- An eviction record restored into a free context (R111, R131, R248, R284, R388). -/
def admitRecord (s : State) (core cid : Nat) (q : QEntry) (h : Lat × Nat) : State :=
  let b := q.lb
  let r1 := loadVa s q.ifc b.save.toNat 4096
  let r2 := loadVa s q.ifc (extBase b) (256 * 1024)
  let r3 := loadVa s q.ifc (b.save.toNat + 4096) (16384 * (b.vp0 + b.vp1) + 32768 * b.acc)
  let fails := fun (e : Code × Nat) => restoreFails s core cid q h e.1 e.2 (orEmpty r1) (orEmpty r2) (orEmpty r3)
  match r1, r2, r3 with
  | .ok base, .ok ext, .ok bulk =>
    let (uid, s) := s.newId
    let c := ctxFrom b base ext bulk s.tick (s.core core).ringCount.toNat
    let c := { admitted s core q uid h c with exh := false, epri := q.prio, refuse := q.refuse }
    let s := allot (s.setCtx cid c) core cid b .fill
    let ge := (groupsFrom base).map fun p => (p.1, p.2.1, if q.die = dieOf core then some (BitVec.ofNat 32 p.2.2) else none)
    joinAll cid b.addr ge (reviewL1 s (stationOf core))
  | .error e, _, _ => fails e
  | _, .error e, _ => fails e
  | _, _, .error e => fails e

/-- An entry leaves the queue for a context (R68, R111). -/
def admitEntry (s : State) (core cid : Nat) (q : QEntry) : State :=
  let s := unqueue s core q.id
  match loadVa s q.ifc q.lb.image.toNat 64 with
  | .error (c, a) => containEntry s q core c.num (wd a)
  | .ok bs => match imageHeader (leNat bs) with
    | none => containEntry s q core Code.illenc.num q.lb.image
    | some h => if q.evict then admitRecord s core cid q h else admitNew s core cid q h

/-- Entries that admission may consider, in its order (R111, R112); of two with equal priority and readiness tick the general entry goes
first, and of two general ones the one queued first (log entry 104). -/
def admissible (s : State) (core : Nat) : List QEntry :=
  sortBy (fun x y => decide (y.prio < x.prio) || (x.prio == y.prio && decide (x.rtick < y.rtick)))
    ((coreEntries s core).filter fun q => !q.pend && (!q.evict || q.topped) && (s.core core).own == some q.ifc)

/-- An entry that has aged to priority 6 (R112). -/
def agedOut (q : QEntry) : Bool := q.prio == 6 && decide (q.lb.prio < 6)

/-- The first entry that admission refuses or that fits (R111, R112). -/
def admitPick (s : State) (core : Nat) (l : List QEntry) : Option QEntry :=
  l.find? fun q => !capable (s.core core) q.lb || poolsHold s core q.lb

/-- The lowest free context of a core. -/
def freeContext (s : State) (core : Nat) : Option Nat := (upto (core * 8) 8).find? fun cid => (s.ctx cid).st == .free

/-- An aged entry that does not fit holds back every entry of priority 6 or below (R112). -/
def agedBlocks (s : State) (core : Nat) (l : List QEntry) : Bool :=
  l.any fun q => agedOut q && capable (s.core core) q.lb && !poolsHold s core q.lb

/-- R111, R112: operand `a` names the core. -/
def execAdmission (s : State) : Res :=
  let core := s.arg.a
  .next (match freeContext s core with
    | none => s
    | some cid =>
      if (s.core core).moving.isSome || decide (1024 ≤ core) then s
      else
        let l := admissible s core
        match admitPick s core (if agedBlocks s core l then l.filter (6 < ·.prio) else l) with
        | none => s
        | some q =>
          if capable (s.core core) q.lb then admitEntry s core cid q
          else placeCapable (unqueue s core q.id) { q with refuse := if q.evict then min 255 (q.refuse + 1) else 0 } core)

/-! ### The core scheduler -/

/-- The ready context that the scheduler picks (R113). -/
def pickReady (s : State) (core : Nat) : Option Nat :=
  ((sortBy (fun x y =>
      let a := s.ctx x
      let b := s.ctx y
      decide (b.epri < a.epri) || (a.epri == b.epri && decide (a.rtick < b.rtick)))
    ((upto (core * 8) 8).filter fun cid => (s.ctx cid).st == .ready))).head?

/-- R113, R114: operand `a` names a core that runs no context. -/
def execSchedulerPick (s : State) : Res :=
  let core := s.arg.a
  .next (if (s.core core).run.isSome then s
    else match pickReady s core with
      | none => s
      | some cid =>
        let s := s.modCtx cid fun c =>
          { c with st := if c.resume.isSome then .inHandler else .running, epri := c.lb.prio, wait := .none, lastTry := s.now, stallT := 0 }
        s.modCore core fun k => { k with run := some (ctxNo cid) })

/-- R114: operand `a` names the core; 8,192 commits raise what stayed ready or queued by one level. -/
def execPriorityAging (s : State) : Res :=
  let core := s.arg.a
  let n := commits s core
  .next (
    let up := fun (q : QEntry) => if !q.pend && decide (q.prio < 6) && decide (q.age + 8192 ≤ n) then
      { q with prio := q.prio + 1, age := q.age + 8192 } else q
    let s := s.modCore core fun k =>
      { k with
        queue := k.queue.map up
        reserved := k.reserved.map fun (r : Nat × Option QEntry) => (r.1, r.2.map up) }
    (upto (core * 8) 8).foldl (init := s) fun s cid =>
      let c := s.ctx cid
      if c.st == .ready && decide (c.epri < 6) && decide (c.age + 8192 ≤ n) then
        s.setCtx cid { c with epri := c.epri + 1, age := c.age + 8192 }
      else s)

/-! ### Waking -/

/-- R115, R260: operand `a` names the context. -/
def execContextWake (s : State) : Res := .next (wakeCtx s s.arg.a)

/-- The sets in which no entry has been freed since they were last seen, as they stand now (R122). -/
def stillShort (s : State) (sets : List (List (Nat × Nat))) : List (List (Nat × Nat)) :=
  (sets.filter fun l => !l.any fun p => decide (p.2 < freeEntries s p.1)).map fun l => l.map fun p => (p.1, freeEntries s p.1)

/-- A context that waits for queue space, after a turn (R122). -/
def seeQueue (s : State) (c : Ctx) : Ctx :=
  match c.st, c.wait with
  | .waiting, .queue sets => { c with wait := .queue (stillShort s sets) }
  | _, _ => c

/-- R122: operand `a` names the context, in every set of which an entry has been freed; it executes its `exit` again. -/
def execExitQueueRetry (s : State) : Res :=
  let cid := s.arg.a
  let c := s.ctx cid
  .next (match c.st, c.wait with
    | .waiting, .queue [] => makeReady s cid id
    | _, _ => s)

/-! ### Budgets -/

/-- A budget after a top-up (R130). -/
def topBudget (bi bm : Nat) (i m : Nat) : Nat × Nat := (min (bi + i) (2 ^ 32 - 1), min (bm + m) (2 ^ 40 - 1))

/-- An entry or record after a top-up (R121, R130). -/
def topEntry (ifc tseq i m : Nat) (q : QEntry) : QEntry :=
  if q.ifc == ifc && q.tseq == tseq then
    let b := topBudget q.bi q.bm i m
    { q with bi := b.1, bm := b.2, topped := true }
  else q

/-- R121, R130: operand `a` names the top-up. -/
def execBudgetTopupApply (s : State) : Res :=
  .next (match s.op? s.arg.a with
    | none => s
    | some o => match o.kind with
      | .topup ifc tseq i m =>
        let s := s.dropOp o.id
        let f := topEntry ifc tseq i m
        let onCore := fun (p : Nat × Core) =>
          let k : Core :=
            { p.2 with
              queue := p.2.queue.map f
              reserved := p.2.reserved.map fun (r : Nat × Option QEntry) => (r.1, r.2.map f) }
          (p.1, k)
        let onOp := fun (o : Op) => match o.kind with
          | .enqueue q c => { o with kind := .enqueue (f q) c }
          | _ => o
        let onCtx := fun (p : Nat × Ctx) =>
          let c := p.2
          if !isStream p.1 && c.st != .free && c.st != .frozen && c.ifc == ifc && c.tseq == tseq then
            let b := topBudget c.bi c.bm i m
            (p.1, { c with bi := b.1, bm := b.2, exh := false, topped := true })
          else p
        { s with cores := s.cores.map onCore, heldQ := s.heldQ.map f, ops := s.ops.map onOp, ctxs := s.ctxs.map onCtx }
      | _ => s)

/-! ### Since when a condition holds -/

/-- The tick at which device time alone made a witness satisfied, or timed its window out (R297, R356). -/
def metByTime (s : State) (w : Word) : Nat := if sat s w then wTick w else (wWindow s w + 5) * s.fab.window

/-- Contexts and entries whose condition holds remember since when (R109, R115): `t` gives the tick for a witness. -/
def noteMet (s : State) (t : Word → Nat) : State :=
  { s with ctxs := s.ctxs.map fun (p : Nat × Ctx) => (p.1, ctxMet s t p.1 (seeQueue s p.2)),
           cores := s.cores.map fun (p : Nat × Core) => (p.1, { p.2 with queue := p.2.queue.map (entryMet s t) }) }

/-- Time passes (R24, R109, R115). -/
def passTime (s : State) (dt : Nat) : State :=
  let s := { s with now := s.now + dt }
  noteMet s (metByTime s)

/-! ### Eviction -/

/-- The M operations that an engine fault holds end where their context is saved or frozen: no handler return will let them go on. Their
witnesses are poisoned and their results never land (R237, R239, R421; log entry 121). -/
def dropHeld (s : State) (cid : Nat) : State :=
  let l := s.ops.filter fun o => o.held && o.own.cid == cid && o.own.uid == (s.ctx cid).uid
  if l.isEmpty then s
  else (l.foldl (fun s o => (match o.kind with | .m m => unpin s m.pins | _ => s).finish o (stopWit s o)) s).modCtx cid
    fun c => { c with landing := c.landing.filter fun x => !l.any fun o => x.late == some o.id }

/-- What a save or a dump waits for: copies, M operations, pending witnesses and results in flight (R217, R248, R301, R421), the stores
whose witnesses the saved accumulators owe (R301, R303), and the pulls of a consumer (R326). -/
def saveQuiet (s : State) (cid : Nat) : Bool :=
  let c := s.ctx cid
  !c.landing.any (·.late.isSome) && !c.w.any (fun p => p.2.pend.isSome) &&
  !s.ops.any fun o => o.own.cid == cid && o.own.uid == c.uid && match o.kind with
    | .copy _ | .mcst _ | .m _ | .store _ | .atomic _ | .fst _ | .rsto _ | .pull _ => true
    | .mscl _ _ _ _ data => data.isEmpty
    | _ => false

/-- The retained pages of a context written back (R248). -/
def writeBack (s : State) (cid : Nat) : (l : List (Page × Nat)) → Except (Code × Nat) State
  | [] => .ok s
  | (p, j) :: l =>
    let c := s.ctx cid
    if p.st == .present && c.ret.getLsbD j then
      match resolve s (ifcWho c.ifc) { wr := true, loc := false } false (backingVa c.lb j) 65536 with
      | .error e => .error e
      | .ok segs => writeBack (moveSegs (admitSegs s segs) (pageSegs (cidStation cid) p.phys) segs) cid l
    else writeBack s cid l

/-- The mesh lets the retained pages of a context cross to their backing (R248, R340). -/
def backOpen (s : State) (cid : Nat) : Bool :=
  let c := s.ctx cid
  c.pages.zipIdx.all fun p => !(p.1.st == .present && c.ret.getLsbD p.2) ||
    match resolve s (ifcWho c.ifc) { wr := true, loc := false } false (backingVa c.lb p.2) 65536 with
    | .error _ => true
    | .ok segs => crossesBack s c.ifc (.sp (cidStation cid * 2 ^ 21)) segs

/-- What follows where nothing failed. -/
def thenOk {E A B : Type} (x : Except E A) (f : A → Except E B) : Except E B :=
  match x with
  | .error e => .error e
  | .ok a => f a

/-- A context written to its save area (R106, R120, R248, R388): bad sectors in any part of it are fatal (DESIGN CHOICE, log entry 54). -/
def saveCtx (s : State) (cid : Nat) : Except (Code × Nat) State :=
  let c := s.ctx cid
  let b := c.lb
  thenOk (saveVa s c.ifc b.save.toNat (recordBase s cid)) fun s1 =>
    thenOk (saveVa s1 c.ifc (b.save.toNat + 4096) (recordBulk s cid)) fun s2 =>
      thenOk (saveVa s2 c.ifc (extBase b) (recordExt s cid)) fun s3 => writeBack s3 cid c.pages.zipIdx

/-- The eviction record of a context (R107, R120). Its readiness tick is the end of its save (DESIGN CHOICE, log entry 122). -/
def recordOf (c : Ctx) (id die : Nat) (tick : Nat) : QEntry :=
  { id := id, lb := c.lb, ifc := c.ifc, tseq := c.tseq, evict := true, pend := false, rtick := tick, prio := c.epri, age := 0,
    bi := c.bi, bm := c.bm, topped := c.topped, refuse := c.refuse, die := die }

/-- A save that is done (R120): groups are left, pools return, and the record is placed and reported, or killed (R385). -/
def saveDone (s : State) (cid : Nat) : State :=
  let c := s.ctx cid
  let core := coreOf cid
  let (id, s) := s.newId
  let q := recordOf c id (dieOf core) s.tick
  let s := freeCtx (abortWalks (leaveGroups s cid) cid false) cid
  if c.dying then
    match c.chain.getLast? with
    | some e => killRecord s q e.code e.cause c.chain
    | none => killRecord s q 0 0 []
  else postEvent (placeRecord s q (some (core, ctxNo cid))) c.ifc 2 c.tseq 0 Code.evicted.num 0

/-- R120, R248, R421: operand `a` names a context whose save, or whose dump after a freeze, ends. -/
def execEvictionSaveDone (s : State) : Res :=
  let cid := s.arg.a
  let s := if (s.ctx cid).st == .frozen || (s.ctx cid).evicting then dropHeld s cid else s
  let c := s.ctx cid
  .next (if !saveQuiet s cid then s
    else if c.st == .frozen && c.dying then
      let (s, _) := dumpCtx (landScales s cid true) cid true c.chain
      s.modCtx cid fun c => { c with dying := false }
    else if c.st == .evicted && c.evicting && backOpen s cid then
      let s := landScales s cid true
      match saveCtx s cid with
      | .error (e, a) => saveFails s cid e a
      | .ok s => saveDone s cid
    else s)

end Sys2Proof.Machine
end

