-- ==== Sys2Proof/Machine/MemWork.lean ====
section
/-! DEFINITION. What the memories do after commit: stores and atomics at their homes, write buffers, L1 and L2 lines, translation walks,
page refills, port chunks, arrivals at barriers and old witnesses (R156, R157, R188–R190, R246, R251, R268–R281, R298–R301, R400–R403). -/
namespace Sys2Proof.Machine

/-! ### Stores -/

/-- An older store or atomic of the same task that has not performed and shares a byte (R270, R308). -/
def olderMeets (s : State) (o : Op) (segs : List Seg) : Bool :=
  s.ops.any fun x => decide (x.id < o.id) && x.own.cid == o.own.cid && x.own.uid == o.own.uid && match x.kind with
    | .store y => y.left.any fun p => segs.any fun g => overlap p.loc p.bytes.length g.loc g.len
    | .atomic y => segs.any fun g => overlap y.loc 8 g.loc g.len
    | _ => false

/-- A write at these places must still wait at its home: for a locked tile, a way of L2 or a marked page (R253, R274, R430). -/
def writeHeld (s : State) (core : Nat) (segs : List Seg) : Bool :=
  tileLocked s core segs || l2Waits s segs || segs.any fun g => marked s g.loc g.len

/-- The run of a piece. -/
def Piece.seg (p : Piece) : Seg := ⟨p.loc, p.bytes.length⟩

/-- Whether a location is on the fabric. -/
def Loc.isGlob : Loc → Bool
  | .glob _ => true
  | _ => false

/-- Pieces that follow one another on the fabric, joined. -/
def joinPieces (l : List Piece) : List (Nat × List Byte) :=
  l.foldl (init := []) fun r p =>
    match p.loc, r.getLast? with
    | .glob a, some q => if q.1 + q.2.length = a then r.dropLast ++ [(q.1, q.2 ++ p.bytes)] else r ++ [(a, p.bytes)]
    | .glob a, none => [(a, p.bytes)]
    | _, _ => r

/-- A run of fabric bytes cut at lines (R349). -/
def cutLines : (fuel : Nat) → (a : Nat) → (bs : List Byte) → List (Nat × List Byte)
  | 0, _, _ => []
  | n + 1, a, bs =>
    if bs.isEmpty then [] else
    let k := 256 - a % 256
    (a, bs.take k) :: cutLines n (a + k) (bs.drop k)

/-- The fabric pieces of a store sent (R349, R357). -/
def sendStore (s : State) (o : Op) (x : StoreOp) (l : List Piece) : State :=
  let reqs := (joinPieces l).flatMap fun p => cutLines (p.2.length / 256 + 2) p.1 p.2
  let s := reqs.zipIdx.foldl (init := s) fun s p =>
    let a := p.1.1
    fabRequest s o.id p.2 (fld a 62 51)
      { kind := .store, tag := tagOf s o.own.ifc, off := fld a 50 0, len := p.1.2.length, data := p.1.2, wit := o.win } (a / 256)
  s.setOp o.id (.store { x with await := reqs.length })

/-- A store that has performed everywhere ends with its witness (R295, R301). -/
def storeEnd (s : State) (o : Op) (x : StoreOp) : State :=
  if x.left.isEmpty && x.await == 0 then
    let w := wMerge x.acc o.win
    (s.account o.own false w).finish o w
  else s

/-- The pieces of a store that lie on this part perform (R251, R276); a copy of the line that the core's own L1 took while the store was
on its way takes the bytes too (R270). -/
def performHere (s : State) (o : Op) (x : StoreOp) (l : List Piece) : State :=
  let s := l.foldl (fun s p => l1Write (writeView s o.id o.own x.sw p) (coreOf o.own.cid) p) s
  let acc := l.foldl (fun w p => wMerge w (mkWit (scopeOf p.loc) false false s.tick)) x.acc
  let y : StoreOp := { x with left := x.left.filter (·.loc.isGlob), acc := acc }
  storeEnd (s.setOp o.id (.store y)) o y

/-- R276: operand `a` names the store. Its fabric pieces are sent, its other pieces perform. -/
def execStorePerform (s : State) : Res :=
  .next (match s.op? s.arg.a with
    | none => s
    | some o => match o.kind with
      | .store x =>
        let here := x.left.filter (!·.loc.isGlob)
        let far := x.left.filter (·.loc.isGlob)
        if !far.isEmpty && x.await == 0 then
          if olderMeets s o (far.map (·.seg)) then s else sendStore s o x far
        else if here.isEmpty || !satHome s o.win || olderMeets s o (here.map (·.seg)) ||
            writeHeld s (coreOf o.own.cid) (here.map (·.seg)) then s
        else performHere s o x here
      | _ => s)

/-- R251: operand `a` names the store or `mst` whose writes have performed in both views. -/
def execWritePerformedInBothViews (s : State) : Res := .next { s with views := s.views.filter (·.id != s.arg.a) }

/-! ### Atomics -/

/-- An atomic that fails writes nothing: 0 lands, its witness is poisoned, and the fault is asynchronous (R279, R358). -/
def atomicFails (s : State) (o : Op) (x : AtomicOp) (code : Nat) : State :=
  let w := wMerge (poisoned s (scopeOf x.loc)) o.win
  let s := (s.landLate o.own o.id 0).account o.own false w
  (asyncFault s o.own { cls := 3, code := code, addr := x.va }).finish o w

/-- The old value of an atomic as it lands (R279). -/
def atomOld (ty : BitVec 3) (m : Nat) : Word := ext64 ty (m % 2 ^ (8 * tySize ty))

/-- What an atomic writes where it finds a value (R280, R281): a failing `acas` writes nothing. -/
def atomPiece (x : AtomicOp) (m : Nat) : Option Piece :=
  let n := tySize x.ty
  if x.fn = 7 ∧ m % 2 ^ (8 * n) ≠ x.cmp.toNat % 2 ^ (8 * n) then none
  else some ⟨x.loc, leBytes n (atomNew x.fn x.f x.ty m x.v.toNat x.cmp.toNat)⟩

/-- The atomic at its home (R279–R281). -/
def atomicHere (s : State) (o : Op) (x : AtomicOp) : State :=
  let n := tySize x.ty
  let g : Seg := ⟨x.loc, n⟩
  match badSeg s 0 [g] with
  | some (c, _) => atomicFails (markPoison s [g]) o x c.num
  | none =>
    let (s, bs) := readIn s false o.win [g]
    let m := leNat bs
    let w := wMerge (mkWit (scopeOf x.loc) false false s.tick) o.win
    let s := match atomPiece x m with
      | none => s
      | some p => l1Write (writeView s o.id o.own false p) (coreOf o.own.cid) p
    let s := snoop s (coreOf o.own.cid) [runOf g]
    ((s.landLate o.own o.id ((atomOld x.ty m).zeroExtend 2048)).account o.own false w).finish o w

/-- R279–R281: operand `a` names the atomic; a remote one is sent to its home. -/
def execAtomicPerform (s : State) : Res :=
  .next (match s.op? s.arg.a with
    | none => s
    | some o => match o.kind with
      | .atomic x =>
        let n := tySize x.ty
        let g : Seg := ⟨x.loc, n⟩
        if olderMeets s o [g] then s
        else match x.loc with
          | .glob a =>
            if x.sent then s
            else
              let s := s.setOp o.id (.atomic { x with sent := true })
              fabRequest s o.id 0 (fld a 62 51)
                { kind := .atomic, tag := tagOf s o.own.ifc, off := fld a 50 0, len := n, op := x.fn,
                  ty := x.ty.toNat + (if x.f then 8 else 0), v := x.v, cmp := x.cmp, wit := o.win } (a / 256)
          | _ => if !delivered s o.id || !satHome s o.win || writeHeld s (coreOf o.own.cid) [g] then s else atomicHere s o x
      | _ => s)

/-! ### L1 -/

/-- The sectors of a line of this part fill L1 at the tick at which its home reads them (R269, R274): those whose data are bad stay out, and an
error found becomes poison (R275; log entry 119). -/
def fillHere (s : State) (o : Op) (core line lo n : Nat) : State :=
  let at' := fun (q : Nat) => line * 256 + q * 64
  let good := (upto lo n).filter fun q => (secFault s (at' q)).isNone
  let s := markPoison s ((upto lo n).map fun q => ⟨.dev (at' q), 64⟩)
  (if good.isEmpty then s else l1Fill s core line good o.win).dropOp o.id

/-- R269, R278: operand `a` names a request for sectors of a line. A line of this part fills L1 once the request has reached its home; of a line
of another part the home is asked, and the reply fills L1 (R358). -/
def execL1Fill (s : State) : Res :=
  .next (match s.op? s.arg.a with
    | none => s
    | some o => match o.kind with
      | .rload core line lo n _ =>
        if line < 2 ^ 55 then
          if !delivered s o.id || !satHome s o.win || l2Full s.l2 line then s else fillHere s o core line lo n
        else if s.fab.sends.any (·.op == o.id) then s
        else
          let a := line * 256 + lo * 64
          fabRequest s o.id 0 (fld a 62 51)
            { kind := .load, tag := tagOf s o.own.ifc, off := fld a 50 0, len := 64 * n, wit := o.win } line
      | _ => s)

/-- R269: operands `a` and `b` name a core and a line whose lifetime is over. -/
def execL1LineExpiry (s : State) : Res :=
  .next (s.modCore s.arg.a fun k => { k with l1 := k.l1.filter fun x => x.line != s.arg.b || l1Live s x })

/-- R271: operand `a` names the station; the change waits until no fill of the cluster is outstanding. -/
def execL1ModeChange (s : State) : Res :=
  let st := s.arg.a
  .next (match (s.stn st).fusePend with
    | none => s
    | some b =>
      let busy := s.ops.any fun o => match o.kind with
        | .rload c .. => stationOf c == st
        | _ => false
      if busy then s
      else
        let s := s.modStn st fun t => { t with fused := b, fusePend := none }
        (upto (st * 4) 4).foldl (fun s c => dropCoreChunks (s.modCore c fun k => { k with l1 := [] }) [c]) s)

/-! ### L2 and memory -/

/-- The Dill class and unit of an uncorrectable error of device memory (R396, R445): a stack or a channel. -/
def memUnit (pa : Nat) : Nat × Nat :=
  if pa < 2 ^ 44 then (7, 3 * (pa / (192 * 2 ^ 30)) + pa / 256 % 3) else (9, (pa - 2 ^ 44) / 2 ^ 38)

/-- R274, R275: operand `a` is the address of a sector that fills its home slice, once its set has a way without a pin. With `flag` an error is
found, which operand `b` describes: 1 one that HBM or DDR has corrected, which is only counted; 2 one in the slice's own data that cannot be
corrected, 3 one there that has been; otherwise one in HBM or DDR that cannot. The read that asked for uncorrectable data detects it. A fill
that no read asked for poisons a sector known to be bad. -/
def execL2Fill (s : State) : Res :=
  let pa := s.arg.a / 64 * 64
  let q := pa / 64
  .next (if !tierOk s (pa / 2 ^ 44) (pa % 2 ^ 44) 64 || l2Full s.l2 (pa / 256) then s
    else
      let s := { s with l2 := l2Touch s.l2 (pa / 256) (secMask pa 64) 0 }
      let u := memUnit pa
      let slice := homeDie pa * 512 + sliceOf pa
      let bad := { s with ue := s.ue ++ [q].filter (!s.ue.contains ·) }
      if s.arg.flag then
        match s.arg.b with
        | 1 => dillAdd s (u.1 - 1) u.2
        | 2 => dillAdd bad 1 slice
        | 3 => dillAdd s 0 slice
        | _ => dillAdd bad u.1 u.2
      else markPoison s [⟨.dev pa, 64⟩])

/-! ### Translation -/

/-- The interface whose translations a core uses: a stream core serves the one that operand `c` names. -/
def walkIfc (s : State) (core : Nat) : Option Nat := if core < 1024 then (s.core core).own else some s.arg.c

/-- R400, R402: operands `a` and `b` name a core and a virtual address; a walk that faults installs nothing. -/
def execTranslationWalk (s : State) : Res :=
  let core := s.arg.a
  .next (match walkIfc s core with
    | none => s
    | some ifc =>
      if kindOf s.arg.b ≠ 0 then s
      else
        let w : Who := { core := core, ifc := ifc, pages := [] }
        match walk s ifc s.arg.b with
        | .error _ => noteWalk s w s.arg.b
        | .ok (e, lvl) =>
          installXlat (noteCe s (walkSegs s w s.arg.b)) w
            { ifc := ifc, va := s.arg.b / pageSize lvl * pageSize lvl, size := pageSize lvl, pte := wd e, gen := xlatGen s ifc })

/-! ### Pages -/

/-- A page that an engine still uses after its task has ended takes its refill (R246, R264, R265). One whose backing cannot be read never
gets it. -/
def refillOrphan (s : State) (st phys : Nat) : State :=
  match (s.stn st).orphans.find? fun x => x.phys == phys && x.asked with
  | none => s
  | some x => match resolve s (portWho (st * 4) x.ifc) { loc := false } false x.va 65536 with
    | .error _ => s
    | .ok src =>
      if !crossesTo s x.ifc src (.sp (st * 2 ^ 21)) then s
      else (moveSegs (touchXlat s (portWho (st * 4) x.ifc) x.va 65536) src (pageSegs st phys)).modStn st fun t =>
        { t with orphans := t.orphans.filter (·.phys != phys) }

/-- R106, R246: operands `a` and `b` name a context and a logical page whose refill ends; with `flag`, a station and a physical page. -/
def execPageRefillComplete (s : State) : Res :=
  let cid := s.arg.a
  let j := s.arg.b
  let c := s.ctx cid
  .next (if s.arg.flag then refillOrphan s cid j else match c.pages[j]? with
    | none => s
    | some p =>
      if p.st != .fill || !c.refill.contains j || c.st == .free then s
      else match resolve s (portWho (coreOf cid) c.ifc) { loc := false } false (backingVa c.lb j) 65536 with
        | .error (e, a) =>
          let s := noteWalk s (portWho (coreOf cid) c.ifc) a
          contain s cid { cls := 1, code := e.num, addr := wd a, tick := s.tick } true false
        | .ok src =>
          if !crossesTo s c.ifc src (.sp (cidStation cid * 2 ^ 21)) then s
          else
            let s := moveSegs (touchXlat s (portWho (coreOf cid) c.ifc) (backingVa c.lb j) 65536) src (pageSegs (cidStation cid) p.phys)
            s.modCtx cid fun c => { c with pages := c.pages.set j { p with st := .present }, refill := c.refill.erase j })

/-! ### Operand ports -/

/-- The next positions of a port, up to eight beyond its own (R188). -/
def aheadOf (p : Port) : (n : Nat) → List Nat
  | 0 => []
  | n + 1 =>
    match pStep p with
    | (none, _) => []
    | (some j, q) => j :: aheadOf { p with pos := q } n

/-- The chunk at a position, or the fault held with it; chunks outside device memory are read when they are popped (R188, R190). -/
def fetchChunk (s : State) (cid : Nat) (p : Port) (j : Nat) : State × Option Chunk :=
  let a := pAddr p j
  let len := pBytes p.rcd
  match resolve s (s.who cid) accPort false a len with
  | .error (c, x) => (noteWalk s (s.who cid) x, some { pos := j, bytes := [], fault := some (c.num, x), tick := s.tick })
  | .ok segs =>
    if segs.any (fun g => match g.loc with | .dev _ => false | _ => true) || storePending s cid segs ||
        fusing s (coreOf cid) || l2Waits s segs then (s, none)
    else
      let s := touchXlat s (s.who cid) a len
      match l1Read s (coreOf cid) p.wit segs with
      | (s, .ok bs) => (s, some { pos := j, bytes := bs, tick := s.tick, runs := segs.map runOf })
      | (s, .fault c off) =>
        (markPoison s (segAt segs off), some { pos := j, bytes := [], fault := some (c.num, a + off), tick := s.tick, runs := segs.map runOf })
      | (s, .wait ..) => (s, none)

/-- R188–R190: operands `a`, `flag` and `b` name a context, a file and a port; the first chunk ahead that is missing arrives. -/
def execPortChunkArrival (s : State) : Res :=
  let cid := s.arg.a
  let f := s.arg.flag
  let c := s.ctx cid
  let p : Port := tget {} (c.vf f).ports s.arg.b
  .next (if c.st == .free || c.st == .evicted || c.st == .frozen || !p.conf || !satHome s p.wit then s
    else match (aheadOf p 8).find? fun j => !p.chunks.any (·.pos == j) with
      | none => s
      | some j =>
        match fetchChunk s cid p j with
        | (s, some k) =>
          s.modCtx cid fun c => c.modVf f fun x =>
            { x with ports := tput x.ports s.arg.b { tget {} x.ports s.arg.b with chunks := p.chunks ++ [k] } }
        | (s, none) => s)

/-! ### Barriers and witnesses -/

/-- R156, R157: operand `a` names a `barv` whose message has reached the core of its barrier. -/
def execBarrierArrival (s : State) : Res :=
  .next (match s.op? s.arg.a with
    | none => s
    | some o => match o.kind with
      | .barv t ifc tseq b w =>
        if !delivered s o.id then s
        else
          let r := arriveAt s t ifc tseq b w
          r.1.finish o (arrivalWit r.1 r.2 w)
      | _ => s)

/-- An operation that fills a scratchpad, and the tick at which it started (R300). -/
def fillStart (o : Op) : Option Nat :=
  match o.kind with
  | .copy x => if o.tick = 0 || x.kind == 3 || kindOf x.dst.toNat != 2 then none else some o.tick
  | .mcst _ | .gld _ | .pull _ => if o.tick = 0 then none else some o.tick
  | _ => none

/-- An old witness (R300). -/
def oldWit (s : State) (w : Word) : Bool :=
  (wScope w == 1 || wScope w == 2) && !wPsn w && decide (wTick w + 65536 < s.tick) &&
  s.ops.all fun o => match fillStart o with
    | some t => decide (wTick w < t)
    | none => true

/-- R300: operands `a` and `b` name a context and a register whose old witness becomes null; with `flag`, operand `a` names an operation whose
held inputs do. -/
def execWitnessCollapse (s : State) : Res :=
  .next (if s.arg.flag then
      { s with ops := s.ops.map fun o => if o.id == s.arg.a && oldWit s o.win then { o with win := 0 } else o }
    else s.modCtx s.arg.a fun c =>
      let x : WReg := tget {} c.w s.arg.b
      if x.pend.isNone && oldWit s x.val then { c with w := tput c.w s.arg.b { val := 0 } } else c)

end Sys2Proof.Machine
end

