-- ==== Sys2Proof/Machine/EngineWork.lean ====
section
/-! DEFINITION. The matrix engine after commit, its faults and line pins, scale loads, and the die power accountant (R213–R240,
R437–R440). -/
namespace Sys2Proof.Machine

/-! ### Order in the engine -/

/-- The matrix operation that an operation is. -/
def Op.mop? (o : Op) : Option MOp :=
  match o.kind with
  | .m m => some m
  | _ => none

/-- An operation of the array (R215). -/
def MOp.onArray (m : MOp) : Bool := m.kind == .mma || m.kind == .mmaz

/-- The tiles that an operation names. -/
def MOp.tiles (m : MOp) : List Nat :=
  match m.kind with
  | .mmov => [m.acc, m.acc2]
  | .check => []
  | _ => [m.acc]

/-- The operations before one in commit order. -/
def olderOps (s : State) (o : Op) : List Op := s.ops.takeWhile (·.id != o.id)

/-- Every older operation of the context on the same tiles has finished; held ones wait for their handler (R215, R239). -/
def tileFree (s : State) (o : Op) (m : MOp) : Bool :=
  !(olderOps s o).any fun x => x.own.cid == o.own.cid && x.own.uid == o.own.uid && match x.mop? with
    | some y => !x.held && y.tiles.any m.tiles.contains
    | none => false

/-- The array is at this operation (R215). -/
def arrayTurn (s : State) (o : Op) : Bool :=
  !(olderOps s o).any fun x => coreOf x.own.cid == coreOf o.own.cid && match x.mop? with
    | some y => !x.held && y.onArray
    | none => false

/-- The k-blocks of an issue (R227). -/
def MOp.blocks (m : MOp) : Nat := tdBlks m.tda

/-- The located bytes of block `b` of every line of an operand (R219). -/
def blockSegsOf (lines : List (List Seg)) (fmt : BitVec 4) (b : Nat) : List (List Seg) :=
  lines.map fun l => cutSegs l (b * bpb fmt) (bpb fmt)

/-- The located bytes of the next block of both operands. -/
def nextBlock (m : MOp) : List (List Seg) × List (List Seg) :=
  (blockSegsOf m.linesA m.fa m.blk, blockSegsOf m.linesB m.fb m.blk)

/-- The view of an operand (R218, R250). -/
def tdSwz (t : BitVec 256) : Bool := tdView t == 2

/-- Whether an operation may read these bytes now, but for ways of L2 (R228, R253, R298, R340). -/
def readOpen (s : State) (o : Op) (segs : List Seg) : Bool :=
  satHome s o.win && !tileLocked s (coreOf o.own.cid) segs && !fillsBefore s o.win segs &&
  crossesTo s o.own.ifc segs (.sp (cidStation o.own.cid * 2 ^ 21))

/-- Whether an operation that takes no pins may read these bytes now (R274). -/
def readReady (s : State) (o : Op) (segs : List Seg) : Bool := readOpen s o segs && !l2Waits s segs

/-- The bytes of an operand's lines. -/
def readLines (s : State) (t : BitVec 256) (win : Word) (l : List (List Seg)) : State × List (List Byte) :=
  l.foldl (init := (s, [])) fun r segs => let x := readIn r.1 (tdSwz t) win segs; (x.1, r.2 ++ [x.2])

/-! ### The task of an operation -/

/-- The registers of the task of an operation: its context's, or those kept after its `exit` (R127, log entry 16). -/
def ownCtx (s : State) (o : Op) : Ctx := if s.holds? o.own then s.ctx o.own.cid else tget {} s.gone o.own.uid

/-- The registers of the task of an operation changed. -/
def modOwner (s : State) (o : Op) (f : Ctx → Ctx) : State :=
  if s.holds? o.own then s.modCtx o.own.cid f
  else if s.gone.any (·.1 == o.own.uid) then { s with gone := tput s.gone o.own.uid (f (ownCtx s o)) }
  else s

/-- The cycles for which a block has been held since they were counted last join THR (R236), in units of 1,024. -/
def countHeld (s : State) (o : Op) (m : MOp) : State :=
  if m.asked.isNone then s
  else modOwner s o fun c =>
    let n := c.mxHeld + (s.cycle - m.askTick * 9 / 20)
    { c with mxHeld := n, mxPwr := wd (min (n / 1024) 0xFFFF * 2 ^ 48 + c.mxPwr.toNat % 2 ^ 48) }

/-! ### Engine faults -/

/-- An M operation held: its units are no longer asked for, and its pins are released, so that it fetches again (R229, R237). -/
def Op.hold (o : Op) : Op :=
  match o.kind with
  | .m m => { o with held := true, kind := .m { m with asked := none, pins := [], got := [] } }
  | _ => { o with held := true }

/-- Younger M operations of the context are held (R237): the state and their number. -/
def holdYounger (s : State) (o : Op) : State × Nat :=
  let old := (olderOps s o).map (·.id)
  let is := fun (x : Op) => x.id != o.id && !old.contains x.id && x.own.cid == o.own.cid && x.own.uid == o.own.uid && x.mOpen && !x.held
  let young := s.ops.filter is
  let s := young.foldl (fun s x => match x.mop? with | some m => unpin (countHeld s x m) m.pins | none => s) s
  ({ s with ops := s.ops.map fun x => if is x then x.hold else x }, young.length)

/-- `mx.k` after a fault (R238). -/
def mxkWord (m : Option MOp) (heldN : Nat) : Word :=
  match m with
  | none => wd (heldN % 16 * 2 ^ 59)
  | some m => wd (2 ^ 63 + heldN % 16 * 2 ^ 59 + m.acc % 8 * 2 ^ 56 + m.j % 256 * 2 ^ 48 + (m.ka + 32 * m.blk) % 65536 * 2 ^ 32 +
      (m.kb + 32 * m.blk) % 65536 * 2 ^ 16 + m.blk % 64)

/-- The virtual address of a bad sector of an operand line (R237): the line's address plus the sector's offset. -/
def badAddr (a off : Nat) : Word := wd ((a + off) / 64 * 64)

/-- The result of a drain that an engine fault stops never lands: `mrow` keeps its contents (R444; log entry 120). -/
def dropLate (s : State) (o : Op) : State :=
  let keep := fun (l : Landing) => l.late != some o.id
  if s.holds? o.own then
    s.modCtx o.own.cid fun c => { c with landing := c.landing.filter keep
                                         resume := c.resume.map fun r => { r with landing := r.landing.filter keep } }
  else s

/-- What a stopped operation leaves in its task: the flags of the blocks it folded (R89), and the cycles it was held (R236). -/
def leaveFlags (s : State) (o : Op) : State :=
  match o.kind with
  | .m m => modOwner (unpin (countHeld s o m) m.pins) o fun c => { c with mxStat := c.mxStat ||| m.fl.zeroExtend 64 }
  | _ => s

/-- Steps 2 to 5 of an engine fault (R237): `k` describes a stopped multiply; an error of a register names no address. -/
def engineStop (s : State) (o : Op) (k : Option MOp) (code : Code) (addr : Option Word) (bad : List Seg) : State :=
  let (s, n) := holdYounger (markPoison (leaveFlags s o) bad) o
  let s := if s.holds? o.own then s.modCtx o.own.cid fun c => { c with mxK := mxkWord k n } else s
  (asyncFault s o.own { cls := 4, code := code.num, mask := 8, addr := addr.getD 0, here := addr.isNone }).finish o (stopWit s o)

/-- The first bad sector of operand lines, as its code, its address and its place (R237): each line comes with its address. -/
def badLine (s : State) : (l : List (Nat × List Seg)) → Option (Code × Word × List Seg)
  | [] => none
  | (a, segs) :: l =>
    match badSeg s 0 segs with
    | some (c, off) => some (c, badAddr a off, segAt segs off)
    | none => badLine s l

/-- The addresses of block `b` of the lines of an operand, with their located bytes. -/
def addrLines (t : BitVec 256) (k : Nat) (fmt : BitVec 4) (b : Nat) (l : List (List Seg)) : List (Nat × List Seg) :=
  (blockSegsOf l fmt b).zipIdx.map fun p => (lineAddr t k (bpb fmt) p.2 + b * bpb fmt, p.1)

/-- The bad data that the next block of a multiply meets. -/
def badBlock (s : State) (m : MOp) : Option (Code × Word × List Seg) :=
  badLine s (addrLines m.tda m.ka m.fa m.blk m.linesA ++ addrLines m.tdb m.kb m.fb m.blk m.linesB)

/-- The rows of a tile in memory with their addresses (R232). -/
def tileRows (m : MOp) : List (Nat × List Seg) :=
  m.linesA.zipIdx.map fun p => (lineAddr m.tda (tdKorg m.tda) (bpb m.fa) p.2, p.1)

/-- A tile row changed. -/
def setRow (c : Ctx) (acc r : Nat) (v : VReg) : Ctx :=
  { c with acc := tput c.acc (acc * 128 + r) v, accUe := c.accUe.filter (· != acc * 128 + r) }

/-- A tile zeroed (R227, R233). -/
def zeroTile (c : Ctx) (acc : Nat) : Ctx :=
  { c with acc := c.acc.filter fun p => p.1 / 128 != acc, accUe := c.accUe.filter fun r => r / 128 != acc }

/-- Rows of memory written into a tile (R232); a row that is written in part keeps its error. -/
def loadRows (m : MOp) (rows : List (List Byte)) (c : Ctx) : Ctx :=
  let ue := c.accUe
  let c := rows.zipIdx.foldl (init := c) fun c p =>
    setRow c m.acc p.2 (loadCols (tget 0 c.acc (m.acc * 128 + p.2)) (tdKorg m.tda) (32 * tdBlks m.tda) p.1)
  if tdBlks m.tda = 2 then c else { c with accUe := ue }

/-- The rows before the first that holds a byte of a bad sector (R237). -/
def goodRows (s : State) (m : MOp) : Nat := (m.linesA.takeWhile fun l => (badSeg s 0 l).isNone).length

/-- A scale load that may read (R224, R228): older loads of the register have their data. -/
def msclReady (s : State) (o : Op) (e : Nat) (segs : List Seg) : Bool :=
  !o.held && readReady s o segs && !(olderOps s o).any fun x => x.own.cid == o.own.cid && x.own.uid == o.own.uid && !x.held && match x.kind with
    | .mscl r _ _ _ data => r == e && data.isEmpty
    | _ => false

/-- The bytes that an operation reads next: the next block of a multiply, or the rows of an `mld`. -/
def readsNext (m : MOp) : List Seg := if m.onArray then ((nextBlock m).1 ++ (nextBlock m).2).flatten else m.linesA.flatten

/-- The tile rows that an operation reads, as tile · 128 + row. -/
def MOp.reads (m : MOp) : List Nat :=
  match m.kind with
  | .mma | .mmaz => if m.zero && m.blk == 0 then [] else upto (m.acc * 128) (tdLines m.tda)
  | .mdrn => [m.acc * 128 + m.row]
  | .mst => upto (m.acc * 128) (tdLines m.tda)
  | .mmov => upto (m.acc2 * 128) 128
  | .mld | .mzero | .check => []

/-- A register that an operation reads has an uncorrectable error (R444). -/
def regBad (s : State) (o : Op) (m : MOp) : Bool := m.ue || m.reads.any (ownCtx s o).accUe.contains

/-- An operation stops on an error of a register (R237, R444): a drain brings no row, and a store joins WSTO. -/
def regStop (s : State) (o : Op) (m : MOp) : State :=
  let s := if m.kind == .mst then s.account o.own false (stopWit s o) else if m.kind == .mdrn then dropLate s o else s
  engineStop s o (if m.onArray then some m else none) .memue none []

/-- An operation's turn to run has come (R215, R239). -/
def itsTurn (s : State) (o : Op) (m : MOp) : Bool := !o.held && tileFree s o m && (!m.onArray || arrayTurn s o)

/-- R237–R239, R444: operand `a` names an operation whose operand data or registers are bad. -/
def execEngineFault (s : State) : Res :=
  .next (match s.op? s.arg.a with
    | none => s
    | some o => match o.kind with
      | .m m =>
        if !itsTurn s o m then s
        else if regBad s o m then (if satHome s o.win then regStop s o m else s)
        else if m.onArray then
          if !readOpen s o (readsNext m) then s
          else match badBlock s m with
            | some (c, a, g) =>
              let s := if m.zero && m.blk == 0 then modOwner s o fun x => zeroTile x m.acc else s
              engineStop s o (some m) c (some a) g
            | none => s
        else if m.kind == .mld then
          if !readReady s o (readsNext m) then s
          else match badLine s (tileRows m) with
            | some (c, a, g) =>
              let (s, rows) := readLines s m.tda o.win (m.linesA.take (goodRows s m))
              engineStop (modOwner s o (loadRows m rows)) o none c (some a) g
            | none => s
        else s
      | .mscl e va segs _ data =>
        if !data.isEmpty || !msclReady s o e segs then s
        else match badSeg s 0 segs with
          | some (c, off) => engineStop s o none c (some (badAddr va.toNat off)) (segAt segs off)
          | none => s
      | _ => s)

/-! ### Multiplies and power -/

/-- The lines of device memory in located bytes. -/
def devLines (l : List (List Seg)) : List Nat :=
  (l.flatMap fun segs => segs.flatMap fun g => match g.loc with
    | .dev a => (lineRuns (g.len / 256 + 2) a g.len).map fun r => r.1 / 256
    | _ => []).eraseDups

/-- One more pin on a resident line. -/
def addPin (s : State) (n : Nat) : State :=
  { s with l2 := s.l2.map fun (x : L2Line) => if x.line == n then { x with pins := x.pins + 1 } else x }

/-- The lines that an issue fetches in order, as it stands: its pins and what it has fetched, and whether it must wait. -/
structure Fetch where
  s : State
  pins : List Nat
  got : List Nat
  wait : Bool := false

/-- One line fetched and pinned (R229, R274). Where every way of its set is pinned, the array consumes the lines of the set that the issue has
fetched before, in order, and releases them; a set that others fill, or a line at 15 pins, makes the fetch wait. -/
def fetchLine (x : Fetch) (n : Nat) : Fetch :=
  if x.wait || x.got.contains n then x
  else
    let mine := if l2Full x.s.l2 n then x.pins.filter fun k => l2Key k == l2Key n else []
    let s := unpin x.s mine
    let pins := x.pins.filter (!mine.contains ·)
    if l2Full s.l2 n || s.l2.any fun y => y.line == n && decide (15 ≤ y.pins) then { x with s := s, pins := pins, wait := true }
    else { s := addPin { s with l2 := l2Touch s.l2 n 15 0 } n, pins := pins ++ [n], got := x.got ++ [n] }

/-- The lines of the next block of a multiply. -/
def blockLines (m : MOp) : List Nat := devLines ((nextBlock m).1 ++ (nextBlock m).2)

/-- The lines of the next block are there (R229). -/
def blockHere (m : MOp) : Bool := (blockLines m).all m.got.contains

/-- The next block's lines fetched as far as they can be (R229). -/
def fetchBlock (s : State) (m : MOp) : Fetch := (blockLines m).foldl fetchLine { s := s, pins := m.pins, got := m.got }

/-- The lines that the blocks after the next still need (R229). -/
def laterLines (m : MOp) : List Nat :=
  (upto (m.blk + 1) (m.blocks - (m.blk + 1))).flatMap fun b =>
    devLines (blockSegsOf m.linesA m.fa b ++ blockSegsOf m.linesB m.fb b)

/-- The first eight bytes of line 0 of a block. -/
def toggleBytes (s : State) (l : List (List Seg)) : List Byte := (readSegs s (cutSegs (l.headD []) 0 8)).take 8

/-- The array operation that a core's engine is at. -/
def arrayOp (s : State) (core : Nat) : Option (Op × MOp) :=
  s.ops.findSome? fun o => match o.kind with
    | .m m => if coreOf o.own.cid == core && m.onArray && !o.held then some (o, m) else none
    | _ => none

/-- The units of the next block (R235). -/
def askUnits (s : State) (m : MOp) : Nat :=
  let b := nextBlock m
  blkUnits m.fa m.fb (toggleBytes s b.1) (toggleBytes s b.2) m.prevA m.prevB

/-- R215, R228, R229, R235: operand `a` names the core; its next block is fetched, its lines are pinned, and its units are asked for unless
they are granted already. -/
def execMatrixBlockPowerRequest (s : State) : Res :=
  .next (match arrayOp s s.arg.a with
    | none => s
    | some (o, m) =>
      if m.asked.isSome || (m.blk < m.granted && blockHere m) || m.blocks ≤ m.blk || !tileFree s o m || regBad s o m ||
          (badBlock s m).isSome || !readOpen s o (readsNext m) then s
      else
        let x := fetchBlock s m
        let m := { m with pins := x.pins, got := x.got }
        x.s.setOp o.id (.m (if x.wait || m.blk < m.granted then m
          else { m with asked := some (askUnits s m), askTick := s.now, heldPeriods := 0 })))

/-- A block request of a die: units, periods held and core (R439). -/
def dieAsks (s : State) (die : Nat) : List (Op × MOp × Nat) :=
  sortBy (fun (x y : Op × MOp × Nat) =>
      let hx := decide (4 ≤ x.2.1.heldPeriods)
      let hy := decide (4 ≤ y.2.1.heldPeriods)
      (hx && !hy) || (hx == hy && (decide (x.2.2 < y.2.2) || (x.2.2 == y.2.2 && decide (coreOf x.1.own.cid < coreOf y.1.own.cid)))))
    (s.ops.filterMap fun o => match o.kind with
      | .m m => match m.asked with
        | some u => if dieOf (coreOf o.own.cid) == die && !o.held then some (o, m, u) else none
        | none => none
      | _ => none)

/-- A granted block is charged to its context (R236, R439). -/
def chargePower (c : Ctx) (u : Nat) : Ctx :=
  let x := c.mxPwr.toNat
  let tot := min (fld x 47 16 + u) (2 ^ 32 - 1)
  { c with mxPwr := wd (fld x 63 48 * 2 ^ 48 + tot * 2 ^ 16 + fld x 15 0) }

/-- R439: operand `a` names the die; blocks whose units fit the remainder are granted. -/
def execPowerGrantDecision (s : State) : Res :=
  let d := s.arg.a
  .next ((dieAsks s d).foldl (init := s) fun s p =>
    let u := p.2.2
    let m := p.2.1
    if (s.die d).left < u then s
    else
      let s := s.modDie d fun x => { x with left := x.left - u }
      let s := modOwner (countHeld s p.1 m) p.1 fun c => chargePower c u
      s.setOp p.1.id (.m { m with asked := none, granted := m.blk + 1, units := m.units + u }))

/-- The matrix share of the units of an envelope (R438). -/
def envelopeUnits (watts : Nat) : Nat := if watts = 4800 then 2097152 else if watts = 4000 then 1316816 else 536480

/-- The blocks still held as a period begins (R236, R439). -/
def holdPeriod (s : State) (die : Nat) : State :=
  (dieAsks s die).foldl (init := s) fun s p =>
    (countHeld s p.1 p.2.1).setOp p.1.id (.m { p.2.1 with heldPeriods := p.2.1.heldPeriods + 1, askTick := s.now })

/-- The ticks at which a period begins (R6, R24, R438). -/
def periodTick (k : Nat) : Nat := k * 1024 * 20 / 9

/-- The envelopes asked for at least 1 ms before a period take effect, in the order of their requests (R437). -/
def dueEnvelopes (start : Nat) (p : Platform) : Platform :=
  let due := p.envNext.filter fun x => decide (x.2 + 4000000 ≤ start)
  { p with envelope := due.foldl (fun _ x => x.1) p.envelope, envNext := p.envNext.filter fun x => !decide (x.2 + 4000000 ≤ start) }

/-- R437, R438, R440: operand `a` names the die; a period begins. -/
def execAccountingPeriodStart (s : State) : Res :=
  let d := s.arg.a
  let k := s.cycle / 1024
  .next (if 4 ≤ d ∨ k ≤ (s.die d).period then s
    else
      let s := s.modPlat (dueEnvelopes (periodTick k))
      let b := if s.plat.arrays then envelopeUnits s.plat.envelope * s.plat.eighths / 8 else 0
      (holdPeriod s d).modDie d fun x => { x with budget := b, left := b, period := k })

/-- A completed multiply: LAST, its flags and its witness (R89, R227, R236). -/
def multiplyDone (s : State) (o : Op) (m : MOp) : State :=
  let s := modOwner s o fun c =>
    { c with mxStat := c.mxStat ||| m.fl.zeroExtend 64, mxPwr := wd (c.mxPwr.toNat / 65536 * 65536 + min m.units 16384) }
  s.finish o (wMerge (mkWit 1 false false s.tick) o.win)

/-- R227: operand `a` names the operation; one granted block is folded. -/
def execMmaPerform (s : State) : Res :=
  .next (match s.op? s.arg.a with
    | none => s
    | some o => match o.kind with
      | .m m =>
        if !m.onArray || !itsTurn s o m || m.granted ≤ m.blk || m.blocks ≤ m.blk || !blockHere m || regBad s o m ||
            (badBlock s m).isSome || !readOpen s o (readsNext m) then s
        else
          let b := nextBlock m
          let (s, ba) := readLines s m.tda o.win b.1
          let (s, bb) := readLines s m.tdb o.win b.2
          let c := ownCtx s o
          let c := if m.zero && m.blk == 0 then zeroTile c m.acc else c
          let r := foldBlock m.fa m.fb m.sa m.sb (m.ka / 32 + m.blk) (m.kb / 32 + m.blk) ba bb c.acc (m.acc * 128)
          let later := laterLines m
          let m' : MOp := { m with blk := m.blk + 1
                                   pins := m.pins.filter later.contains
                                   fl := m.fl ||| r.2.zeroExtend 8
                                   prevA := (ba.headD []).take 8
                                   prevB := (bb.headD []).take 8 }
          let s := unpin (modOwner s o fun _ => { c with acc := r.1 }) (m.pins.filter (!later.contains ·))
          let s := s.setOp o.id (.m m')
          if m'.blocks ≤ m'.blk then multiplyDone s o m' else s
      | _ => s)

/-! ### Drains, stores, loads and tile operations -/

/-- R231: operand `a` names the operation. -/
def execMdrnPerform (s : State) : Res :=
  .next (match s.op? s.arg.a with
    | none => s
    | some o => match o.kind with
      | .m m =>
        if m.kind != .mdrn || !itsTurn s o m || regBad s o m then s
        else
          let row := tget 0 (ownCtx s o).acc (m.acc * 128 + m.row)
          let s := s.landLate o.own o.id row
          (if m.clr then modOwner s o fun c => setRow c m.acc m.row 0 else s).dropOp o.id
      | _ => s)

/-- The rows that `mst` writes, with its flags (R232). -/
def storeRows (c : Ctx) (m : MOp) : List (List Byte) × Flags :=
  (List.range (tdLines m.tda)).foldl (init := ([], (0 : Flags))) fun z r =>
    let x := storeCols m.fa m.sat (tget 0 c.acc (m.acc * 128 + r)) (tdKorg m.tda) (32 * tdBlks m.tda)
    (z.1 ++ [x.1], z.2 ||| x.2)

/-- R232: operand `a` names the operation; its rows are written through the view of its descriptor. -/
def execMstPerform (s : State) : Res :=
  .next (match s.op? s.arg.a with
    | none => s
    | some o => match o.kind with
      | .m m =>
        let segs := m.linesA.flatten
        if m.kind != .mst || !itsTurn s o m || regBad s o m || !satHome s o.win || heldSegs s o segs ||
            writeHeld s (coreOf o.own.cid) segs then s
        else
          let r := storeRows (ownCtx s o) m
          let ps := (m.linesA.zip r.1).flatMap fun p => piecesOf p.1 p.2
          let s := ps.foldl (fun s p => l1Write (writeView s o.id o.own (tdSwz m.tda) p) (coreOf o.own.cid) p) s
          let s := snoop s (coreOf o.own.cid) (segs.map runOf)
          let s := modOwner s o fun c => { c with mxStat := c.mxStat ||| r.2.zeroExtend 64 }
          let w := ps.foldl (fun w p => wMerge w (mkWit (scopeOf p.loc) false false s.tick)) o.win
          (s.account o.own false w).finish o w
      | _ => s)

/-- R232: operand `a` names the operation. -/
def execMldPerform (s : State) : Res :=
  .next (match s.op? s.arg.a with
    | none => s
    | some o => match o.kind with
      | .m m =>
        if m.kind != .mld || !itsTurn s o m || regBad s o m || !readReady s o m.linesA.flatten || (badLine s (tileRows m)).isSome then s
        else
          let (s, rows) := readLines s m.tda o.win m.linesA
          (modOwner s o (loadRows m rows)).finish o (wMerge (mkWit 1 false false s.tick) o.win)
      | _ => s)

/-- A tile copied whole (R233). -/
def copyTile (c : Ctx) (d a : Nat) : Ctx :=
  (List.range 128).foldl (fun x r => setRow x d r (tget 0 c.acc (a * 128 + r))) c

/-- R233: operand `a` names an `mzero` or `mmov`. -/
def execTileOpPerform (s : State) : Res :=
  .next (match s.op? s.arg.a with
    | none => s
    | some o => match o.kind with
      | .m m =>
        if !itsTurn s o m || regBad s o m then s
        else match m.kind with
          | .mzero => (modOwner s o fun c => zeroTile c m.acc).dropOp o.id
          | .mmov => (modOwner s o fun c => copyTile c m.acc m.acc2).dropOp o.id
          | _ => s
      | _ => s)

/-- R224: operand `a` names a scale load; its data arrive, and land if their bundle has come. -/
def execMsclLanding (s : State) : Res :=
  .next (match s.op? s.arg.a with
    | none => s
    | some o => match o.kind with
      | .mscl e va segs due data =>
        if !data.isEmpty || !msclReady s o e segs || (badSeg s 0 segs).isSome then s
        else
          let (s, bs) := readIn s false o.win segs
          landScales (s.setOp o.id (.mscl e va segs due bs)) o.own.cid false
      | _ => s)

end Sys2Proof.Machine
end

