-- ==== Sys2Proof/Machine/CopyWork.lean ====
section
/-! DEFINITION. Copies on their channels, multicast branches, L2 range controls, group joins and group loads after commit, and writes that
wait for a snapshot (R249, R253–R265, R278, R282–R290, R430). -/
namespace Sys2Proof.Machine

/-! ### Copies -/

/-- An older copy runs on the channel (R254). -/
def chanWaits (s : State) (o : Op) (core ch : Nat) : Bool :=
  (olderOps s o).any fun x => match x.kind with
    | .copy y => y.core == core && y.ch == ch
    | .mcst y => y.core == core && y.ch == ch
    | _ => false

/-- A channel changed while it runs an operation (R258). -/
def modChan (s : State) (core ch id : Nat) (f : Chan → Chan) : State :=
  s.modCore core fun k =>
    let x : Chan := tget {} k.chans ch
    if x.run == some id then { k with chans := tput k.chans ch (f x) } else k

/-- An operation that begins (R265): its tick is set. -/
def beginTick (s : State) (id : Nat) : State :=
  { s with ops := s.ops.map fun o => if o.id == id then { o with tick := s.tick } else o }

/-- Bytes read in ascending sectors through an interface's translation, up to the first that cannot be read (R255, R287): the state,
the bytes, and the code of a stop. -/
def readAscending (w : Who) (sw : Bool) (win : Word) : (n : Nat) → (a : Nat) → (s : State) → State × List Byte × Option Nat
  | 0, _, s => (s, [], none)
  | n + 1, a, s =>
    match resolve s w { loc := true } sw a 64 with
    | .error (c, _) => (noteWalk s w a, [], some c.num)
    | .ok segs => match readUpTo (touchXlat s w a 64) sw win segs with
      | (s, _, some c) => (s, [], some c.num)
      | (s, bs, none) =>
        let r := readAscending w sw win n (a + 64) s
        (r.1, bs ++ r.2.1, r.2.2)

/-- Where sectors lie. -/
def sectorLocs (s : State) (w : Who) (l : List Nat) : List Seg :=
  l.flatMap fun a => match resolve s w {} false a 64 with
    | .ok g => g
    | .error _ => []

/-- An engine's access must wait: for fills into its pages that its witness covers, or for a way of L2 (R274, R298). -/
def engineWaits (s : State) (o : Op) (segs : List Seg) : Bool := fillsBefore (s.dropOp o.id) o.win segs || l2Waits s segs

/-- The context of a branch holds the task that it names, with the pages that it needs (R263). -/
def branchTaken (s : State) (o : Op) (b : Branch) (len : Nat) : Bool :=
  let c := s.ctx b.cid
  c.st != .free && c.ifc == o.own.ifc && c.tseq % 2 ^ 30 == b.tseq && decide (b.page * 65536 + b.sect * 64 + len ≤ c.pages.length * 65536)

/-- The sectors by which a branch of an `mcst` into its own source lies above it, if one does (R254): the nearest such branch. -/
def ownShift (s : State) (o : Op) (x : McstOp) : Option Nat :=
  let a := (x.src.toNat - localBase) / 64
  if kindOf x.src.toNat != 2 || !s.holds? o.own then none
  else (x.br.filterMap fun b =>
    let d := b.page * 1024 + b.sect
    if b.cid == o.own.cid && branchTaken s o b x.len && decide (a < d) && decide (d < a + x.len / 64) then some (d - a) else none).min?

/-- Source sectors as a copy in ascending order finds them when it writes `d` sectors above what it reads (R254). -/
def overlaid (d : Option Nat) (bs : List Byte) : List Byte :=
  match d with
  | none => bs
  | some d => (List.range (bs.length / 64)).flatMap fun i => (bs.drop (i % d * 64)).take 64

/-- The next tile of a copy: its sectors' destinations and sources (R253). -/
def copyTile' (x : CopyOp) : List (Nat × Nat) := (List.range (x.tileLen (x.total - x.pos) x.pos)).map fun i => x.sector (x.pos + i)

/-- Where the next tile of a copy is written and read. -/
def tileEnds (s : State) (o : Op) (x : CopyOp) : List Seg × List Seg :=
  let t := copyTile' x
  (sectorLocs s o.who (t.map (·.1)), sectorLocs s o.who (t.map (·.2)))

/-- Another copy of the core has locked a tile that the next one of this copy meets (R253). -/
def lockedOut (s : State) (o : Op) (x : CopyOp) : Bool :=
  let e := tileEnds s o x
  touchTiles ((s.ops.filter (·.id != o.id)).filterMap (lockOf x.core)) (e.1 ++ e.2)

/-- A copy starts writing its next tile, whose banks it locks unless another copy of its core has locked what it meets (R253; log entry 50). -/
def lockTile (s : State) (id : Nat) : State :=
  match s.op? id with
  | none => s
  | some o => match o.kind with
    | .copy x => if x.started && !x.lock && !lockedOut s o x then s.setOp id (.copy { x with lock := true }) else s
    | _ => s

/-- R254, R256, R263: operand `a` names a copy or `mcst` whose witness inputs are satisfied. -/
def execCopyStart (s : State) : Res :=
  .next (match s.op? s.arg.a with
    | none => s
    | some o =>
      if !satHome s o.win then s
      else match o.kind with
        | .copy x =>
          if x.started || chanWaits s o x.core x.ch then s
          else lockTile (beginTick (takeChan (s.setOp o.id (.copy { x with started := true, last := s.tick })) x.core x.ch o) o.id) o.id
        | .mcst x =>
          let src := sectorLocs s o.who ((List.range (x.len / 64)).map fun i => x.src.toNat + 64 * i)
          if x.started || chanWaits s o x.core x.ch || engineWaits s o src || tileLocked s x.core src then s
          else if let some s := fillGate s (opPages o x.src.toNat x.len) then s
          else
            let (s, bs, c) := readAscending o.who false o.win (x.len / 64) x.src.toNat s
            let x := { x with started := true, data := overlaid (ownShift s o x) bs, stop := c }
            sweepPages (beginTick (takeChan (s.setOp o.id (.mcst x)) x.core x.ch o) o.id) (cidStation o.own.cid)
        | _ => s)

/-- The view of a side (R250): the swizzled one only in the local window. -/
def sideView (sw : Bool) (a : Nat) : Bool := sw && kindOf a == 2

/-- One sector of a copy moved, or the code of the error that stops it (R255, R256). -/
def copySector (o : Op) (x : CopyOp) (s : State) (i : Nat) : State × Option Nat :=
  let p := x.sector i
  match resolve s o.who { wr := true } (sideView x.dsw p.1) p.1 64, resolve s o.who {} (sideView x.ssw p.2) p.2 64 with
  | .error (c, _), _ => (noteWalk s o.who p.1, some c.num)
  | _, .error (c, _) => (noteWalk s o.who p.2, some c.num)
  | .ok dst, .ok src =>
    match readUpTo (touchXlat (touchXlat s o.who p.1 64) o.who p.2 64) (sideView x.ssw p.2) o.win src with
    | (s, _, some c) => (s, some c.num)
    | (s, bs, none) => (writeSegs s dst bs, none)

/-- Sectors of a copy moved in order, up to an error. -/
def copySectors (o : Op) (x : CopyOp) : (n : Nat) → (i : Nat) → (s : State) → State × Nat × Option Nat
  | 0, i, s => (s, i, none)
  | n + 1, i, s =>
    match copySector o x s i with
    | (s, some c) => (s, i, some c)
    | (s, none) => copySectors o x n (i + 1) s

/-- The mesh lets every sector cross (R340). -/
def sectorsCross (s : State) (ifc : Nat) (src dst : List Seg) : Bool :=
  (src.zip dst).all fun p => meshOpen s ifc p.1.loc p.2.loc

/-- R253, R255, R256: operand `a` names a copy; its next tile is written and unlocked. -/
def execCopyTileComplete (s : State) : Res :=
  .next (match s.op? s.arg.a with
    | none => s
    | some o => match o.kind with
      | .copy x =>
        let (dst, src) := tileEnds s o x
        if !x.started || x.stop.isSome || x.total ≤ x.pos then s
        else if heldSegs s o dst || lockedOut s o x || dst.any fun g => marked s g.loc g.len then s
        else if engineWaits s o (dst ++ src) then s
        else if let some s := fillGate s (physPages (dst ++ src)) then s
        else if !sectorsCross s o.own.ifc src dst then s
        else
          let (s, i, c) := copySectors o x (copyTile' x).length x.pos s
          let s := s.setOp o.id (.copy { x with pos := i, lock := false, stop := c, last := s.tick })
          lockTile (modChan s x.core x.ch o.id fun k => { k with wp := 64 * i }) o.id
      | _ => s)

/-- A copy ends: its record, its witness, its channel and the pages that waited for it (R249, R259–R261). -/
def copyEnd (s : State) (o : Op) (core ch kind count stat fcode drop : Nat) (w : Word) : State :=
  let s := ringRecord s core kind ch (ctxNo o.own.cid) count stat fcode drop w
  let s := joinViews (modChan s core ch o.id fun k => { k with run := none }) (wTick w)
  sweepPages ((s.account o.own true w).finish o w) (stationOf core)

/-- The list entries of dropped branches (R259). -/
def dropMask (x : McstOp) : Nat := (x.br.filter (·.dropped)).foldl (fun z b => z + 2 ^ b.idx) 0

/-- R261, R263: operand `a` names the copy or `mcst`. -/
def execCopyComplete (s : State) : Res :=
  .next (match s.op? s.arg.a with
    | none => s
    | some o => match o.kind with
      | .copy x =>
        if !x.started || (x.stop.isNone && decide (x.pos < x.total)) then s
        else
          let w := if x.stop.isSome then stopWit s o
            else if x.total = 0 then 0
            else wMerge (mkWit (copyScope x) false false x.last) o.win
          copyEnd s o x.core x.ch x.kind (64 * x.pos) (if x.stop.isSome then 1 else 0) (x.stop.getD 0) 0 w
      | .mcst x =>
        if !x.started || x.br.any (fun b => !b.done && !b.dropped) then s
        else
          let any := x.br.any (·.done)
          let w := if x.stop.isSome then stopWit s o else if any then wMerge x.acc o.win else 0
          copyEnd s o x.core x.ch 2 (if any then x.data.length else 0)
            (if x.stop.isSome then 1 else if x.br.any (·.dropped) then 2 else 0) (x.stop.getD 0) (dropMask x) w
      | _ => s)

/-- R263: operands `a` and `b` name an `mcst` and an entry of its list. -/
def execMcstBranchArrival (s : State) : Res :=
  .next (match s.op? s.arg.a with
    | none => s
    | some o => match o.kind with
      | .mcst x => match x.br.find? fun b => b.idx == s.arg.b && !b.done && !b.dropped with
        | none => s
        | some b =>
          let put := fun (s : State) (b' : Branch) (acc : Word) =>
            let br := x.br.map fun y => if y.idx == b.idx then b' else y
            let s := s.setOp o.id (.mcst { x with br := br, acc := acc })
            if br.any (·.done) && br.all fun y => y.done || y.dropped then modChan s x.core x.ch o.id fun k => { k with wp := x.data.length } else s
          let off := b.page * 65536 + b.sect * 64
          let st := cidStation b.cid
          let dst := spSegs st ((s.ctx b.cid).pages.map (·.phys)) false (x.data.length / 65536 + 2) off x.data.length
          let src := sectorLocs s o.who ((List.range (x.len / 64)).map fun i => x.src.toNat + 64 * i)
          if !x.started then s
          else if !branchTaken s o b x.len then put s { b with dropped := true } x.acc
          else if let some s := fillGate s (physPages dst) then s
          else if heldSegs s o dst || tileLocked s x.core dst then s
          else if !crossesTo s o.own.ifc src (.sp (st * 2 ^ 21)) then s
          else
            let w := mkWit (if st = stationOf x.core then 1 else 2) false false s.tick
            put (joinViews (writeSegs s dst x.data) s.tick) { b with done := true } (wMerge x.acc w)
      | _ => s)

/-! ### L2 range controls -/

/-- The lines of located device memory. -/
def segLines (segs : List Seg) : List Nat := devLines [segs]

/-- Lines filled into their slices in order, up to one that finds every way of its set pinned (R274, R282): whether all were. -/
def fillLines (s : State) : (lines : List Nat) → State × Bool
  | [] => (s, true)
  | n :: ns =>
    if l2Full s.l2 n then (s, false)
    else fillLines (markPoison { s with l2 := l2Touch s.l2 n 15 0 } [⟨.dev (n * 256), 256⟩]) ns

/-- What a range control does to located lines (R282): 0 `l2pf`, which may have to wait for a way, 1 `l2wb`, 2 `l2inv`. -/
def rangeAct (s : State) (core k : Nat) (segs : List Seg) : State × Bool :=
  let lines := segLines segs
  match k with
  | 0 => fillLines s lines
  | 1 => ({ s with l2 := s.l2.map fun (x : L2Line) => if lines.contains x.line then { x with dirty := 0 } else x }, true)
  | _ =>
    let s := { s with l2 := s.l2.filter fun (x : L2Line) => !lines.contains x.line || x.dirty != 0 || decide (0 < x.pins) }
    (lines.foldl (fun s n => l1Drop s core n false) s, true)

/-- How a range control stands: it has ended, a page does not translate, or it waits at an address. -/
inductive RangeRes where
  | done
  | bad
  | wait (a : Nat)
  deriving DecidableEq, Repr

/-- A range control over its pages of 64 KiB, up to one that does not translate or a line that waits for a way (R274, R282). -/
def rangeWork (w : Who) (k : Nat) : (n : Nat) → (a len : Nat) → (s : State) → State × RangeRes
  | 0, _, _, s => (s, .done)
  | n + 1, a, len, s =>
    if len = 0 then (s, .done)
    else
      let m := min len (65536 - a % 65536)
      match resolve s w { loc := false } false a m with
      | .error (_, x) => (noteWalk s w x, .bad)
      | .ok segs => match rangeAct (touchXlat s w a m) w.core k segs with
        | (s, true) => rangeWork w k n (a + m) (len - m) s
        | (s, false) => (s, .wait a)

/-- R278, R282: operand `a` names the range control or the `wb`. -/
def execL2RangeComplete (s : State) : Res :=
  .next (match s.op? s.arg.a with
    | none => s
    | some o =>
      if !satHome s o.win then s
      else match o.kind with
        | .l2range k va len pos =>
          let (s, r) := rangeWork o.who k (len / 65536 + 2) (va.toNat + pos) (len - pos) s
          let s := if k = 2 then dropCoreChunks s (l1Sharers s (coreOf o.own.cid)) else s
          match r with
          | .wait a => s.setOp o.id (.l2range k va len (a - va.toNat))
          | r => s.finish o (wMerge (mkWit 2 (r == .bad) false s.tick) o.win)
        | .wb pa => (rangeAct s (coreOf o.own.cid) 1 [⟨.dev pa, 256⟩]).1.finish o (wMerge (mkWit 2 false false s.tick) o.win)
        | _ => s)

/-! ### Group loads -/

/-- R131: operand `a` names a join that has reached the die's group table. -/
def execGroupJoinArrival (s : State) : Res :=
  .next (match s.op? s.arg.a with
    | none => s
    | some o => match o.kind with
      | .join e g _ =>
        if !delivered s o.id then s
        else if s.holds? o.own then
          let (s, n) := joinGroup s o.own.cid e g none
          (s.landLate o.own o.id (BitVec.ofNat 2048 n)).dropOp o.id
        else s.dropOp o.id
      | _ => s)

/-- The home slice of a request's first line, as die · 512 + slice, and its physical address (R272, R285). -/
def gldHome (x : GldOp) : Nat × Nat :=
  match x.segs with
  | ⟨.dev pa, _⟩ :: _ => (homeDie pa * 512 + sliceOf pa, pa)
  | _ => (x.die * 512, 0)

/-- The group of a request. -/
def gldGroup (s : State) (x : GldOp) : Grp := tget {} (s.die x.die).grp x.g

/-- A request served alone after a release is counted (R286). -/
def straggle (s : State) (x : GldOp) (released : Option Nat) : State :=
  let s := s.modDie x.die fun d =>
    let g : Grp := tget {} d.grp x.g
    { d with grp := tput d.grp x.g { g with strag := min (g.strag + 1) (2 ^ 32 - 1) } }
  match released with
  | some t => dillBin s 14 x.die (s.tick - t)
  | none => s

/-- A sequence is above another (R284). -/
def seqAbove (a b : BitVec 32) : Bool := a != b && decide ((a - b).toNat < 2 ^ 31)

/-- A request fails with GRPMIS (R288): its record, its fault and its witness. -/
def gldFails (s : State) (o : Op) (x : GldOp) : State :=
  let w := stopWit s o
  let s := ringRecord s (coreOf o.own.cid) 4 0 (ctxNo o.own.cid) 0 1 Code.grpmis.num 0 w
  let s := asyncFault s o.own { cls := 3, code := Code.grpmis.num, addr := x.src }
  sweepPages (s.finish o w) (cidStation o.own.cid)

/-- A request by its number. -/
def gldOf (s : State) (id : Nat) : Option (Op × GldOp) :=
  (s.op? id).bind fun o => match o.kind with
    | .gld x => some (o, x)
    | _ => none

/-- A mismatch (R288): the entry trails with no fill, and everyone who asked fails. -/
def gldMismatch (s : State) (h : Hold) (o : Op) (x : GldOp) : State :=
  let s := s.modDie x.die fun d =>
    let g : Grp := tget {} d.grp x.g
    { d with grp := tput d.grp x.g { g with mis := true } }
  let t := holdTicks (gldGroup s x)
  let s := if h.trailing then s else noteRelease s h.die h.g h.q
  let fix := fun (y : Hold) => if y.id == h.id then
      let exp := y.exp.filter fun p => p.1 != o.own.cid
      if y.trailing then { y with exp := exp, mis := true }
      else { y with exp := exp, mis := true, trailing := true, released := s.tick, until' := s.tick + t }
    else y
  let s := { s with holds := s.holds.map fix }
  let fail := fun (s : State) (id : Nat) => match gldOf s id with
    | some (p, y) => gldFails s p y
    | none => s
  settleHolds ((h.reqs ++ [o.id]).foldl fail s)

/-- A request served alone (R286). -/
def serveAlone (s : State) (o : Op) (x : GldOp) (released : Option Nat) : State :=
  straggle (s.setOp o.id (.gld { x with stat := 3, peers := [o.id] })) x released

/-- The members expected with a request (R286): the current ones with NSEQ ≤ q, less the requester. -/
def gldExpects (s : State) (o : Op) (x : GldOp) : List (Nat × Nat) :=
  ((gldGroup s x).mem.filter fun m => m.1 != o.own.cid && !seqAbove m.2.2 x.q).map fun m => (m.1, m.2.1)

/-- A new hold entry (R286). -/
def openHold (s : State) (o : Op) (x : GldOp) (exp : List (Nat × Nat)) : State :=
  let g := gldGroup s x
  let (slice, pa) := gldHome x
  let (id, s) := s.newId
  let h : Hold :=
    { id := id, slice := slice, die := x.die, g := x.g, q := x.q, src := x.src, spa := pa, len := x.len,
      exp := exp, reqs := [o.id],
      made := s.tick, until' := s.tick + holdTicks g }
  settleHolds { s.setOp o.id (.gld { x with stat := 2 }) with holds := s.holds ++ [h] }

/-- The hold entry of a request's slice for its group and sequence (R286). -/
def gldEntry (s : State) (x : GldOp) : Option Hold :=
  s.holds.find? fun h => h.slice == (gldHome x).1 && h.die == x.die && h.g == x.g && h.q == x.q

/-- A request meets its entry (R286, R288). -/
def gldJoin (s : State) (h : Hold) (o : Op) (x : GldOp) : State :=
  if h.src != x.src || h.len != x.len || h.mis then gldMismatch s h o x
  else
    let came := fun (y : Hold) => if y.id == h.id then
        { y with exp := y.exp.filter (·.1 != o.own.cid), reqs := if h.trailing then y.reqs else y.reqs ++ [o.id] }
      else y
    let s := { s with holds := s.holds.map came }
    settleHolds (if h.trailing then serveAlone s o x (some h.released) else s.setOp o.id (.gld { x with stat := 2 }))

/-- A slice has no free hold entry (R286, R290). -/
def holdsFull (s : State) (slice : Nat) : Bool := decide (32 ≤ (s.holds.filter (·.slice == slice)).length)

/-- A request reaches its home slice (R286, R288, R290); one that must wait for an entry keeps the members expected with it. -/
def gldArrive (s : State) (o : Op) (x : GldOp) : State :=
  match gldEntry s x with
  | some h => gldJoin s h o x
  | none =>
    if (gldGroup s x).mem.any fun m => m.1 != o.own.cid && seqAbove m.2.2 x.q then
      serveAlone s o x (((gldGroup s x).rel.reverse.find? (·.1 == x.q)).map (·.2))
    else if holdsFull s (gldHome x).1 then s.setOp o.id (.gld { x with stat := 1, exp := gldExpects s o x })
    else openHold s o x (gldExpects s o x)

/-- R286: operand `a` names the request. -/
def execGldRequestArrival (s : State) : Res :=
  .next (match gldOf s s.arg.a with
    | some (o, x) => if x.stat = 0 then gldArrive s o x else s
    | none => s)

/-- R290: operand `a` names a slice (die · 512 + slice) with a free hold entry; its oldest waiting request goes on. -/
def execGldHoldEntryFreed (s : State) : Res :=
  let slice := s.arg.a
  .next (if holdsFull s slice then s
    else match s.ops.findSome? fun o => match o.kind with
        | .gld x => if x.stat == 1 && (gldHome x).1 == slice then some (o, x) else none
        | _ => none with
      | some (o, x) => match gldEntry s x with
        | some h => gldJoin s h o x
        | none => openHold s o x x.exp
      | none => s)

/-- R286: operand `a` names an open entry whose timer expires. -/
def execHoldTimerExpiry (s : State) : Res :=
  .next (match s.holds.find? (·.id == s.arg.a) with
    | some h => if !h.trailing && decide (h.until' ≤ s.tick) then settleHolds (holdRelease s h.id) else s
    | none => s)

/-- R286: operand `a` names a trailing entry whose time is over. -/
def execTrailingEntryTimeout (s : State) : Res :=
  .next { s with holds := s.holds.filter fun h => !(h.id == s.arg.a && h.trailing && decide (h.until' ≤ s.tick)) }

/-- The shared read of a release (R287): every request that it serves gets the same bytes. -/
def gldRead (s : State) (x : GldOp) : State :=
  let (s, bs, c) := readUpTo s false 0 x.segs
  let give := fun (p : Op) => match p.kind with
    | .gld y => if x.peers.contains p.id then
        { p with tick := s.tick, kind := .gld { y with read := true, data := bs, code := (c.map (·.num)).getD 0 } }
      else p
    | _ => p
  { s with ops := s.ops.map give }

/-- Every request of a release has its inputs satisfied (R287). -/
def peersSat (s : State) (x : GldOp) : Bool :=
  x.peers.all fun id => match gldOf s id with
    | some (p, _) => satHome s p.win
    | none => true

/-- A member's fill is written, and its request ends (R249, R259, R261, R287). One whose pages have been returned writes nothing (R289);
its record counts no bytes (log entry 109). -/
def gldFill (s : State) (o : Op) (x : GldOp) : State :=
  let n := x.data.length
  let dst := match resolve s o.who { wr := true, dev := false } x.sw x.dst.toNat n with
    | .ok l => l
    | .error _ => []
  if x.gone then
    (ringRecord s (coreOf o.own.cid) 4 0 (ctxNo o.own.cid) 0 0 0 0 (wMerge (mkWit 1 false false s.tick) o.win)).dropOp o.id
  else if heldSegs s o dst then s
  else if let some s := fillGate s (physPages dst) then s
  else if !crossesTo s o.own.ifc x.segs (.sp (cidStation o.own.cid * 2 ^ 21)) then s
  else
    let w := wMerge (mkWit 1 (x.code != 0) false s.tick) o.win
    let s := joinViews (writeSegs s dst x.data) (wTick w)
    let s := ringRecord s (coreOf o.own.cid) 4 0 (ctxNo o.own.cid) n (if x.code = 0 then 0 else 1) x.code 0 w
    sweepPages (s.finish o w) (cidStation o.own.cid)

/-- R287: operand `a` names a request that is served. -/
def execGroupFillComplete (s : State) : Res :=
  .next (match gldOf s s.arg.a with
    | none => s
    | some (o, x) =>
      if x.stat < 3 then s
      else if x.read then gldFill s o x
      else if !peersSat s x || l2Waits s x.segs then s
      else
        let s := gldRead s x
        match gldOf s o.id with
        | some (o, x) => gldFill s o x
        | none => s)

/-! ### Writes into marked pages -/

/-- The places that an operation writes next (R430). -/
def nextWrites (s : State) (o : Op) : List Seg :=
  match o.kind with
  | .store x => (x.left.filter (!·.loc.isGlob)).map (·.seg)
  | .atomic x => [⟨x.loc, tySize x.ty⟩]
  | .m m => if m.kind == .mst then m.linesA.flatten else []
  | .copy x => if x.started && x.stop.isNone then sectorLocs s o.who ((copyTile' x).map (·.1)) else []
  | .walkWit st e _ _ => match tget none (s.stn st).walks e with
    | some w => if w.op == o.id && fld w.desc.toNat 440 440 == 1 then
        (match tileMem s o w.desc.toNat w.tile true with | .ok l => l | .error _ => []) else []
    | none => []
  | .rsto x => x.segs
  | _ => []

/-- The writes that wait on marked pages now are counted, each once for each page (R430, R432). -/
def noteWaits (s : State) : State :=
  if s.ifcs.all fun p => p.2.snap.marks.isEmpty then s
  else (s.ops.filter fun o => satHome s o.win && delivered s o.id).foldl (fun s o => noteWait s o.id (nextWrites s o)) s

/-- R430: operand `a` names an operation whose write has reached a marked page. -/
def execMarkedPageWrite (s : State) : Res :=
  .next (match s.op? s.arg.a with
    | none => s
    | some o =>
      if !satHome s o.win then s
      else ((nextWrites s o).filter fun g => marked s g.loc g.len).foldl (fun s g => bayAdmit s g.loc g.len) (noteWaits s))

end Sys2Proof.Machine
end

