-- ==== Sys2Proof/Machine/Fabric.lean ====
section
/-! DEFINITION. Fabric stores, tickets, reductions and the shadow controls of a snapshot, as the C slots execute them; and the word
that does nothing (R49, R359, R361, R364, R369, R370, R434). -/
namespace Sys2Proof.Machine

/-- R49: a word of opcode 0 does nothing. -/
def execNop (_sl : Slot) (_stk : Bool) (s : State) : Res := .next s

/-! ### Fabric stores -/

/-- The source of a fabric store or contribution: the window checks and the first and last sector's translation (R359, R370). -/
def srcErrs (s : State) (va len : Nat) : List (Option (Code × Nat)) :=
  [rangeKind s s.iss.cid va len, endsXlat s s.iss.cid false va len]

/-- A fabric store cannot be queued (R350): no working port leads to its destination; or, for a multicast, none of the switched ports works, or
none that leads to a member of another pod. -/
def fstBlocked (s : State) (mc : Bool) (dests : List Nat) (line : Nat) : Bool :=
  let sw := (List.range 32).any fun p => !(s.port p).circuit
  let near := fun (p : Nat) => mc && sw && p / 256 == s.fab.part / 256
  (dests.any near && (mcastPath s line).isNone) ||
    dests.any fun p => !near p && (!mc || !(routePorts s p).isEmpty) && (pathTo s p line).isNone

/-- A fabric store that starts at commit (R359–R361); it waits while no working port reaches a destination (R350). -/
def fabricStore (f : CO) (s : State) (units n a : Nat) (mc : Bool) (dests : List Nat) (off : Nat) : State :=
  withWin s [f.wi1, f.wi2, f.wi3] fun w =>
    if fstBlocked s mc dests (off / 256) then s.wait
    else ((touchEnds (s.charge units (n / 64)) a n).start w f.wo
      (.fst { mc := mc, ff := f.ch.getLsbD 0, rcd := f.ch.getLsbD 1, dests := dests, off := off, src := wd a, len := n })).2

/-- A length outside 64 to 65,536 (R359). -/
def fstLen (s : State) (n : Nat) : Option (Code × Nat) := if n < 64 ∨ 65536 < n then some (.illenc, s.iss.pc.toNat) else none

/-- R359, R360. -/
def execFst (f : CO) (s : State) : Res :=
  .next (
    let d := (cAddr s f f.d).toNat
    let a := (cAddr s f f.a).toNat
    let n := (s.me.areg f.file f.b).toNat
    let dest : Option (Code × Nat) := match resolve s (s.who s.iss.cid) { wr := true, loc := false, dev := false, glob := true } false d n with
      | .error e => some e
      | .ok _ => none
    orFault s (firstErr ([misaligned [(d, d), (a, a), (n, d)], fstLen s n, dest] ++ srcErrs s a n)) fun s =>
      fabricStore f s 2 n a false [fld d 62 51] (fld d 50 0))

/-- The destinations of a record, less the issuing part (R361, R362). -/
def fmstDests (own x : Nat) : List Nat :=
  (List.range 16).flatMap fun q =>
    if fld x (256 + q) (256 + q) = 1 then
      (List.range 256).filterMap fun m => if fld x m m = 1 ∧ 256 * q + m ≠ own then some (256 * q + m) else none
    else []

/-- R361, R362. -/
def execFmst (f : CO) (s : State) : Res :=
  .next (
    let d := (s.me.areg f.file f.d).toNat
    let a := (cAddr s f f.a).toNat
    let n := (s.me.areg f.file f.b).toNat
    orFault s (firstErr ([misaligned [(a, a), (n, a)], fstLen s n] ++ srcErrs s a n)) fun s =>
      slotRecord s accRec 64 d 64 0 fun s x =>
        if fld x 511 331 ≠ 0 ∨ fld x 279 272 ≠ 0 ∨ fld x 271 256 = 0 ∨ fld x 255 0 = 0 then s.faultB .illenc
        else fabricStore f s 8 n a true (fmstDests s.fab.part x) (fld x 330 280))

/-! ### Tickets -/

/-- A ticket word with a bit that R364 keeps zero. -/
def badTicket (v : Nat) : Bool := fld v 15 12 != 0 || fld v 31 21 != 0 || fld v 62 44 != 0

/-- A ticket message that no working port can take holds its bundle (R350). -/
def ticketBlocked (s : State) (v : Nat) (k : State) : State :=
  let part := fld v 11 0
  if part ≠ s.fab.part ∧ s.fab.members.contains part ∧ (pathTo s part (fld v 20 16)).isNone then s.wait else k

/-- R364: the number is asked for at commit, and lands with the reply. -/
def execTkget (f : CO) (s : State) : Res :=
  .next (
    let v := (s.me.areg f.file f.a).toNat
    let s := s.charge 2 0
    if fld v 15 12 ≠ 0 ∨ fld v 31 21 ≠ 0 ∨ fld v 63 48 ≠ 0 ∨ 1000 < fld v 47 32 then s.faultB .illenc
    else
      ticketBlocked s v <| let (id, s) := s.start 0 none (.tkget (fld v 11 0) (fld v 20 16) (if fld v 47 32 = 0 then 20 else fld v 47 32))
      s.landLateA f.file f.d id)

/-- R364. -/
def execTkwait (f : CO) (s : State) : Res :=
  .next (
    let v := (s.me.areg f.file f.a).toNat
    let s := s.charge 2 0
    if badTicket v then s.faultB .illenc
    else if fld v 63 63 = 1 then
      match WFi f.wo with
      | some r => s.eff (.wset r (mkWit 2 true false s.tick))
      | none => s
    else ticketBlocked s v (s.start 0 f.wo (.tkwait (fld v 11 0) (fld v 20 16) (fld v 43 32))).2)

/-- R364: a FULL word names no ticket, so the ticket is unknown. -/
def execTkdone (f : CO) (s : State) : Res :=
  .next (
    let v := (s.me.areg f.file f.a).toNat
    let s := s.charge 2 0
    if badTicket v then s.faultB .illenc
    else if fld v 63 63 = 1 then s.landA f.file f.d 2 s.lat.cst
    else
      ticketBlocked s v <| let (id, s) := s.start 0 none (.tkdone (fld v 11 0) (fld v 20 16) (fld v 43 32))
      s.landLateA f.file f.d id)

/-! ### Reductions -/

/-- A switch that a switched port of this part reaches (R369). -/
def swReached (s : State) (sw : Nat) : Bool :=
  (List.range 32).any fun p => let x := s.port p; !x.circuit && x.sw == sw && !(linksUp x).isEmpty

/-- An invalid field of a reduction descriptor (R368, R369). -/
def badReduction (s : State) (d : Nat) : Bool :=
  let n := fld d 301 288 + 1
  fld d 511 320 != 0 || fld d 311 310 != 0 || fld d 307 307 != 0 || fld d 303 302 != 0 || decide (2 ≤ fld d 309 308) ||
  decide (4 ≤ fld d 306 304) || (fld d 306 304 == 3 && fld d 309 308 != 0) || n % 16 != 0 || fld d 287 256 == 0 ||
  decide (1000000 < fld d 287 256) || fld d 255 0 == 0 || !swReached s (fld d 319 312)

/-- R369: the slot is asked for at commit, and the handle lands with the reply. -/
def execRslot (f : CO) (s : State) : Res :=
  .next (
    let a := (s.me.areg f.file f.a).toNat
    slotRecord (s.charge 8 0) accRec 64 a 64 0 fun s d =>
      if badReduction s d then s.faultB .illenc
      else
        let (id, s) := s.start 0 none (.rslot (BitVec.ofNat 512 d))
        s.landLateA f.file f.d id)

/-- R370: the destination is translated here, the source is read after the commit. -/
def execRsto (f : CO) (s : State) : Res :=
  .next (
    let d := (s.me.areg f.file f.d).toNat
    let a := (s.me.areg f.file f.a).toNat
    let h := (s.me.areg f.file f.b).toNat
    let n := 4 * (fld h 45 32 + 1)
    orFault s (firstErr ([misaligned [(d, d), (a, a)], if fld h 63 63 = 1 then some (.illenc, s.iss.pc.toNat) else none] ++
        srcErrs s a n)) fun s =>
      match resolve s (s.who s.iss.cid) { wr := true } false d (n + 64) with
      | .error (c, x) => s.faultAt c x
      | .ok segs => withWin s [f.wi1, f.wi2, f.wi3] fun w =>
        if (switchPath s (fld h 27 20) (a / 256)).isNone then s.wait
        else ((touchXlat (touchEnds (s.charge 2 (sectors a n)) a n) (s.who s.iss.cid) d (n + 64)).start w f.wo
          (.rsto { dst := wd d, src := wd a, handle := wd h, count := fld h 45 32 + 1, segs := segs })).2)

/-! ### Shadow controls -/

/-- R434. -/
def execShcp (f : CO) (s : State) : Res :=
  .next ((s.charge 1 0).eff (.shadow false (s.me.areg f.file f.a) (WFi f.wo)))
/-- R434. -/
def execShdrn (f : CO) (s : State) : Res :=
  .next ((s.charge 1 0).eff (.shadow true (s.me.areg f.file f.a) (WFi f.wo)))

end Sys2Proof.Machine
end

