-- ==== Sys2Proof/Machine/FabWork.lean ====
section
/-! DEFINITION. The fabric after commit: links, circuit slots, send queues, windows and markers, requests and replies, fabric stores and
multicasts, tickets, reductions, reconfiguration and remote notices (R345–R373, R405, R455, R459, R463). -/
namespace Sys2Proof.Machine

/-! ### Outcomes at the source -/

/-- The code of an outcome that did not perform (R358). -/
def outCode : FabOutcome → Option Nat
  | .performed => none
  | .refused => some Code.xprot.num
  | .atstale => some Code.atstale.num
  | .memfault c => some c

/-- The reply that stands for a peer that never answers (R358, R366). -/
def goneReply : FabReply := { outcome := .memfault Code.peergone.num }

/-- The asynchronous fault of a fabric operation (R358). -/
def fabFault (s : State) (o : Op) (code : Nat) (addr : Word) : State :=
  asyncFault s o.own { cls := 3, code := code, addr := addr }

/-- The witness of a fabric reply, whose tick its home has raised by the skew bound (R295, R296). -/
def replyWit (r : FabReply) : Word := mkWit 3 false false r.tick

/-- Sectors of a line of another part with their numbers, from the first that was asked for. -/
def linesSecs (lo : Nat) (bs : List Byte) : List (Nat × List Byte) :=
  (List.range (bs.length / 64)).map fun i => (lo + i, (bs.drop (64 * i)).take 64)

/-- Sectors of a line of another part enter L1 (R269): a copy that still stands keeps its fill tick. -/
def fillFar (s : State) (core line : Nat) (secs : List (Nat × List Byte)) (tick : Nat) (win : Word) : State :=
  let old := l1Find s core line true win
  let keep := ((old.map (·.secs)).getD []).filter fun q => !secs.any (·.1 == q.1)
  s.modCore (l1Core s core line) fun k =>
    { k with l1 := l1Put k.l1 { line := line, glob := true, tick := (old.map (·.tick)).getD tick, secs := keep ++ secs } }

/-- What a load that waits is told of a line (R275, R298). -/
def lend (s : State) (o : Op) (x : Lent) : State :=
  if s.holds? o.own then s.modCtx o.own.cid fun c => { c with lent := c.lent ++ [x] } else s

/-- A reply with sectors of a line of another part (R269, R275, R276, R298, R358): they enter L1, or with a windowed witness go to the load
that waits for them alone; a bad sector faults that load precisely, a refusal or a loss asynchronously. A `pref` does nothing then. -/
def takeLine (s : State) (o : Op) (core line lo : Nat) (pref : Bool) (r : FabReply) : State :=
  let s := s.dropOp o.id
  match r.outcome with
  | .performed =>
    if wWin o.win && !pref then lend s o { line := line, win := o.win, secs := linesSecs lo r.data }
    else fillFar s core line (linesSecs lo r.data) r.tick o.win
  | .memfault c => if pref then s else lend s o { line := line, win := o.win, fault := some (c, lo + r.val.toNat / 64) }
  | x => if pref then s else fabFault s o ((outCode x).getD 0) (wd (line * 256 + lo * 64))

/-- A reply to a piece of a store (R357, R358); the first failure faults. -/
def takeStore (s : State) (o : Op) (x : StoreOp) (r : FabReply) : State :=
  let left := if x.await = 1 then x.left.filter (!·.loc.isGlob) else x.left
  match outCode r.outcome with
  | some c =>
    let s := if wPsn x.acc then s else fabFault s o c x.va
    let y : StoreOp := { x with await := x.await - 1, left := left, acc := wMerge x.acc (poisoned s 3) }
    storeEnd (s.setOp o.id (.store y)) o y
  | none =>
    let y : StoreOp := { x with await := x.await - 1, left := left, acc := wMerge x.acc (replyWit r) }
    storeEnd (s.setOp o.id (.store y)) o y

/-- A reply to a remote atomic (R270, R279, R357, R358). -/
def takeAtomic (s : State) (o : Op) (x : AtomicOp) (r : FabReply) : State :=
  match outCode r.outcome with
  | some c => atomicFails s o x c
  | none =>
    let w := wMerge (replyWit r) o.win
    let core := coreOf o.own.cid
    let s := match atomPiece x r.val.toNat with
      | none => s
      | some p => l1Write s core p
    let s := snoop s core [runOf ⟨x.loc, tySize x.ty⟩]
    ((s.landLate o.own o.id ((atomOld x.ty r.val.toNat).zeroExtend 2048)).account o.own false w).finish o w

/-- The status of a fabric store's record (R259, R360, R362). -/
def fstStat (x : FstOp) : Nat :=
  match x.stop with
  | some c => if c = Code.peergone.num then 4 else 1
  | none => if x.mc && decide (0 < x.dropped) then 2 else 0

/-- The bytes that a fabric store's record counts (R259). -/
def fstCount (x : FstOp) : Nat := if x.mc then (if x.delivered = 0 then 0 else x.data.length) else x.delivered

/-- The witness of a fabric store that has ended (R360, R362). -/
def fstWit (s : State) (o : Op) (x : FstOp) : Word :=
  if x.stop.isSome then wMerge (poisoned s 3) o.win
  else if x.mc && x.delivered = 0 then 0
  else wMerge x.acc o.win

/-- A fabric store ends: its record and its witness (R259, R360, R362). -/
def fstEnd (s : State) (o : Op) (x : FstOp) : State :=
  let w := fstWit s o x
  let s := if x.rcd then
      ringRecord s (coreOf o.own.cid) 6 0 (ctxNo o.own.cid) (fstCount x) (fstStat x) (x.stop.getD 0) (min x.dropped 255) w
    else s
  sweepPages ((s.account o.own false w).finish o w) (cidStation o.own.cid)

/-- A fabric store after one of its pieces: it ends with the last. -/
def fstNext (s : State) (o : Op) (x : FstOp) : State :=
  let s := s.setOp o.id (.fst x)
  if x.await = 0 then fstEnd s o x else s

/-- The global address of a fabric store at a part (R347). -/
def fstAddr (part off : Nat) : Word := wd (2 ^ 63 + part * 2 ^ 51 + off)

/-- A piece of a fabric store has failed: a refused branch of a multicast is dropped, anything else stops it (R358, R362). -/
def fstFails (s : State) (o : Op) (x : FstOp) (part code : Nat) : State :=
  let x := { x with await := x.await - 1 }
  if x.mc ∧ code = Code.xprot.num then
    let n := if x.dests.contains part then 1 else 0
    fstNext s o { x with dests := x.dests.erase part, dropped := x.dropped + n }
  else
    let s := if x.stop.isSome then s else fabFault s o code (fstAddr part x.off)
    fstNext s o { x with stop := some (x.stop.getD code) }

/-- A reply to a piece of a fabric store (R360, R362). -/
def takeFst (s : State) (o : Op) (x : FstOp) (m : FSend) (r : FabReply) : State :=
  match outCode r.outcome with
  | some c => fstFails s o x m.part c
  | none =>
    fstNext s o { x with await := x.await - 1, delivered := x.delivered + m.req.data.length, acc := wMerge x.acc (replyWit r) }

/-- A piece of a fire-and-forget store has departed in a window (R354, R360). -/
def fstDeparts (s : State) (o : Op) (x : FstOp) (n : Nat) : State :=
  let w := mkWit 3 false true ((s.tick / s.fab.window + 2) * s.fab.window)
  fstNext s o { x with await := x.await - 1, delivered := x.delivered + n, acc := wMerge x.acc w }

/-- A line of the page at an offset of the image has been acknowledged: the page is stored with its last line (R432). -/
def pageAcked (x : Snap) (off : Nat) : Snap :=
  match x.sent.find? (·.off == off) with
  | none => x
  | some p =>
    if 1 < p.left then { x with sent := x.sent.map fun y => if y.off = off then { y with left := y.left - 1 } else y }
    else { x with sent := x.sent.filter (·.off != off), stored := x.stored ++ [(off, p.data)] }

/-- A reply to a page that Bay sent to storage (R431, R432, R435). -/
def takePage (s : State) (ifc piece : Nat) (r : FabReply) : State :=
  match outCode r.outcome with
  | some c => bayStop (s.modSnap ifc fun x => { x with await := x.await - 1 }) ifc (if c = Code.peergone.num then 4 else 1) c
  | none => s.modSnap ifc fun x => pageAcked { x with await := x.await - 1, last := max x.last r.tick } (piece / 256 * 65536)

/-- A ticket word (R364). -/
def ticketWord (part port num : Nat) : Word := wd (num * 2 ^ 32 + port * 2 ^ 16 + part)

/-- FULL (R364, R369). -/
def fullBit : Word := 1#64 <<< 63

/-- The answer to a ticket operation (R364): for `tkget` the number, with FULL in bit 63; for `tkdone` the status. -/
def takeTicket (s : State) (o : Op) (ok : Bool) (v : Word) : State :=
  match o.kind with
  | .tkget part port _ =>
    let x := if !ok || v.getLsbD 63 then fullBit ||| ticketWord part port 0 else ticketWord part port (v.toNat % 4096)
    (s.landLate o.own o.id (x.zeroExtend 2048)).dropOp o.id
  | .tkwait _ _ _ => s.finish o (mkWit 2 (!ok) false s.tick)
  | .tkdone _ _ _ => (s.landLate o.own o.id ((if ok then v else 2).zeroExtend 2048)).dropOp o.id
  | _ => s

/-- A send is done with. -/
def dropSend (s : State) (id : Nat) : State := s.modFab fun f => { f with sends := f.sends.filter (·.id != id) }

/-- The source keeps the first reply to a request (R357, R358); a store that has performed enters a copy of its line in the core's own L1
(R270). -/
def takeReply (s : State) (m : FSend) (r : FabReply) : State :=
  let s := dropSend s m.id
  match s.op? m.op with
  | none => s
  | some o => match o.kind with
    | .rload core line lo _ pref => takeLine s o core line lo pref r
    | .store x =>
      let a := 2 ^ 63 + m.part * 2 ^ 51 + m.req.off
      takeStore (if r.outcome = .performed then l1Write s (coreOf o.own.cid) ⟨.glob a, m.req.data⟩ else s) o x r
    | .atomic x => takeAtomic s o x r
    | .fst x => takeFst s o x m r
    | .snap ifc => takePage s ifc m.piece r
    | .pull p => pullTake s o p r.data (outCode r.outcome)
    | .tkget .. | .tkwait .. | .tkdone .. => takeTicket s o (outCode r.outcome).isNone r.val
    | _ => s

/-- The owner that a fire-and-forget request carries, so that a refusal can name it (R360). -/
def ffOwner (o : Op) (r : FabReq) : FabReq :=
  { r with v := wd (o.own.cid + o.own.ifc * 2 ^ 32), cmp := wd o.own.uid, op := o.own.tseq }

/-- A fire-and-forget store that its target refused (R360, R362). -/
def ffRefused (s : State) (part : Nat) (r : FabReq) (code : Nat) : State :=
  asyncFault s { cid := r.v.toNat % 2 ^ 32, uid := r.cmp.toNat, ifc := r.v.toNat / 2 ^ 32, tseq := r.op }
    { cls := 3, code := code, addr := fstAddr part r.off }

/-! ### Requests at the target -/

/-- The time-skew bound, which a home adds to the tick of a store or atomic before it replies (R296). -/
def skew : Nat := 96

/-- A request served at its target (R296, R348, R357, R405): its reply. -/
def serve (s : State) (r : FabReq) : State × FabReply :=
  let no := fun (s : State) (o : FabOutcome) => (s, ({ outcome := o, tick := s.tick + skew } : FabReply))
  match r.kind with
  | .pull => match tagHolder s r.tag with
    | none => no s .refused
    | some i =>
      let (s, bs, c) := blockRead s (r.op / 64) i (r.op % 64) r.ty r.off r.len r.wit
      (s, { outcome := match c with | some c => .memfault c.num | none => .performed, data := bs, tick := s.tick })
  | _ => match reqSegs s r with
    | none => no s .refused
    | some (i, segs) =>
      let s := touchExport s r.port i r.off
      match r.kind with
      | .store =>
        no (writeSegs (admitSegs s segs) segs r.data) .performed
      | k => match badSeg s 0 segs with
        | some (c, off) =>
          (markPoison s (segAt segs off), { outcome := .memfault c.num, val := wd (off / 64 * 64), tick := s.tick + skew })
        | none =>
          let (s, bs) := readIn s false r.wit segs
          if k = .load then (s, { data := bs, tick := s.tick })
          else
            let m := leNat bs
            let ty := BitVec.ofNat 3 r.ty
            let new := leBytes r.len (atomNew r.op (8 ≤ r.ty) ty m r.v.toNat r.cmp.toNat)
            let same := decide (r.op = 7) && decide (m % 2 ^ (8 * r.len) ≠ r.cmp.toNat % 2 ^ (8 * r.len))
            let s := if same then s else writeSegs (admitSegs s segs) segs new
            (s, { val := atomOld ty m, tick := s.tick + skew })

/-- A request whose reply is cached (R357, R358). -/
def countedReq (r : FabReq) : Bool := r.kind != .load && r.kind != .pull && !r.ff

/-- FLOOR of a source port (R358). -/
def floorOf (x : FPort) (src port : Nat) : Option Nat := (x.floor.find? fun (f : Nat × Nat × Nat) => f.1 == src && f.2.1 == port).map (·.2.2)

/-- FLOOR after an eviction (R358). -/
def raiseFloor (l : List (Nat × Nat × Nat)) (c : Cached) : List (Nat × Nat × Nat) :=
  let is := fun (f : Nat × Nat × Nat) => f.1 == c.src && f.2.1 == c.port
  match l.find? is with
  | some f => l.filter (!is ·) ++ [(c.src, c.port, max f.2.2 c.seq)]
  | none => l ++ [(c.src, c.port, c.seq)]

/-- Entries leave a reply cache (R358). -/
def evictCached (x : FPort) (l : List Cached) : FPort :=
  { x with cache := x.cache.filter (!l.contains ·), floor := l.foldl raiseFloor x.floor }

/-- The oldest entry of a full cache leaves before another enters (R358). -/
def cacheReply (x : FPort) (c : Cached) : FPort :=
  let x := if 4096 ≤ x.cache.length then evictCached x (x.cache.take 1) else x
  { x with cache := x.cache ++ [c] }

/-- A request answered at its target port (R358). -/
def answer (s : State) (r : FabReq) : State × FabReply :=
  if !countedReq r then serve s r
  else
    let x := s.port r.port
    match x.cache.find? fun (c : Cached) => c.src == r.src && c.port == r.srcPort && c.seq == r.seq with
    | some c => (s, c.reply)
    | none =>
      if (match floorOf x r.src r.srcPort with | some f => decide (r.seq ≤ f) | none => false) then
        (s, { outcome := .atstale, tick := s.tick })
      else
        let (s, rep) := serve s r
        (s.modPort r.port fun x => cacheReply x { src := r.src, port := r.srcPort, seq := r.seq, reply := rep, tick := s.tick }, rep)

/-- A pull of another part has its way from its producer's block to the port engine that serves it (R16, R340, R367). -/
def pullWay (s : State) (r : FabReq) : Bool :=
  match tagHolder s r.tag with
  | none => true
  | some i =>
    (homesOf s (blockSpan s (r.op / 64) i (r.op % 64) r.off r.len)).all fun h => pathOpen s i h (portStation r.port, 5)

/-- A request may be served now: its witness inputs are satisfied here, and a pull's block can cross the mesh (R298, R340, R360). -/
def servable (s : State) (r : FabReq) : Bool :=
  satHome s r.wit && match r.kind with
  | .pull => pullWay s r && match tagHolder s r.tag with
    | some i => !blockWaits s (r.op / 64) (r.op % 64) r.ty r.wit (blockSpan s (r.op / 64) i (r.op % 64) r.off r.len)
    | none => true
  | _ => match reqSegs s r with
    | some (_, segs) => !l2Waits s segs
    | none => true

/-- What a request that cannot be served yet asks for: the refill of its producer's pages (R246). -/
def wakePages (s : State) (r : FabReq) : State :=
  match r.kind, tagHolder s r.tag with
  | .pull, some i => if satHome s r.wit then blockAsks s (blockSpan s (r.op / 64) i (r.op % 64) r.off r.len) else s
  | _, _ => s

/-- R358: the request that the event carries arrives; its reply enters its queue. -/
def execFabricRequestArrival (s : State) : Res :=
  let r := s.arg.req
  .next (if 32 ≤ r.port then s
    else if !servable s r then wakePages s r
    else
      let (s, rep) := answer s r
      if r.ff ∧ rep.outcome = .performed then s
      else fabReply s r.port (r.off / 256) { id := 0, op := 0, piece := 0, kind := 3, port := 0, link := 0, part := r.src,
                                             req := { r with data := [] }, rep := some { rep with id := r.opId, piece := r.piece } })

/-- A request to this part itself is served by its own port engine (R347). -/
def serveOwn (s : State) (m : FSend) : State :=
  if !servable s m.req then wakePages s m.req
  else if m.req.ff then
    let (s, rep) := answer (dropSend s m.id) m.req
    let s := match s.op? m.op with
      | some o => match o.kind with
        | .fst x => fstDeparts s o x m.req.data.length
        | _ => s
      | none => s
    match outCode rep.outcome with
    | some c => ffRefused s m.part m.req c
    | none => s
  else
    let (s, rep) := answer s m.req
    takeReply s m rep

/-- R358: the reply that the event carries, which a request that has left answers even where a resend of it still waits, or with `flag` the refusal of a fire-and-forget store to part `b`. -/
def execFabricReplyArrival (s : State) : Res :=
  let r := s.arg.reply
  .next (if s.arg.flag then ffRefused s s.arg.b s.arg.req ((outCode r.outcome).getD Code.xprot.num)
    else match s.fab.sends.find? fun (m : FSend) => m.op == r.id && m.piece == r.piece && (m.departed.isSome || decide (0 < m.resent)) with
      | some m => takeReply s m r
      | none => s)

/-- R358: operand `a` names a port; entries of 64 µs leave its reply cache. -/
def execReplyCacheExpiry (s : State) : Res :=
  .next (if 32 ≤ s.arg.a then s
    else s.modPort s.arg.a fun x => evictCached x (x.cache.filter fun (c : Cached) => decide (c.tick + 256000 ≤ s.tick)))

/-! ### Links and slots -/

/-- The Dill unit of an optical link: after the mesh links (R445). -/
def linkUnit (port link : Nat) : Nat := 4096 + 4 * port + link

/-- The path of a message by the hash of its line (R349, R369); port 32 is none. -/
def sendPath (s : State) (m : FSend) : Nat × Nat :=
  (if m.kind = 6 then switchPath s (m.part - 4096) m.line else if m.kind = 10 then mcastPath s m.line else pathTo s m.part m.line).getD (32, 0)

/-- A message put on another path (R346, R366). A counted request that has never left takes the next sequence of its new port; one that
has left keeps its key, so that its reply is still found (R357, R358). -/
def moveSend (s : State) (m : FSend) : State × FSend :=
  let p := sendPath s m
  if countedReq m.req && m.kind == 0 && m.departed.isNone && m.resent == 0 && p.1 != m.req.srcPort && decide (p.1 < 32) then
    let q := tget 1 (s.port p.1).seqOut m.part
    (s.modPort p.1 fun x => { x with seqOut := tput x.seqOut m.part ((q + 1) % 2 ^ 32) },
      { m with port := p.1, link := p.2, req := { m.req with srcPort := p.1, port := p.1, seq := q } })
  else (s, { m with port := p.1, link := p.2 })

/-- The messages that a test picks put on other paths, in their order. -/
def moveSends (s : State) (pick : FSend → Bool) (f : FSend → FSend) : State :=
  let r := s.fab.sends.foldl (init := (s, ([] : List FSend))) fun z m =>
    if pick m then let y := moveSend z.1 (f m); (y.1, z.2 ++ [y.2]) else (z.1, z.2 ++ [m])
  r.1.modFab fun x => { x with sends := r.2 }

/-- The messages that wait for a link that is no longer used go over the links that are left (R346); a marker stays, and leaves on any of
them. One that has left and awaits its reply keeps its port, whose slots its timer counts (R459), and takes another link if it is sent again. -/
def clearLink (s : State) (p l : Nat) : State :=
  moveSends s (fun m => m.port == p && m.link == l && m.kind != 1 && m.kind != 2 && m.departed.isNone) id

/-- What a link sends again from its retry buffer, as a message of kind 9 (R345, R346; log entry 117). -/
def resendFlits (s : State) (p l : Nat) (flits : List (Nat × Nat)) : State :=
  fabOut s { id := 0, op := 0, piece := flits.length, kind := 9, port := p, link := l, part := 0 }

/-- A link is taken down (R346): its survivors carry a link-down flit first, then the flits of its retry buffer in their order (the
lowest survivor takes them: log entry 110), and its traffic moves to them. -/
def takeDown (s : State) (p l : Nat) : State :=
  let s := (dillAdd s 12 (linkUnit p l)).modPort p fun x => { x with linkUp := x.linkUp &&& ~~~(1#4 <<< l) }
  let up := linksUp (s.port p)
  let flit : FSend := { id := 0, op := 0, piece := l, kind := 8, port := p, link := 0, part := 0 }
  let s := up.foldl (fun s k => fabOut s { flit with link := k }) s
  let old := tget [] (s.port p).retry l
  let s := match up.head? with
    | some k => (resendFlits s p k old).modPort p fun x => { x with retry := tput (tput x.retry l []) k (tget [] x.retry k ++ old) }
    | none => s
  clearLink s p l

/-- R345, R346: operands `a` and `b` name a port and a link that resends its retry buffer; more than 16 replays within 1 ms take it
down. -/
def execLinkCrcRetry (s : State) : Res :=
  let p := s.arg.a
  let l := s.arg.b
  .next (if 32 ≤ p ∨ 4 ≤ l ∨ !(s.port p).linkUp.getLsbD l then s
    else
      let x := s.port p
      let r := recentReplays (tget [] x.replays l) s.tick
      let s := (dillAdd s 10 (linkUnit p l)).modPort p fun x => { x with replays := tput x.replays l r }
      if 16 < r.length then takeDown s p l else resendFlits s p l (tget [] x.retry l))

/-- R346: operands `a` and `b` name a port and a link that fails retraining. -/
def execLinkDown (s : State) : Res :=
  .next (if 32 ≤ s.arg.a ∨ 4 ≤ s.arg.b ∨ !(s.port s.arg.a).linkUp.getLsbD s.arg.b then s else takeDown s s.arg.a s.arg.b)

/-- R346: operands `a` and `b` name a port and the link that its far end has taken down: nothing more leaves on it. -/
def execLinkDownFlitReceipt (s : State) : Res :=
  .next (if 32 ≤ s.arg.a ∨ 4 ≤ s.arg.b ∨ (s.port s.arg.a).peerDown.contains s.arg.b then s
    else checkDrained (clearLink (s.modPort s.arg.a fun x => { x with peerDown := x.peerDown ++ [s.arg.b] }) s.arg.a s.arg.b))

/-- The slot in progress as a number that no other slot of the schedule shares, with its peer and whether it is dark (R352). -/
def slotNow (x : FPort) (t : Nat) : Option (Nat × Nat × Bool) :=
  (slotAtTick x t).map fun q => ((t - x.t0.toNat) / rotation x * 16 + q.1, peerOf q.2.1, q.2.2)

/-- The allowance of the slot in progress, in bytes (R351, R352). -/
def allowNow (x : FPort) (t : Nat) : Nat :=
  match slotAtTick x t with
  | some (_, e, _) => fld e.toNat 23 0 * 1024
  | none => 0

/-- A port after its schedule was looked at: a new slot starts with its whole allowance (R352); in the dark interval of a
reconfiguration nothing changes (R365). -/
def portSlot (x : FPort) (t : Nat) : FPort :=
  match slotNow x t with
  | some (k, peer, dark) =>
    if x.slot = some k then { x with dark := dark }
    else { x with slot := some k, dark := dark, sentSlot := 0, slotAllow := allowNow x t, sentPeer := some peer }
  | none => { x with slot := none, dark := true }

/-- R352: operand `a` names a circuit port. -/
def execCircuitSlotBoundary (s : State) : Res :=
  let p := s.arg.a
  .next (if 32 ≤ p ∨ !(s.port p).circuit ∨ s.fab.drain = 2 then s else s.modPort p fun x => portSlot x s.tick)

/-! ### Send queues -/

/-- The bytes that a message carries. -/
def FSend.bytes (m : FSend) : Nat := m.req.data.length + ((m.rep.map (·.data.length)).getD 0)

/-- A close or drain marker. -/
def FSend.isMarker (m : FSend) : Bool := m.kind == 1 || m.kind == 2

/-- A circuit port may send a message now (R352): in a lit slot that names its peer, within the allowance unless it is a marker. -/
def litFor (x : FPort) (t : Nat) (m : FSend) : Bool :=
  match slotAtTick x t with
  | some (_, e, dark) =>
    let y := portSlot x t
    !dark && peerOf e == m.part && (m.isMarker || y.slotAllow == 0 || decide (y.sentSlot < y.slotAllow))
  | none => false

/-- Two messages that wait at one port for one destination (R350): an `fmst` copy waits in the queues of all of its parts. -/
def sameQueue (m y : FSend) : Bool :=
  y.port == m.port && ((if y.kind = 10 then y.dests else [y.part]).any fun p => (if m.kind = 10 then m.dests else [m.part]).contains p)

/-- The message is the first of its queue to leave (R350). -/
def atHead (s : State) (m : FSend) : Bool :=
  match s.fab.sends.find? fun (y : FSend) => sameQueue m y && y.departed.isNone && !y.held with
  | some y => y.id == m.id
  | none => false

/-- The reply to a pull waits out the cycle of its read, in which a release still comes first (R322). -/
def justRead (s : State) (m : FSend) : Bool :=
  m.kind == 3 && m.req.kind == .pull && match m.rep with
    | some r => s.inCycle r.tick
    | none => false

/-- A message may leave (R322, R350, R352, R365). -/
def mayDepart (s : State) (m : FSend) : Bool :=
  let x := s.port m.port
  m.departed.isNone && !m.held && !justRead s m && s.fab.drain != 2 && decide (m.port < 32) && atHead s m &&
  (if m.isMarker then !(linksUp x).isEmpty else (linksUp x).contains m.link) && (!x.circuit || litFor x s.tick m)

/-- The flits of 256 bytes that a message fills (R345). -/
def flitsOf (m : FSend) : List (Nat × Nat) := (List.range (max 1 ((m.bytes + 255) / 256))).map fun i => (m.id, i)

/-- A link's retry buffer of 512 flits after a message (R345). -/
def keepFlits (x : FPort) (m : FSend) : FPort :=
  let l := tget [] x.retry m.link ++ flitsOf m
  { x with retry := tput x.retry m.link (l.drop (l.length - 512)) }

/-- What follows a departure at the source (R354, R357, R360, R362): a request awaits its reply, an `fmst` copy the switch that splits it, and
everything else is done with. -/
def departed (s : State) (m : FSend) : State :=
  let stay := s.modFab fun f => { f with sends := f.sends.map fun (y : FSend) =>
    if y.id == m.id then { y with departed := some s.tick, window := s.tick / s.fab.window } else y }
  if m.kind = 0 ∧ !m.req.ff ∨ m.kind = 5 then stay
  else if m.kind = 10 then
    match m.req.ff, stay.op? m.op with
    | true, some o => match o.kind with
      | .fst x => fstDeparts stay o x m.req.data.length
      | _ => stay
    | _, _ => stay
  else
    let s := dropSend s m.id
    match s.op? m.op with
    | some o => match o.kind with
      | .fst x => fstDeparts s o x m.req.data.length
      | _ => s
    | none => s

/-- The peer of a message is outside the connected group (R358, R365). -/
def peerGone (s : State) (part : Nat) : Bool := decide (part < 4096) && part != s.fab.part && !s.fab.members.contains part

/-- A message that meets no peer (R358, R360, R364, R366). -/
def fabGone (s : State) (m : FSend) : State :=
  match s.op? m.op with
  | some o => match o.kind with
    | .fst x => if m.req.ff then fstFails (dropSend s m.id) o x m.part Code.peergone.num else takeReply s m goneReply
    | _ => takeReply s m goneReply
  | none => dropSend s m.id

/-- A branch of a multicast to a part that no route reaches any more is dropped (R362); any other message waits for a route. -/
def noRoute (s : State) (m : FSend) : State :=
  match s.op? m.op with
  | some o => match o.kind with
    | .fst x => if x.mc then fstFails (dropSend s m.id) o x m.part Code.xprot.num else s
    | _ => s
  | none => dropSend s m.id

/-- The destinations of an `fmst` copy that have left the group (R366): they are not sent to, and the multicast ends with PEERGONE. -/
def copyLeaves (s : State) (m : FSend) : State :=
  let gone := m.dests.filter (peerGone s)
  let left := m.dests.filter (!gone.contains ·)
  let s := if left.isEmpty then dropSend s m.id
    else s.modFab fun f => { f with sends := f.sends.map fun (y : FSend) => if y.id == m.id then { y with dests := left } else y }
  match s.op? m.op with
  | some o => match o.kind with
    | .fst x =>
      let n := if !x.ff then gone.length else if left.isEmpty then 1 else 0
      let s := if x.stop.isSome then s else fabFault s o Code.peergone.num (fstAddr (gone.headD 0) x.off)
      fstNext s o { x with await := x.await - n, stop := some (x.stop.getD Code.peergone.num) }
    | _ => s
  | none => s

/-- R350, R352, R354: operand `a` names a message of a send queue. -/
def execFabricRequestDepart (s : State) : Res :=
  .next (match s.fab.sends.find? (·.id == s.arg.a) with
    | none => s
    | some m =>
      if m.part = s.fab.part ∧ m.kind = 0 then serveOwn s m
      else if m.departed.isSome ∨ m.held then s
      else if (m.kind = 0 ∨ m.kind = 3 ∨ m.kind = 5) ∧ s.fab.drain = 0 ∧ peerGone s m.part then fabGone s m
      else if m.kind = 10 ∧ s.fab.drain = 0 ∧ m.dests.any (peerGone s) then copyLeaves s m
      else if m.kind = 0 ∧ s.fab.drain = 0 ∧ (routePorts s m.part).isEmpty then noRoute s m
      else if !mayDepart s m then s
      else
        let s := s.modPort m.port fun x =>
          let y := keepFlits (if x.circuit then portSlot x s.tick else x) m
          if m.isMarker then y else { y with sentSlot := y.sentSlot + m.bytes }
        departed (fabOut s { m with departed := some s.tick, window := if m.kind = 1 then m.window else s.tick / s.fab.window }) m)

/-- R357, R459: operand `a` names a request that has waited 8 µs for its reply: it is sent again, and after the eighth it ends. -/
def execRetransmitTimeout (s : State) : Res :=
  .next (match s.fab.sends.find? (·.id == s.arg.a) with
    | none => s
    | some m =>
      if m.kind ≠ 0 ∨ m.departed.isNone ∨ s.fab.drain ≠ 0 ∨ timerOf s m < 32000 then s
      else if 8 ≤ m.resent then takeReply s m goneReply
      else
        let again : FSend := { m with departed := none, ran := 0, resent := m.resent + 1 }
        let z := moveSend s again
        z.1.modFab fun f => { f with sends := f.sends.filter (·.id != m.id) ++ [z.2] })

/-! ### Windows -/

/-- R354: a window ends, and its close markers enter every send queue on every link of every path. -/
def execWindowEnd (s : State) : Res :=
  let n := s.fab.windowN
  let now := s.tick / s.fab.window
  .next (if now ≤ n then s
    else if s.peers.isEmpty ∨ s.fab.drain ≠ 0 then s.modFab fun f => { f with windowN := now }
    else
      let marks := s.peers.flatMap fun p => (routePorts s p).flatMap fun q => (linksUp (s.port q)).map fun l => (p, q, l)
      let put := fun (s : State) (m : Nat × Nat × Nat) =>
        let (id, s) := s.newId
        s.modFab fun f => { f with sends := f.sends ++
          [{ id := id, op := 0, piece := 0, kind := 1, port := m.2.1, link := m.2.2, part := m.1, window := n }] }
      (marks.foldl put s).modFab fun f => { f with windowN := n + 1 })

/-- R355: operands `a` to `d` are the peer, the port, the link and the window. A link is in order, so the markers of one link
count in order. -/
def execCloseMarkerReceipt (s : State) : Res :=
  let k := s.arg.a * 128 + s.arg.b * 4 + s.arg.c
  let had := max (tget 0 s.fab.closed k) (tget 0 s.fab.drainStand s.arg.a)
  .next (if 32 ≤ s.arg.b ∨ 4 ≤ s.arg.c ∨ had < s.arg.d ∨ s.arg.d < tget 0 s.fab.closed k then s
    else s.modFab fun f => { f with closed := tput f.closed k (s.arg.d + 1) })

/-- A wait of an engine that a silent peer ends (R356): the operation ends with WINTMO and a poisoned witness, which the accumulators of
its task take like any other (R301). -/
def timeOutOp (s : State) (o : Op) : State :=
  let code := Code.wintmo.num
  let w := stopWit s o
  let cid := o.own.cid
  match o.kind with
  | .copy x => if x.started then s else copyEnd s o x.core x.ch x.kind 0 1 code 0 w
  | .mcst x => if x.started then s else copyEnd s o x.core x.ch 2 0 1 code 0 w
  | .gld x =>
    if x.read then s
    else
      let s := ringRecord s (coreOf cid) 4 0 (ctxNo cid) 0 1 code 0 w
      sweepPages (s.finish o w) (cidStation cid)
  | .fst x => if x.read then s else fstEnd s o { x with stop := some code }
  | .rsto x =>
    if x.read then s
    else
      let s := ringRecord s (coreOf cid) 6 0 (ctxNo cid) 0 1 code 0 w
      sweepPages ((s.account o.own false w).finish o w) (cidStation cid)
  | .pull p => if p.stop.isSome then s else pullStop s o p code
  | .walkWit st e 4 _ => abortWalk s st e
  | .store x => let v := wMerge x.acc w; (s.account o.own false v).finish o v
  | .atomic _ => ((s.landLate o.own o.id 0).account o.own false w).finish o w
  | .m m =>
    let s := unpin s m.pins
    (if m.kind == .mst then s.account o.own false w else s).finish o w
  | .mscl .. | .l2range .. | .wb _ => s.finish o w
  | _ => s

/-- A witness waits for a window at a tick past its limit (R356). -/
def waitsOn (s : State) (n : Nat) (w : Word) : Bool := (winTimedOut s w).isSome && wWindow s w == n

/-- R356: operand `a` is the window; what still waits for it at the start of window N + 5 ends. -/
def execWindowTimeout (s : State) : Res :=
  let n := s.arg.a
  .next (if s.tick < (n + 5) * s.fab.window then s
    else
      let s := (s.ops.filter fun o => waitsOn s n o.win).foldl (fun s o => timeOutOp s o) s
      let s := s.ctxs.foldl (fun s (p : Nat × Ctx) => match p.2.wait with
        | .witness r => if waitsOn s n (tget {} p.2.w r).val then wakeCtx s p.1 else s
        | _ => s) s
      s.cores.foldl (init := s) fun s (p : Nat × Core) =>
        (p.2.queue.filter fun q => q.pend && waitsOn s n q.lb.wstart).foldl (init := s) fun s q =>
          containEntry (unqueue s p.1 q.id) q p.1 Code.wintmo.num 0 ((winTimedOut s q.lb.wstart).getD 0))

/-! ### Fabric stores and contributions -/

/-- The pieces of a fabric store: an offset, the bytes, and a number. -/
def fstCut (x : FstOp) : List ((Nat × List Byte) × Nat) := (cutLines (x.data.length / 256 + 2) x.off x.data).zipIdx

/-- The request of a piece of a fabric store (R357, R360). -/
def fstReq (s : State) (o : Op) (x : FstOp) (p : (Nat × List Byte) × Nat) : FabReq :=
  let r : FabReq := { kind := .store, tag := tagOf s o.own.ifc, off := p.1.1, len := p.1.2.length, data := p.1.2, ff := x.ff, wit := o.win }
  if x.ff then ffOwner o r else r

/-- The pieces of a fabric store queued toward a part (R349, R360). -/
def queueFst (o : Op) (x : FstOp) (s : State) (d : Nat) : State :=
  (fstCut x).foldl (init := s) fun s p => fabRequest s o.id (d * 1024 + p.2) d (fstReq s o x p) ((2 ^ 63 + d * 2 ^ 51 + p.1.1) / 256)

/-- The destinations of a multicast that its one copy toward the switches reaches: the members of this part's pod, if a port is switched
(R345, R362; log entry 108). -/
def nearDests (s : State) (x : FstOp) : List Nat :=
  x.dests.filter fun d => x.mc && d / 256 == s.fab.part / 256 && (List.range 32).any fun p => !(s.port p).circuit

/-- The pieces of the one copy of a multicast queued toward the switches (R362). -/
def queueCopy (o : Op) (x : FstOp) (near : List Nat) (s : State) : State :=
  (fstCut x).foldl (init := s) fun s p =>
    let line := (fstAddr (near.headD 0) p.1.1).toNat / 256
    let path := (mcastPath s line).getD (32, 0)
    let (id, s) := s.newId
    let copy : FSend :=
      { id := id, op := o.id, piece := p.2, kind := 10, port := path.1, link := path.2,
        part := 8192, req := fstReq s o x p, line := line, held := s.fab.drain != 0, dests := near }
    s.modFab fun f => { f with sends := f.sends ++ [copy] }

/-- The requests of a fabric store to one part. -/
def fstPieces (x : FstOp) : Nat := (fstCut x).length

/-- A fabric store whose source has been read sends to its destinations, or ends where there is nothing to send (R360, R362): a multicast sends
one copy toward the switches, of which each destination replies, or of which with `ff` only the departure counts. -/
def sendFst (s : State) (o : Op) (x : FstOp) : State :=
  let near := nearDests s x
  let far := x.dests.filter (!near.contains ·)
  let n := far.length + if x.ff then min near.length 1 else near.length
  let x := { x with sent := 1, await := n * fstPieces x }
  let s := s.setOp o.id (.fst x)
  if x.await = 0 then fstEnd s o x
  else far.foldl (queueFst o x) (if near.isEmpty then s else queueCopy o x near s)

/-- A contribution on its way to its switch (R365, R370). -/
def sendContribution (s : State) (o : Op) (x : RstoOp) : State :=
  let sw := fld x.handle.toNat 27 20
  let p := (switchPath s sw (x.src.toNat / 256)).getD (32, 0)
  let (id, s) := s.newId
  let m : FSend :=
    { id := id, op := o.id, piece := 0, kind := 6, port := p.1, link := p.2, part := 4096 + sw, held := s.fab.drain != 0,
      line := x.src.toNat / 256, req := { src := s.fab.part, v := x.handle, data := x.data } }
  s.modFab fun f => { f with sends := f.sends ++ [m] }

/-- A contribution ends: its record and its witness (R370, R372). -/
def rstoEnd (s : State) (o : Op) (count : Nat) (code : Option Nat) (w : Word) : State :=
  let cid := o.own.cid
  let w := wMerge (if code.isSome then poisoned s 3 else w) o.win
  let s := ringRecord s (coreOf cid) 6 0 (ctxNo cid) count (if code.isSome then 1 else 0) (code.getD 0) 0 w
  sweepPages (((if code.isSome then s else joinViews s (wTick w)).account o.own false w).finish o w) (cidStation cid)

/-- The sectors of a source can cross the mesh to the port engines that send them (R16, R340). -/
def sourceWay (s : State) (o : Op) (src n : Nat) (ports : Nat → List Nat) : Bool :=
  (List.range ((n + 63) / 64)).all fun i => (sectorLocs s o.who [src + 64 * i]).all fun g =>
    (ports i).all fun p => pathOpen s o.own.ifc (locStation s g.loc) (portStation p, 5)

/-- A read of a source must wait (R253, R274, R298). -/
def sourceWaits (s : State) (o : Op) (src n : Nat) : Bool :=
  let l := sectorLocs s o.who ((List.range ((n + 63) / 64)).map fun i => src + 64 * i)
  engineWaits s o l || tileLocked s (coreOf o.own.cid) l

/-- The ports that sector i of a fabric store leaves by, of those that are there. -/
def fstPorts (s : State) (x : FstOp) (i : Nat) : List Nat :=
  let near := nearDests s x
  let copy := if near.isEmpty then none else mcastPath s ((fstAddr (near.headD 0) (x.off + 64 * i)).toNat / 256)
  (copy.toList ++ (x.dests.filter (!near.contains ·)).filterMap fun d => pathTo s d ((fstAddr d (x.off + 64 * i)).toNat / 256)).map (·.1)

/-- The port that a contribution leaves by. -/
def rstoPorts (s : State) (x : RstoOp) : List Nat :=
  ((switchPath s (fld x.handle.toNat 27 20) (x.src.toNat / 256)).map (·.1)).toList

/-- The destinations of a multicast outside the group are dropped (R362), and so are those that no route reaches (R349; log entry 108). -/
def inGroup (s : State) (x : FstOp) : FstOp :=
  let there := x.dests.filter fun d => s.fab.members.contains d && (d == s.fab.part || (nearDests s x).contains d || !(routePorts s d).isEmpty)
  { x with dests := there, dropped := x.dests.length - there.length }

/-- R360, R370: operand `a` names the `fst`, `fmst` or `rsto`. -/
def execFabricStoreSourceRead (s : State) : Res :=
  .next (match s.op? s.arg.a with
    | none => s
    | some o =>
      if !satHome s o.win then s
      else match o.kind with
        | .fst x =>
          if x.read || sourceWaits s o x.src.toNat x.len then s
          else if let some s := fillGate s (opPages o x.src.toNat x.len) then s
          else if !sourceWay s o x.src.toNat x.len (fstPorts s x) then s
          else
            let (s, bs, c) := readAscending o.who false o.win (x.len / 64) x.src.toNat s
            let y : FstOp := { x with read := true, data := bs, stop := c }
            let s := sweepPages (s.setOp o.id (.fst y)) (cidStation o.own.cid)
            sendFst s o (if x.mc && s.fab.drain == 0 then inGroup s y else y)
        | .rsto x =>
          let n := 4 * x.count
          if x.read || sourceWaits s o x.src.toNat n then s
          else if let some s := fillGate s (opPages o x.src.toNat n) then s
          else if !sourceWay s o x.src.toNat n fun _ => rstoPorts s x then s
          else
            let (s, bs, c) := readAscending o.who false o.win ((n + 63) / 64) x.src.toNat s
            match c with
            | some c => rstoEnd s o 0 (some c) 0
            | none =>
              let y : RstoOp := { x with read := true, data := bs.take n }
              sendContribution (sweepPages (s.setOp o.id (.rsto y)) (cidStation o.own.cid)) o y
        | _ => s)

/-- A copy's branch for a destination (R362): a request of its own, on its way from the switch, which awaits its reply at the port that the
copy left. -/
def branchOf (s : State) (m : FSend) (d : Nat) : State :=
  let q := tget 1 (s.port m.port).seqOut d
  let piece := d * 1024 + m.piece
  let r := { m.req with src := s.fab.part, srcPort := m.port, port := m.port, seq := if m.req.ff then 0 else q, opId := m.op, piece := piece }
  let s := if m.req.ff then s else s.modPort m.port fun x => { x with seqOut := tput x.seqOut d ((q + 1) % 2 ^ 32) }
  let (id, s) := s.newId
  let b : FSend := { id := id, op := m.op, piece := piece, kind := 0, port := m.port, link := m.link, part := d, window := m.window, req := r,
                     line := (fstAddr d m.req.off).toNat / 256, departed := some s.tick }
  fabOut (if m.req.ff then s else s.modFab fun f => { f with sends := f.sends ++ [b] }) b

/-- R362: operand `a` names an `fmst` copy that has left: the switch splits it into a branch for each of its destinations, and drops those
outside the group. -/
def execSwitchMulticastSplit (s : State) : Res :=
  .next (match s.fab.sends.find? (·.id == s.arg.a) with
    | none => s
    | some m =>
      if m.kind ≠ 10 ∨ m.departed.isNone then s
      else if m.dests.any (peerGone s) then copyLeaves s m
      else m.dests.foldl (fun s d => branchOf s m d) (dropSend s m.id))

/-! ### Tickets -/

/-- The number after the last one issued that is not in use (R363). -/
def freeTicket (x : FPort) : Option Nat :=
  ((List.range 4096).map fun i => (x.nextTk + i) % 4096).find? fun n => !x.tickets.any (·.num == n)

/-- `tkget` at a port (R363, R364): the number, or none where all are issued. -/
def ticketGet (s : State) (p tmo : Nat) : State × Option Nat :=
  match freeTicket (s.port p) with
  | none => (s, none)
  | some n =>
    (s.modPort p fun x => { x with tickets := x.tickets ++ [{ num := n, tmo := tmo }], skipped := x.skipped.filter (· != n),
                                   nextTk := (n + 1) % 4096 }, some n)

/-- `tkdone` at a port (R364). -/
def ticketDone (s : State) (p n : Nat) : State × Nat :=
  let x := s.port p
  if x.tickets.any (·.num == n) then (s.modPort p fun x => { x with tickets := x.tickets.filter (·.num != n) }, 0)
  else (s, if x.skipped.contains n then 1 else 2)

/-- A message that answers a ticket message of another part. -/
def ticketReply (s : State) (part port id : Nat) (ok : Bool) (v : Word) : State :=
  fabReply s port port
    { id := 0, op := 0, piece := 0, kind := 3, port := 0, link := 0, part := part,
      rep := some { id := id, outcome := if ok then .performed else .refused, val := v, tick := s.tick } }

/-- Who waits for a ticket's call is told (R364): an operation here, or one of another part. -/
def tellWaiter (s : State) (p : Nat) (w : Nat) : State :=
  if w < 2 ^ 64 then match s.op? w with
    | some o => takeTicket s o true 0
    | none => s
  else ticketReply s (w / 2 ^ 64 - 1) p (w % 2 ^ 64) true 0

/-- `tkwait` at a port (R364): told now if the ticket is called, kept if it is issued, poisoned if it is unknown. -/
def ticketWait (s : State) (p n w : Nat) : Option State :=
  match (s.port p).tickets.find? (·.num == n) with
  | none => none
  | some t =>
    if t.called.isSome then some (tellWaiter s p w)
    else
      let f := fun (t : Ticket) => if t.num == n then { t with waiters := t.waiters ++ [w] } else t
      some (s.modPort p fun x => { x with tickets := x.tickets.map f })

/-- A ticket operation of this part at its own port. -/
def ticketHere (s : State) (o : Op) : State :=
  match o.kind with
  | .tkget part p tmo =>
    if part ≠ s.fab.part then s
    else match ticketGet s p tmo with
      | (s, some n) => takeTicket s o true (wd n)
      | (s, none) => takeTicket s o false 0
  | .tkwait part p n =>
    if part ≠ s.fab.part ∨ (s.port p).tickets.any (fun t => t.num == n && t.waiters.contains o.id) then s
    else (ticketWait s p n o.id).getD (takeTicket s o false 0)
  | .tkdone part p n =>
    if part ≠ s.fab.part then s
    else
      let (s, v) := ticketDone s p n
      takeTicket s o true (wd v)
  | _ => s

/-- A ticket message of another part (R364): `op` is 0 get, 1 wait, 2 done, and `v` its sender's number for the reply. -/
def ticketFrom (s : State) (r : FabReq) : State :=
  let id := r.v.toNat
  match r.op with
  | 0 => match ticketGet s r.port r.len with
    | (s, some n) => ticketReply s r.src r.port id true (wd n)
    | (s, none) => ticketReply s r.src r.port id true fullBit
  | 1 => (ticketWait s r.port r.seq ((r.src + 1) * 2 ^ 64 + id)).getD (ticketReply s r.src r.port id false 0)
  | _ =>
    let (s, v) := ticketDone s r.port r.seq
    ticketReply s r.src r.port id true (wd v)

/-- R363, R364: operand `a` names a ticket operation toward this part's own port; 0 is a message of another part, which the event
carries. -/
def execTicketRequestArrival (s : State) : Res :=
  .next (if s.arg.a = 0 then (if s.arg.req.port < 32 then ticketFrom s s.arg.req else s)
    else match s.op? s.arg.a with
      | some o => ticketHere s o
      | none => s)

/-- R363: operand `a` names a port; its lowest issued ticket is called while fewer than CALLMAX called ones are open. -/
def execTicketCall (s : State) : Res :=
  let p := s.arg.a
  let x := s.port p
  .next (if 32 ≤ p ∨ x.callmax ≤ (x.tickets.filter (·.called.isSome)).length then s
    else match x.tickets.find? (·.called.isNone) with
      | none => s
      | some t =>
        let f := fun (y : Ticket) => if y.num == t.num then { y with called := some s.tick } else y
        let s := s.modPort p fun x => { x with tickets := x.tickets.map f }
        t.waiters.foldl (fun s w => tellWaiter s p w) s)

/-- R363: operands `a` and `b` name a port and a called ticket whose timeout is over. -/
def execTicketTimeout (s : State) : Res :=
  let p := s.arg.a
  .next (if 32 ≤ p then s else match (s.port p).tickets.find? (·.num == s.arg.b) with
    | none => s
    | some t => match t.called with
      | none => s
      | some c =>
        if s.tick < c + t.tmo * 4000 then s
        else (dillAdd s 16 p).modPort p fun x =>
          { x with tickets := x.tickets.filter (·.num != t.num), skipped := x.skipped ++ [t.num] })

/-! ### Reductions -/

/-- The members of a contributor mask (R368). -/
def maskBits (m : Nat) : List Nat := (List.range 256).filter fun i => m.testBit i

/-- The non-NaN elements of a reduction of floats (R371). -/
def notNan (l : List Nat) : List Nat := l.filter fun x => !((ffOf 8).decode x).isNan

/-- The smallest or largest of floats (R371). -/
def pickFloat (mx : Bool) (l : List Nat) : Nat :=
  match l with
  | [] => 0x7FC00000
  | a :: l => l.foldl (fun r x => (fmaxmin (ffOf 8) mx r x).bits) a

/-- The smallest or largest of signed integers (R371). -/
def pickInt (mx : Bool) (l : List Nat) : Nat :=
  match l with
  | [] => 0
  | a :: l => l.foldl (fun r x => if decide (intOf true 32 r ≤ intOf true 32 x) == mx then x else r) a

/-- One element of a result, from the present contributions in ascending member order (R371). -/
def reduceElem (ty op : Nat) (l : List Nat) : Nat :=
  if ty = 1 then (if op = 0 then l.foldl (· + ·) 0 % 2 ^ 32 else pickInt (op == 2) l)
  else match op with
    | 0 => if (notNan l).length < l.length then 0x7FC00000
      else
        let r := (fsum (l.map (ffOf 8).decode)).1
        if r.isNan then 0x7FC00000 else ((ffOf 8).put .rne false false r).bits
    | 1 => pickFloat false (notNan l)
    | 2 => pickFloat true (notNan l)
    | _ => pickFloat true ((notNan l).map (· % 2 ^ 31))

/-- The 32-bit element of a contribution. -/
def elemAt (bs : List Byte) (i : Nat) : Nat := leNat ((bs.drop (4 * i)).take 4)

/-- The data and the status block that a switch delivers (R371, R372). -/
def reduction (d : Nat) (l : List (Nat × List Byte)) (tick : Nat) : List Byte :=
  let n := fld d 301 288 + 1
  let ty := fld d 309 308
  let col := fun (i : Nat) => l.map fun (p : Nat × List Byte) => elemAt p.2 i
  let data := (List.range n).flatMap fun i => leBytes 4 (reduceElem ty (fld d 306 304) (col i))
  let nans := if ty = 1 then 0 else ((List.range n).map fun i => (col i).length - (notNan (col i)).length).foldl (· + ·) 0
  let miss := ((maskBits (fld d 255 0)).filter fun m => !l.any (·.1 == m)).foldl (fun z m => z + 2 ^ m) 0
  let w4 := (if miss = 0 then 0 else 1) + (if nans = 0 then 0 else 2) + min nans 65535 * 2 ^ 16 + l.length % 65536 * 2 ^ 32
  data ++ leBytes 32 miss ++ leBytes 8 w4 ++ leBytes 8 tick ++ leBytes 16 0

/-- A slot is freed, and its generation advances (R372, R455). -/
def freeRed (s : State) (key : Nat) : State :=
  s.modFab fun f =>
    let r : RedSlot := tget {} f.red key
    { f with red := tput f.red key { gen := r.gen + 1 } }

/-- A result leaves a switch for one contributor (R372): an operation here, or a member of another part. -/
def giveResult (pod : Nat) (bs : List Byte) (s : State) (c : Nat × Nat × List Byte) : State :=
  match s.op? c.2.1 with
  | some o => match o.kind with
    | .rsto x => s.setOp o.id (.rsto { x with result := some bs })
    | _ => s
  | none => fabOut s { id := 0, op := 0, piece := 0, kind := 6, port := 32, link := 0, part := pod + c.1,
                       rep := some { data := bs, tick := s.tick } }

/-- The switch delivers (R372). -/
def deliver (s : State) (key : Nat) : State :=
  let r : RedSlot := tget {} s.fab.red key
  let l := sortBy (fun (x y : Nat × Nat × List Byte) => decide (x.1 < y.1)) r.contrib
  let bs := reduction r.desc.toNat (l.map fun c => (c.1, c.2.2)) s.tick
  freeRed (l.foldl (giveResult (r.from' / 256 * 256) bs) s) key

/-- A free slot of a switch allotted to a descriptor (R369, R455): the handle. -/
def allotRed (s : State) (desc : BitVec 512) (src : Nat) : State × Word :=
  let d := desc.toNat
  let sw := fld d 319 312
  match (List.range 4096).find? fun i => !(tget {} s.fab.red (sw * 4096 + i)).busy with
  | none => (s, fullBit)
  | some i =>
    let r : RedSlot := tget {} s.fab.red (sw * 4096 + i)
    let new : RedSlot := { busy := true, gen := r.gen, desc := desc, from' := src, due := s.tick + fld d 287 256 * 4000 }
    (s.modFab fun f => { f with red := tput f.red (sw * 4096 + i) new },
      wd (i + r.gen.toNat * 2 ^ 12 + sw * 2 ^ 20 + fld d 301 288 * 2 ^ 32))

/-- R369, R455: operand `a` names an `rslot`; 0 is a request of another part, which the event carries. -/
def execReductionSlotAlloc (s : State) : Res :=
  .next (if s.arg.a = 0 then
      let r := s.arg.req
      let (s, h) := allotRed s (BitVec.ofNat 512 (leNat (r.data.take 64))) r.src
      fabOut s { id := 0, op := 0, piece := 0, kind := 6, port := 32, link := 0, part := r.src,
                 rep := some { id := r.v.toNat, val := h, tick := s.tick } }
    else match s.op? s.arg.a with
      | some o => match o.kind with
        | .rslot desc =>
          if s.fab.drain ≠ 0 ∨ !swReached s (fld desc.toNat 319 312) then s
          else
            let (s, h) := allotRed s desc s.fab.part
            (s.landLate o.own o.id (h.zeroExtend 2048)).dropOp o.id
        | _ => s
      | none => s)

/-- A contribution of a member at a switch (R370): the state, and the code of a refusal. -/
def contribute (s : State) (m op : Nat) (handle : Word) (bs : List Byte) : State × Option Nat :=
  let h := handle.toNat
  let key := fld h 27 20 * 4096 + fld h 11 0
  let r : RedSlot := tget {} s.fab.red key
  let d := r.desc.toNat
  if !r.busy ∨ r.gen.toNat ≠ fld h 19 12 ∨ fld d 319 312 ≠ fld h 27 20 ∨ fld d 301 288 ≠ fld h 45 32 then (s, some Code.rlate.num)
  else if !(fld d 255 0).testBit m then (s, some Code.xprot.num)
  else if r.contrib.any fun (c : Nat × Nat × List Byte) => c.1 == m then (s, some Code.rlate.num)
  else
    let r' : RedSlot := { r with contrib := r.contrib ++ [(m, op, bs)] }
    let s := s.modFab fun f => { f with red := tput f.red key r' }
    if (maskBits (fld d 255 0)).all fun k => r'.contrib.any fun (c : Nat × Nat × List Byte) => c.1 == k then (deliver s key, none)
    else (s, none)

/-- R370: operand `a` names an `rsto` whose contribution has left; 0 is a contribution of another part, which the event carries. -/
def execReductionContribution (s : State) : Res :=
  .next (if s.arg.a = 0 then
      let r := s.arg.req
      match contribute s (r.src % 256) 0 r.v r.data with
      | (s, none) => s
      | (s, some c) => fabOut s { id := 0, op := 0, piece := 0, kind := 6, port := 32, link := 0, part := r.src,
                                  rep := some { outcome := .memfault c, tick := s.tick } }
    else match s.op? s.arg.a with
      | some o => match o.kind with
        | .rsto x =>
          if !x.read ∨ x.arrived ∨ s.fab.sends.any (·.op == o.id) then s
          else match contribute (s.setOp o.id (.rsto { x with arrived := true })) (s.fab.part % 256) o.id x.handle x.data with
            | (s, none) => s
            | (s, some c) => rstoEnd s o 0 (some c) 0
        | _ => s
      | none => s)

/-- R372: operand `a` names a slot (switch · 4,096 + slot) whose timer is over. -/
def execReductionTimeout (s : State) : Res :=
  let r : RedSlot := tget {} s.fab.red s.arg.a
  .next (if !r.busy ∨ s.tick < r.due then s else if r.contrib.isEmpty then freeRed s s.arg.a else deliver s s.arg.a)

/-- A sector that a write covers in part only and that cannot be read (R275, R372). -/
def partBad (s : State) (segs : List Seg) : Option Nat :=
  segs.findSome? fun g =>
    let whole := match g.loc with
      | .dev a => a % 64 == 0 && g.len % 64 == 0
      | .sp a => a % 64 == 0 && g.len % 64 == 0
      | _ => true
    if whole then none else (badSeg s 0 [g]).map fun c => c.1.num

/-- R372: operand `a` names an `rsto` whose result has come. -/
def execReductionResultWrite (s : State) : Res :=
  .next (match s.op? s.arg.a with
    | none => s
    | some o => match o.kind with
      | .rsto x => match x.result with
        | none => s
        | some bs =>
          if heldSegs s o x.segs ∨ x.segs.any (fun g => marked s g.loc g.len) then s
          else if let some s := fillGate s (physPages x.segs) then s
          else match partBad s x.segs with
            | some c => rstoEnd s o 0 (some c) 0
            | none => rstoEnd (writeSegs s x.segs bs) o (4 * x.count) none (mkWit 3 false false (s.tick + skew))
      | _ => s)

/-! ### Reconfiguration -/

/-- The paths of a part as marker keys. -/
def pathKeys (s : State) (p : Nat) : List Nat :=
  (routePorts s p).flatMap fun q => (linksUp (s.port q)).map fun l => p * 128 + q * 4 + l

/-- R365: operands `a`, `b` and `c` are the peer, the port and the link. Its markers on every path stand in for close markers. -/
def execDrainMarkerReceipt (s : State) : Res :=
  let p := s.arg.a
  let k := p * 128 + s.arg.b * 4 + s.arg.c
  .next (if 32 ≤ s.arg.b ∨ 4 ≤ s.arg.c ∨ !s.peers.contains p ∨ s.fab.drained.contains k then s
    else
      let s := s.modFab fun f => { f with drained := f.drained ++ [k] }
      let s := if (pathKeys s p).all s.fab.drained.contains then s.modFab fun f => { f with drainStand := tput f.drainStand p (2 ^ 60) }
        else s
      checkDrained s)

/-- R365: the fabric manager switches the circuits once the part is drained and locked. -/
def execCircuitSwitch (s : State) : Res :=
  .next (if s.fab.drain ≠ 1 ∨ !s.fab.locked ∨ s.fab.drainWit.isSome then s
    else
      let look := fun (p : Nat × FPort) => if p.2.circuit then (p.1, portSlot p.2 s.tick) else p
      s.modFab fun f => { f with drain := 2, ports := f.ports.map look })

/-- One staged item takes effect (R365, R418, R419). -/
def applyStaged (s : State) (x : Nat × Nat × Word) : State :=
  let a := x.2.1
  match x.1 with
  | 9 => s.modPort (a % 32) fun p => { p with sched := tput p.sched (fld a 11 8) (mixBits x.2.2 0 (BitVec.ofNat 64 (7 * 2 ^ 36))) }
  | 10 => s.modPort (a % 32) fun p => { p with t0 := x.2.2 }
  | 11 => s.modFab fun f => { f with route := tput f.route (a % 4096) (x.2.2.setWidth 32) }
  | 12 => s.modFab fun f => { f with window := 4000 * 2 ^ (x.2.2.toNat % 8) }
  | 13 => s.modPort (a % 32) fun p => { p with callmax := x.2.2.toNat }
  | _ => s

/-- A circuit port after relock (R463): the queue of a peer that the slot named before keeps the allowance that it held; one of another peer has
the whole of its entry's. -/
def relockPort (t : Nat) (x : FPort) : FPort :=
  match slotNow x t with
  | some (k, peer, dark) =>
    let y := { x with slot := some k, dark := dark, sentPeer := some peer }
    if x.sentPeer == some peer then y else { y with sentSlot := 0, slotAllow := allowNow x t }
  | none => { x with slot := none, dark := true, sentPeer := none, sentSlot := 0, slotAllow := 0 }

/-- A port as the fabric manager sets it (R345): operand `c` masks the circuit ports, `d` packs the switches, eight bits a port. -/
def setMode (c d p : Nat) (x : FPort) : FPort := { x with circuit := c.testBit p, sw := d / 2 ^ (8 * p) % 256 }

/-- What a peer that has left takes with it (R366): a message, by kind. -/
def sendLeaves (s : State) (m : FSend) : State :=
  if m.kind = 0 ∨ m.kind = 5 then fabGone s m else dropSend s m.id

/-- What a peer that has left takes with it (R366): an operation. -/
def opLeaves (s : State) (o : Op) : State :=
  match o.kind with
  | .notice n =>
    if n.rem && !n.inc && peerGone s n.part then
      let s := leaveTable s o.id n
      answerAt (s.dropOp o.id) n.pcore n.slot n.gen n.idx
    else s
  | .pull p => if p.no.inc && p.stop.isNone && peerGone s p.no.part then pullStop s o p Code.peergone.num else s
  | .tkget part _ _ | .tkwait part _ _ | .tkdone part _ _ => if peerGone s part then takeTicket s o false 0 else s
  | _ => s

/-- R365, R366, R419, R463: the links relock. Operands: `a` this part's index in the new group, `list` its members, `c` and `d` as
`setMode` reads them. -/
def execRelock (s : State) : Res :=
  .next (if s.fab.drain ≠ 2 then s
    else
      let a := s.arg.a
      let l := s.arg.list
      let c := s.arg.c
      let d := s.arg.d
      let s := s.fab.staged.foldl applyStaged s
      let s := (List.range 32).foldl (fun s p => s.modPort p fun x =>
        let y := setMode c d p x
        if y.circuit then relockPort s.tick y else y) s
      let n := s.tick / s.fab.window
      let s := s.modFab fun f =>
        { f with part := a, members := l, group := f.nextGroup.getD 0, nextGroup := none, drain := 0, locked := false, staged := [],
                 drained := [], closed := [], drainStand := (l.filter (· != a)).foldl (fun t p => tput t p n) [], windowN := n }
      let s := (s.fab.sends.filter fun m => peerGone s m.part).foldl (fun s m => sendLeaves s m) s
      let s := moveSends s (fun _ => true) fun m => { m with held := false, departed := m.departed.map fun _ => s.tick }
      let s := s.ops.foldl (fun s o => opLeaves s o) s
      (s.ops.filter fun o => o.kind == .drain true).foldl (fun s o => s.finish o (mkWit 3 false false s.tick)) s)

/-! ### Remote notices -/

/-- R367: operand `a` names a notice in an optical port's table that goes to its consumer's part, where it is held on; with `flag` the consumer's
station there has accepted it, and it leaves the table. 0 is a notice of another part, which the event carries: it enters the table of the
port, and a full table leaves it with its sender. -/
def execRemoteNoticeForward (s : State) : Res :=
  .next (if s.arg.a = 0 then
      let n := noticeOf s.arg.req s.arg.req.src
      if 8192 ≤ n.cons ∨ 32 ≤ s.arg.req.port ∨ 1024 ≤ (s.port n.port).notices.length then s
      else
        let (id, s) := s.newId
        let o : Op := { id := id, own := { cid := n.cons, uid := 0, ifc := n.cifc }, win := n.win, kind := .notice n }
        let s := { s with ops := s.ops ++ [o] }
        sendChive (s.modPort n.port fun x => { x with notices := x.notices ++ [id] }) id (noticeSrc n) (noticeDst n)
    else match s.op? s.arg.a with
      | some o => match o.kind with
        | .notice n =>
          if !(s.port n.port).notices.contains o.id ∨ n.inc then s
          else if s.arg.flag then (if n.st = 3 then leaveTable s o.id n else s)
          else if n.st = 3 then s
          else
            let s := s.setOp o.id (.notice { n with st := 3 })
            fabQueue s { id := 0, op := 0, piece := 0, kind := 7, port := 0, link := 0, part := n.part, req := noticeReq s n } n.slot
        | _ => s
      | none => s)

end Sys2Proof.Machine
end

