-- ==== Sys2Proof/Machine/Memory.lean ====
section
/-! DEFINITION. Scalar loads and stores, line controls and atomics (R276–R281). -/
namespace Sys2Proof.Machine

/-- R276: a load of the access size, extended by its type. -/
def execLd (f : SM) (s : State) : Res :=
  .next (sOp s f.kneg f.k 1 fun s =>
    let n := tySize f.ty
    let a := (smAddr s f n).toNat
    if a % n ≠ 0 then s.faultAt .align a
    else withSat s [f.wi1, f.wi2] fun w => slotRead s accLoad a n w fun s bs =>
      (s.sectorsOf (sectors a n)).landS f.d (ext64 f.ty (leNat bs)) s.lat.sld)

/-- R276: a store that performs after commit. -/
def execSt (f : SM) (s : State) : Res :=
  .next (sOp s f.kneg f.k 1 fun s =>
    let n := tySize f.ty
    let a := (smAddr s f n).toNat
    if a % n ≠ 0 then s.faultAt .align a
    else withWin s [f.wi1, f.wi2] fun w => slotWrite s accStore false a n fun s segs =>
      ((s.sectorsOf (sectors a n)).start w f.wo
        (.store { sw := false, va := wd a, left := piecesOf segs (leBytes n (s.me.sreg f.d).toNat) })).2)

/-- The line that an address lies in. -/
def lineOf (a : Nat) : Nat := a / 256 * 256

/-- The whole line stands in L1 for a load given a witness. -/
def wholeLine (s : State) (line : Nat) (glob : Bool) (win : Word) : Bool :=
  match l1Find s (coreOf s.iss.cid) line glob win with
  | some x => (List.range 4).all fun q => x.secs.any (·.1 == q)
  | none => false

/-- R278: the line is asked for, to be filled into L1, or nothing happens. Its bad sectors are not filled (DESIGN CHOICE, log entry 119). -/
def execPref (f : SM) (s : State) : Res :=
  .next (sOp s f.kneg f.k 1 fun s => withSat s [f.wi1, f.wi2] fun w =>
    let s := s.sectorsOf 4
    let a := lineOf (smAddr s f 256).toNat
    match resolve s (s.who s.iss.cid) { loc := false, glob := true } false a 256 with
    | .ok [⟨.dev pa, n⟩] =>
      if readBlocked s (coreOf s.iss.cid) w [⟨.dev pa, n⟩] then s.wait
      else
        let s := touchXlat s (s.who s.iss.cid) a 256
        if wholeLine s (pa / 256) false w then s else (s.start w none (.rload (coreOf s.iss.cid) (pa / 256) 0 4 true)).2
    | .ok [⟨.glob va, n⟩] =>
      if readBlocked s (coreOf s.iss.cid) w [⟨.glob va, n⟩] then s.wait
      else if wholeLine s (va / 256) true w then s
      else (s.start w none (.rload (coreOf s.iss.cid) (va / 256) 0 4 true)).2
    | _ => s)

/-- R278: the line's dirty sectors are written to memory. -/
def execWb (f : SM) (s : State) : Res :=
  .next (sOp s f.kneg f.k 1 fun s => withWin s [f.wi1, f.wi2] fun w =>
    let s := s.sectorsOf 4
    let a := lineOf (smAddr s f 256).toNat
    match resolve s (s.who s.iss.cid) { wr := true, loc := false } false a 256 with
    | .ok [⟨.dev pa, _⟩] => ((touchXlat s (s.who s.iss.cid) a 256).start w f.wo (.wb pa)).2
    | .ok _ => s
    | .error (c, x) => s.faultAt c x)

/-- R278: the line leaves the core's L1 at commit. -/
def execInv (f : SM) (s : State) : Res :=
  .next (sOp s f.kneg f.k 1 fun s =>
    let a := lineOf (smAddr s f 256).toNat
    match resolve s (s.who s.iss.cid) { loc := false, glob := true } false a 256 with
    | .ok [⟨.dev pa, _⟩] => s.eff (.invLine pa false)
    | .ok [⟨.glob va, _⟩] => s.eff (.invLine va true)
    | _ => s)

/-- The shared course of an atomic (R279): checks at execution, the operation at commit, the old value late. -/
def atomicAt (s : State) (a : Word) (ty : BitVec 3) (wi : List WF) (wo : WF) (d : BitVec 6) (fn : Nat) (fl : Bool) (v cmp : Word) : State :=
  let n := tySize ty
  if a.toNat % n ≠ 0 then s.faultAt .align a.toNat
  else withWin s wi fun w => slotWrite s accStore false a.toNat n fun s segs =>
    let loc := (segs.head?.map (·.loc)).getD (.dev 0)
    let (id, s) := (s.sectorsOf 1).start w wo (.atomic { fn := fn, f := fl, ty := ty, va := a, loc := loc, v := v, cmp := cmp, reg := d.toNat })
    s.landLateS d id s.lat.sld

/-- An atomic of format S.M (R279, R280). -/
def atomicM (f : SM) (s : State) (fn : Nat) : State :=
  sOp s f.kneg f.k 2 fun s =>
    atomicAt s (s.me.sreg f.base + (f.addr.extractLsb' 0 17).signExtend 64) f.ty [f.wi1, f.wi2] f.wo f.d fn (f.addr.getLsbD 17)
      (s.me.sreg f.d) 0

/-- R280. -/
def execAadd (f : SM) (s : State) : Res := .next (atomicM f s 0)
/-- R280. -/
def execAmin (f : SM) (s : State) : Res := .next (atomicM f s 1)
/-- R280. -/
def execAmax (f : SM) (s : State) : Res := .next (atomicM f s 2)
/-- R280. -/
def execAand (f : SM) (s : State) : Res := .next (atomicM f s 3)
/-- R280. -/
def execAor (f : SM) (s : State) : Res := .next (atomicM f s 4)
/-- R280. -/
def execAxor (f : SM) (s : State) : Res := .next (atomicM f s 5)
/-- R280. -/
def execAswp (f : SM) (s : State) : Res := .next (atomicM f s 6)
/-- R281. -/
def execAcas (f : SR) (s : State) : Res :=
  .next (sOp s f.kneg f.k 2 fun s =>
    atomicAt s (s.me.sreg f.a) f.ty [f.wi1, f.wi2] f.wo f.d 7 false (s.me.sreg f.c) (s.me.sreg f.b))

end Sys2Proof.Machine
end

