-- ==== Sys2Proof/Machine/Platform.lean ====
section
/-! DEFINITION. The platform: part reset, start-up, attestation, envelopes, lifetime records, the management core and the register pages
of interfaces (R8, R24, R283, R320, R340, R408–R411, R437–R446). -/
namespace Sys2Proof.Machine

/-! ### Reset and start-up -/

/-- R8: every register at its reset value. The repair fuses, the memory contents, the firmware image, the lifetime records and what has
left the part stay. -/
def execPartReset (s : State) : Res :=
  let fuse := fun (p : Nat × Core) => (p.1, ({ gone0 := p.2.gone0, gone1 := p.2.gone1, goneAcc := p.2.goneAcc, goneTd := p.2.goneTd } : Core))
  let plug := fun (p : Nat × FPort) => (p.1, ({ sw := p.2.sw } : FPort))
  let r := State.reset
  let plat : Platform :=
    { root := s.plat.root, idMod := s.plat.idMod, idExp := s.plat.idExp, image := s.plat.image, antiRoll := s.plat.antiRoll, dill := s.plat.dill,
      dillNv := s.plat.dillNv, dillTick := s.plat.dillTick, dillOut := s.plat.dillOut, ddr := s.plat.ddr, ddrSize := s.plat.ddrSize }
  .next { r with
    agenda := s.agenda, arg := s.arg, fresh := s.fresh, nextId := s.nextId, cores := s.cores.map fuse, mem := s.mem, hostMem := s.hostMem,
    poison := s.poison, ue := s.ue, ce := s.ce, plat := plat, fab := { ports := s.fab.ports.map plug, out := s.fab.out } }

/-- What an image is signed over: behind the modulus of its key and its signature, 512 bytes each (log entry 7). -/
def imageBody (img : List Byte) : List Byte := img.drop 1024

/-- The version of an image: the first eight bytes of its body (log entry 7). -/
def imageVersion (img : List Byte) : Nat := leNat ((imageBody img).take 8)

/-- An image verifies under the fused root (R441, R442): its key is the root key, whose digest the fuses hold, and its signature verifies
under it. Fuses that hold no digest accept any image (log entry 7). -/
def imageVerifies (root img : List Byte) : Bool :=
  root.isEmpty || (sha512 (img.take 512) == root && pssVerify (beNat (img.take 512)) (imageBody img) ((img.drop 512).take 512))

/-- R442: the boot ROM takes the image of `list` if it verifies and is not rolled back, and else stays in recovery. -/
def execFirmwareVerify (s : State) : Res :=
  let img := s.arg.list.map fun b => BitVec.ofNat 8 b
  .next (if s.plat.boot ≠ 0 then s
    else s.modPlat fun p =>
      { p with
        boot := if imageVerifies p.root img && decide (p.antiRoll ≤ imageVersion img) then 1 else 2
        bootAt := s.now
        image := img
        imageOk := imageVerifies p.root img
        imageDigest := sha512 (imageBody img) })

/-- Ticks from the start of the firmware to the next step of R440. -/
def bootDue (s : State) (n : Nat) : Bool := decide (s.plat.bootAt + n ≤ s.now)

/-- R440: one cluster every 4 µs; the matrix arrays start after the last. -/
def execClusterStart (s : State) : Res :=
  let n := s.plat.clusters
  .next (if s.plat.boot ≠ 1 ∨ 256 ≤ n ∨ !bootDue s (16000 * n) then s
    else s.modPlat fun p =>
      if n = 255 then { p with clusters := 256, arrays := true, arraysAt := s.now, eighths := 1 } else { p with clusters := n + 1 })

/-- R440: one eighth for 512 µs, and one more every 64 µs until the budget is whole. -/
def execPowerRampStep (s : State) : Res :=
  let p := s.plat
  .next (if !p.arrays ∨ 8 ≤ p.eighths ∨ s.now < p.arraysAt + 2048000 + 256000 * (p.eighths - 1) then s
    else s.modPlat fun p => { p with eighths := p.eighths + 1 })

/-! ### The register pages -/

/-- A command stream starts at an address (R410, R411): its context and nothing before. -/
def startStream (s : State) (ifc : Nat) (v : Word) : State :=
  let s := if (s.ifc ifc).frozen then thaw s ifc else s
  let (uid, s) := s.newId
  let s := s.setCtx (8192 + ifc) { st := .running, uid := uid, ifc := ifc, pc := v, lastTry := s.now }
  s.modIfc ifc fun i => { i with run := true, entry := v, heldEntry := none }

/-- A thaw must wait for a dump of the freeze (R422). -/
def dumpsOpen (s : State) (ifc : Nat) : Bool := (frozenCtxs s ifc).any fun c => (s.ctx c).dying

/-- A write to ENTRY (R410, R440): ignored while RUN = 1, held until the part accepts starts and until a thaw can be done. -/
def entryWrite (s : State) (ifc : Nat) (v : Word) : State :=
  if (s.ifc ifc).run then s.modIfc ifc fun i => { i with heldEntry := none }
  else if s.plat.boot ≠ 3 ∨ dumpsOpen s ifc then s.modIfc ifc fun i => { i with heldEntry := some v }
  else startStream s ifc v

/-- R410, R440: operand `a` names the interface and `word` is written; with `flag` the write that is held takes effect. -/
def execEntryWrite (s : State) : Res :=
  let ifc := s.arg.a
  .next (if 64 ≤ ifc ∨ s.plat.boot = 2 then s
    else if s.arg.flag then match (s.ifc ifc).heldEntry with
      | some v => entryWrite s ifc v
      | none => s
    else entryWrite s ifc s.arg.word)

/-- R410: operands `a` and `b` are the interface and the offset, and `word` is written. -/
def execRegisterWrite (s : State) : Res :=
  let ifc := s.arg.a
  let v := s.arg.word
  .next (if 64 ≤ ifc ∨ s.plat.boot = 2 then s
    else match s.arg.b with
      | 0x008 => s.modIfc ifc fun i => { i with handler := v }
      | 0x010 => if (s.ifc ifc).run then s else s.modIfc ifc fun i => { i with xlat := v }
      | 0x020 => s.modIfc ifc fun i => { i with hmb := v }
      | 0x028 => s.modIfc ifc fun i => { i with hrd := v }
      | _ => s)

/-- What a read of a register page returns (R410, R442). -/
def registerRead (s : State) (ifc off : Nat) : Word :=
  let i := s.ifc ifc
  if s.plat.boot = 2 then 0
  else match off with
    | 0x008 => i.handler
    | 0x010 => i.xlat
    | 0x018 => wd ((if i.run then 1 else 0) + (if i.frozen then 2 else 0) + i.stop % 256 * 2 ^ 8)
    | 0x020 => i.hmb
    | 0x028 => i.hrd
    | 0x030 => i.hsc
    | 0x038 => i.evc
    | _ => 0

/-- R24, R440: operand `a` is the device time; the part accepts starts, and held writes to ENTRY take effect. -/
def execAcceptStarts (s : State) : Res :=
  .next (if s.plat.boot ≠ 1 ∨ s.plat.eighths < 8 then s
    else
      let t := max s.tick (s.arg.a % 2 ^ 60)
      let s := { s with tickBase := t - s.now }
      let s := s.modFab fun f => { f with windowN := t / f.window }
      let s := s.modPlat fun p => { p with boot := 3 }
      (List.range 64).foldl (init := s) fun s ifc => match (s.ifc ifc).heldEntry with
        | some v => entryWrite s ifc v
        | none => s)

/-! ### Attestation -/

/-- Bytes of the part's identity from an offset (R441; log entry 10). -/
def identityBytes (from' n : Nat) : List Byte := (List.range n).map fun i => Config.identity (from' + i)

/-- The certificate chain that the part returns (R441, R443): its length, the digest of the root at which it ends, the certificates, of
which the model gives no byte, and the public key of the last, the identity key (log entry 10). -/
def certChain (p : Platform) : List Byte :=
  leBytes 2 4096 ++ leBytes 2 0 ++ padTo 64 p.root ++ identityBytes 0 3516 ++ beBytes 512 p.idMod

/-- A signature over a message by the identity key (R441, R443), with a salt of the part's own (log entry 10). -/
def signature (p : Platform) (msg : List Byte) : List Byte :=
  pssSign p.idMod p.idExp msg (identityBytes (2 ^ 20 + 64 * leNat (sha512 msg)) 64)

/-- The management core answers (R442: not before its firmware runs; in recovery its mailbox is offered, and no firmware answers there,
log entry 7). -/
def mgmtUp (s : State) : Bool := s.plat.boot == 1 || s.plat.boot == 3

/-- A response of the SPDM 1.2 responder (R443): its state must be at least `need`, else ERROR with UnexpectedRequest. -/
def spdmReply (s : State) (need next : Nat) (body : List Byte) : State :=
  if !mgmtUp s then s
  else s.modPlat fun p =>
    if p.spdm.st < need then { p with spdm := { p.spdm with reply := [0x12, 0x7F, 0x04, 0x00] } }
    else { p with spdm := { p.spdm with st := next, reply := body } }

/-- R443: VERSION, with version 1.2 alone. -/
def execSpdmGetVersion (s : State) : Res :=
  .next ((spdmReply s 0 1 [0x10, 0x04, 0, 0, 0, 1, 0x00, 0x12]).modPlat fun p =>
    if mgmtUp s then { p with spdm := { p.spdm with session := false } } else p)

/-- The part's capability record, where R2 reports the DDR tier: 1 present, 0 absent (log entry 107). -/
def capabilityRecord (p : Platform) : List Byte := [if p.ddr then 1 else 0]

/-- R443: CAPABILITIES, with certificates, challenges and signed measurements, and the capability record of R2 behind them. -/
def execSpdmGetCapabilities (s : State) : Res :=
  .next (spdmReply s 1 2
    ([0x12, 0x61, 0, 0, 0, 0, 0, 0] ++ leBytes 4 0x16 ++ leBytes 4 4096 ++ leBytes 4 4096 ++ capabilityRecord s.plat))

/-- R443: ALGORITHMS, with RSASSA-4096 and SHA-512 alone. -/
def execSpdmNegotiateAlgorithms (s : State) : Res :=
  .next (spdmReply s 2 3 ([0x12, 0x63, 0, 0] ++ leBytes 2 36 ++ [1, 0] ++ leBytes 4 8 ++ leBytes 4 0x20 ++ leBytes 4 4 ++ leBytes 16 0))

/-- R443: DIGESTS of the one certificate chain. -/
def execSpdmGetDigests (s : State) : Res := .next (spdmReply s 3 (max 3 s.plat.spdm.st) ([0x12, 0x01, 0, 1] ++ sha512 (certChain s.plat)))

/-- R443: operands `a` and `b` are the offset and the length asked for. -/
def execSpdmGetCertificate (s : State) : Res :=
  let part := ((certChain s.plat).drop s.arg.a).take s.arg.b
  .next (spdmReply s 3 (max 3 s.plat.spdm.st)
    ([0x12, 0x02, 0, 0] ++ leBytes 2 part.length ++ leBytes 2 (4096 - s.arg.a - part.length) ++ part))

/-- R443, R446: operand `a` is the nonce; a challenge answered authenticates the session. -/
def execSpdmChallenge (s : State) : Res :=
  let body : List Byte := [0x12, 0x03, 0, 1] ++ sha512 (certChain s.plat) ++ identityBytes (2 ^ 30) 32 ++ leBytes 2 0
  let s' := spdmReply s 3 4 (body ++ signature s.plat (leBytes 32 s.arg.a ++ body))
  .next (if mgmtUp s && decide (3 ≤ s.plat.spdm.st) then s'.modPlat fun p => { p with spdm := { p.spdm with session := true } } else s')

/-- One measurement block of an SPDM response. -/
def measBlock (i ty : Nat) (v : List Byte) : List Byte :=
  leBytes 1 i ++ [1] ++ leBytes 2 (v.length + 3) ++ leBytes 1 ty ++ leBytes 2 v.length ++ v

/-- The allotments of R408 as one run of bytes (R443, measurement 3). -/
def allotments (s : State) : List Byte :=
  leBytes 2 s.plat.envelope ++
  (List.range 1024).flatMap (fun k => leBytes 1 (((s.core k).own.map (· + 1)).getD 0)) ++
  (List.range 64).flatMap (fun i =>
    let x := s.ifc i
    leBytes 1 x.sh ++ leBytes 3 ((x.ftag.map (· + 1)).getD 0) ++ leBytes 4 x.qci ++ leBytes 5 x.qcm) ++
  leBytes 1 ((s.fab.fown.map (· + 1)).getD 0) ++
  (List.range 4).flatMap (fun d => (List.range 256).flatMap fun g =>
    let x : Grp := tget {} (s.die d).grp g
    leBytes 1 (x.ifc + if x.allot then 128 else 0)) ++
  s.thyme.flatMap fun (p : Nat × BitVec 32) => leBytes 4 p.1 ++ leBytes 1 (thymeIfc p.2)

/-- The measurements of R443: the digest of the firmware image, the repair-fuse state, and the digest of the envelope and the allotments,
which would not fit whole (log entry 66). -/
def measurement (s : State) (i : Nat) : List Byte :=
  match i with
  | 1 => measBlock 1 1 s.plat.imageDigest
  | 2 => measBlock 2 0x82 ((List.range 1024).flatMap fun k => leBytes 8 (s.core k).cap.toNat)
  | _ => measBlock 3 3 (sha512 (allotments s))

/-- The measurements that an index asks for: 0 their number alone, 255 all, or one of them. -/
def measAsked (i : Nat) : Option (List Nat) :=
  if i = 0 then some [] else if i = 255 then some [1, 2, 3] else if i ≤ 3 then some [i] else none

/-- R443: operand `b` is the index asked for, `a` the nonce, and `flag` asks for a signature, which covers the request and the response; an
index that names no measurement is an invalid request. -/
def execSpdmGetMeasurements (s : State) : Res :=
  let i := s.arg.b
  let up := max 3 s.plat.spdm.st
  .next (match measAsked i with
    | none => spdmReply s 3 up [0x12, 0x7F, 0x01, 0x00]
    | some l =>
      let req : List Byte := [0x12, 0xE0, if s.arg.flag then 1 else 0, BitVec.ofNat 8 i] ++ (if s.arg.flag then leBytes 32 s.arg.a ++ [0] else [])
      let blocks := l.flatMap (measurement s)
      let body : List Byte := [0x12, 0x60, if i = 0 then 3 else 0, 0, BitVec.ofNat 8 l.length] ++ leBytes 3 blocks.length ++ blocks ++
        identityBytes (2 ^ 30 + 32) 32 ++ leBytes 2 0
      spdmReply s 3 up (body ++ if s.arg.flag then signature s.plat (req ++ body) else []))

/-! ### Envelopes and lifetime records -/

/-- R1, R437: operand `a` is the envelope in watts. Code M, the one with a DDR tier, takes the operator's request; under the other codes
the integrator's system fixes the envelope before the part accepts starts, and no later request changes it (log entry 112). Each request
takes effect at its own period. -/
def execEnvelopeSelect (s : State) : Res :=
  let w := s.arg.a
  .next (if w ≠ 4800 ∧ w ≠ 4000 ∧ w ≠ 3200 then s
    else if s.plat.ddr then if mgmtUp s then s.modPlat fun p => { p with envNext := p.envNext ++ [(w, s.now)] } else s
    else if s.plat.boot = 3 then s
    else s.modPlat fun p => { p with envelope := w })

/-- R446: every 60 s, or with `flag` at an orderly power-down. -/
def execDillCommit (s : State) : Res :=
  .next (if !s.arg.flag ∧ s.now < s.plat.dillAt + 240000000000 then s
    else s.modPlat fun p => { p with dillNv := p.dill, dillTick := s.tick, dillAt := s.now })

/-- The 64 KiB image of the committed records (R446): its header, then a key and a count for each record that is not zero, in the
order of R445, as far as they fit (log entry 67). -/
def dillImage (p : Platform) : List Byte :=
  let body := sha512 (certChain p) ++ leBytes 8 p.dillTick ++ p.dillNv.flatMap fun (x : Nat × Nat) => leBytes 4 x.1 ++ leBytes 8 x.2
  (body ++ List.replicate (65536 - body.length) 0).take 65536

/-- R446: the operator reads the store in an authenticated session. -/
def execDillRead (s : State) : Res :=
  .next (if !mgmtUp s ∨ !s.plat.spdm.session then s else s.modPlat fun p => { p with dillOut := dillImage p })

/-- R445: `list` gives the temperatures of dies 0–3 and of the twelve stacks, once a second. -/
def execTemperatureSample (s : State) : Res :=
  .next (if s.now < s.plat.tempAt + 4000000000 then s
    else
      let s := (s.arg.list.take 16).zipIdx.foldl (fun s p => dillBin s 17 p.2 p.1) s
      s.modPlat fun p => { p with tempAt := s.now })

/-- R445: operand `a` names the die. -/
def execSupplyDroop (s : State) : Res := .next (if 4 ≤ s.arg.a then s else dillAdd s 18 s.arg.a)

/-! ### The management core -/

/-- Contexts of a core that stand at a yield are evicted (R409). -/
def evictYielded (s : State) (core : Nat) : State :=
  (upto (core * 8) 8).foldl (init := s) fun s cid =>
    let c := s.ctx cid
    if c.st == .ready || c.st == .waiting then startEvict s cid else s

/-- A queued entry or record leaves a core that its interface loses (R29, R108, R111, R409). -/
def displace (core : Nat) (s : State) (q : QEntry) : State :=
  let s := unqueue s core q.id
  if q.evict then placeRecord s q none
  else match bestCore s (openCores s q.ifc (placement q.lb)) with
    | some c => queueAt s c q
    | none => if (ownedCores s q).isEmpty then containEntry s q core Code.capacity.num 0 else holdEntry s q

/-- An engine operation of a task of the core is still to write its record into the core's ring (R260, R265). -/
def recordsDue (s : State) (core : Nat) : Bool :=
  s.ops.any fun o => coreOf o.own.cid == core && match o.kind with
    | .copy _ | .mcst _ | .gld _ | .pull _ | .fst _ | .rsto _ => true
    | _ => false

/-- The core passes to its new interface (R320, R409); its ring shows no record of the interface that it leaves (R260). -/
def passCore (s : State) (core : Nat) (dest : Option Nat) : State :=
  let s := (coreEntries s core).foldl (displace core) s
  let s := { s with ringMem := s.ringMem.filter fun (x : Host.Cell) => decide (x.1 / 4096 ≠ core) }
  s.modCore core fun k =>
    { k with own := dest, moving := none, lastRec := [], ret := k.ret.map fun (r : Nat × RetSlot) => (r.1, { r.2 with tmo := 50 }) }

/-- R408, R409: operands `a` and `b` name a core and its new interface (interface + 1, or 0 for none). While a reassignment is under
way, `b` is not read: the contexts that have reached a yield are evicted, and the core passes once it holds none and the copies of its tasks
have written their records (R260). -/
def execMgmtAssignCore (s : State) : Res :=
  let core := s.arg.a
  let dest := if s.arg.b = 0 then none else some (s.arg.b - 1)
  .next (if 1024 ≤ core ∨ 64 < s.arg.b ∨ !mgmtUp s then s
    else
      let s := if (s.core core).moving.isSome ∨ (s.core core).own = dest then s
        else s.modCore core fun k => { k with moving := some dest }
      match (s.core core).moving with
      | none => s
      | some dest =>
        let s := evictYielded s core
        if ((upto (core * 8) 8).all fun cid => (s.ctx cid).st == .free) && !recordsDue s core then passCore s core dest else s)

/-- The interface has a slot of the station's Thyme table (R340). -/
def hasSlots (s : State) (station ifc : Nat) : Bool :=
  s.thyme.any fun (p : Nat × BitVec 32) => p.1 / 7168 == station && thymeIfc p.2 == ifc

/-- CMAP and PACE of an interface that is given its first slot at a station (R334): their defaults. -/
def freshSlots (s : State) (station ifc : Nat) : State :=
  if hasSlots s station ifc then s
  else s.modStn station fun t =>
    { t with cmap := t.cmap.filter fun (p : Nat × Nat) => p.1 != ifc, pace := t.pace.filter fun (p : Nat × Nat) => p.1 != ifc }

/-- R334, R340, R408: operands `a` to `d` are station, output, slot and interface; V is cleared. -/
def execMgmtSetThymeIfc (s : State) : Res :=
  let k := thymeKey s.arg.a s.arg.b s.arg.c
  .next (if 256 ≤ s.arg.a ∨ 7 ≤ s.arg.b ∨ 1024 ≤ s.arg.c ∨ 64 ≤ s.arg.d ∨ !mgmtUp s then s
    else
      let old : BitVec 32 := tget 0 s.thyme k
      let new := BitVec.ofNat 32 (s.arg.d * 2 ^ 25 + fld old.toNat 24 22 * 2 ^ 22)
      let s := freshSlots s s.arg.a s.arg.d
      { s with thyme := tput s.thyme k new, thymeStaged := s.thymeStaged.filter fun (p : Nat × BitVec 32) => p.1 != k })

/-- A context leaves a group, whichever enrolment holds it (R131, R283). -/
def leaveGrp (g : Nat) (s : State) (cid : Nat) : State :=
  (List.range 4).foldl (init := s) fun s e => match tget none (s.ctx cid).ge e with
    | some n => if n.grp = g then leaveGroup s cid e else s
    | none => s

/-- R283, R408: operands `a` to `c` are die, group and interface, `flag` is ALLOT; clearing it removes every member. Bit 15 of `word`
clears MIS, which is written with 1 to clear (log entry 113). -/
def execMgmtSetGroup (s : State) : Res :=
  let d := s.arg.a
  let g := s.arg.b
  let ifc := s.arg.c
  let on := s.arg.flag
  .next (if 4 ≤ d ∨ 256 ≤ g ∨ 64 ≤ ifc ∨ !mgmtUp s then s
    else
      let x : Grp := tget {} (s.die d).grp g
      let s := if on then s else x.mem.foldl (fun s m => leaveGrp g s m.1) s
      s.modDie d fun y =>
        let x : Grp := tget {} y.grp g
        { y with grp := tput y.grp g { x with ifc := ifc, allot := on, mis := x.mis && !s.arg.word.getLsbD 15 } })

/-- R348, R353, R408: operand `a` names an interface; `d` selects 0 SH := `b`, 1 FTAG := `c` (tag + 1, or 0 for none), 2 FOWN := `flag`. A
tag that another interface holds is refused. -/
def execMgmtSetFabricItems (s : State) : Res :=
  let ifc := s.arg.a
  let v := s.arg
  .next (if 64 ≤ ifc ∨ !mgmtUp s then s
    else match v.d with
      | 0 => if 64 < v.b then s else s.modIfc ifc fun i => { i with sh := v.b }
      | 1 =>
        if 65536 < v.c ∨ (v.c ≠ 0 ∧ (tagHolder s (v.c - 1)).any (· != ifc)) then s
        else s.modIfc ifc fun i => { i with ftag := if v.c = 0 then none else some (v.c - 1) }
      | 2 =>
        if v.flag then s.modFab fun f => { f with fown := some ifc }
        else s.modFab fun f => { f with fown := if f.fown == some ifc then none else f.fown }
      | _ => s)

/-- A quantum after its ceiling changed: it follows while it stood at the ceiling, and never exceeds it (R418, R419). -/
def underCeiling (q old new : Nat) : Nat := if q = old then new else min q new

/-- R408: operands `a` to `c` are the interface, QCI and QCM. -/
def execMgmtSetQuantumCeiling (s : State) : Res :=
  let ifc := s.arg.a
  let ci := s.arg.b % 2 ^ 32
  let cm := s.arg.c % 2 ^ 40
  .next (if 64 ≤ ifc ∨ !mgmtUp s then s
    else s.modIfc ifc fun i => { i with qci := ci, qcm := cm, qi := underCeiling i.qi i.qci ci, qm := underCeiling i.qm i.qcm cm })

end Sys2Proof.Machine
end

