-- ==== Sys2Proof/Machine/Scalar.lean ====
section
/-! DEFINITION. The scalar integer, compare, predicate and bit-field instructions (R134–R143). -/
namespace Sys2Proof.Machine

/-- The bits of a type (R45). -/
def tyBits (ty : BitVec 3) : Nat := 8 * tySize ty

/-- The value of a source by width and signedness (R134). -/
def sInt (ty : BitVec 3) (v : Word) : Int := intOf (tySigned ty) (tyBits ty) (v.toNat % 2 ^ tyBits ty)

/-- The low bits of an exact result, extended (R134). -/
def sOut (ty : BitVec 3) (r : Int) : Word := ext64 ty (toBits (tyBits ty) r)

/-- `div` (R137). -/
def sDiv (ty : BitVec 3) (x y : Int) : Int :=
  if y = 0 then (if tySigned ty then -1 else 2 ^ tyBits ty - 1) else Int.tdiv x y

/-- `rem` (R137). -/
def sRem (x y : Int) : Int := if y = 0 then x else Int.tmod x y

/-- The shift and rotate amount (R137). -/
def sAmount (ty : BitVec 3) (n : Nat) : Nat := n % 64 % tyBits ty

/-- A rotation left of the low bits (R137). -/
def sRot (ty : BitVec 3) (x n : Nat) : Nat :=
  let w := tyBits ty
  let x := x % 2 ^ w
  (x * 2 ^ n + x / 2 ^ (w - n)) % 2 ^ w

/-- Leading zeros within w bits (R143). -/
def clzN (w x : Nat) : Nat := if x % 2 ^ w = 0 then w else w - 1 - Nat.log2 (x % 2 ^ w)

/-- Trailing zeros within w bits (R143). -/
def ctzN (w x : Nat) : Nat := ((List.range w).find? fun i => x.testBit i).getD w

/-- One bits (R143). -/
def popcN (w x : Nat) : Nat := ((List.range w).filter fun i => x.testBit i).length

/-- A register-form integer result (R134, R137). -/
def intR (f : SR) (s : State) (units lat : Nat) (op : Int → Int → Int) : State :=
  sOp s f.kneg f.k units fun s =>
    s.landS f.d (sOut f.ty (op (sInt f.ty (s.me.sreg f.a)) (sInt f.ty (s.me.sreg f.b)))) lat

/-- With the SAT bit of `add`, `sub` and `mul` (R134, R137). -/
def intSat (f : SR) (s : State) (units lat : Nat) (op : Int → Int → Int) : State :=
  intR f s units lat fun x y =>
    if f.fn.getLsbD 0 then clampInt (tySigned f.ty) (tyBits f.ty) (op x y) else op x y

/-- A register-form bitwise result (R137). -/
def bitR (f : SR) (s : State) (op : Word → Word → Word) : State :=
  sOp s f.kneg f.k 1 fun s => s.landS f.d (ext64 f.ty ((op (s.me.sreg f.a) (s.me.sreg f.b)).toNat % 2 ^ tyBits f.ty)) s.lat.salu

/-- An immediate-form integer result (R138). -/
def intI (f : SI) (s : State) (units lat : Nat) (op : Int → Int → Int) : State :=
  sOp s f.kneg f.k units fun s =>
    s.landS f.d (sOut f.ty (op (sInt f.ty (s.me.sreg f.a)) (sInt f.ty (f.imm.signExtend 64)))) lat

/-- An immediate-form bitwise result (R138). -/
def bitI (f : SI) (s : State) (op : Word → Word → Word) : State :=
  sOp s f.kneg f.k 1 fun s =>
    s.landS f.d (ext64 f.ty ((op (s.me.sreg f.a) (f.imm.signExtend 64)).toNat % 2 ^ tyBits f.ty)) s.lat.salu

/-- A register-form compare (R140). -/
def cmpR (f : SR) (s : State) (cc : Int → Int → Bool) : State :=
  sOp s f.kneg f.k 1 fun s => s.landK f.d (cc (sInt f.ty (s.me.sreg f.a)) (sInt f.ty (s.me.sreg f.b)))

/-- An immediate-form compare (R140). -/
def cmpI (f : SI) (s : State) (cc : Int → Int → Bool) : State :=
  sOp s f.kneg f.k 1 fun s => s.landK f.d (cc (sInt f.ty (s.me.sreg f.a)) (sInt f.ty (f.imm.signExtend 64)))

/-- A predicate result (R141). -/
def predR (f : SR) (s : State) (op : Ctx → Bool) : State :=
  sOp s f.kneg f.k 1 fun s => s.landK f.d (op s.me)

/-- A scalar result of class S.alu from the registers (R142, R143). -/
def aluR (f : SR) (s : State) (op : Ctx → Word) : State :=
  sOp s f.kneg f.k 1 fun s => s.landS f.d (op s.me) s.lat.salu

/-- R137. -/
def execAdd (f : SR) (s : State) : Res := .next (intSat f s 1 s.lat.salu (· + ·))
/-- R137. -/
def execSub (f : SR) (s : State) : Res := .next (intSat f s 1 s.lat.salu (· - ·))
/-- R137. -/
def execMul (f : SR) (s : State) : Res := .next (intSat f s 2 s.lat.smul (· * ·))
/-- R137. -/
def execMulh (f : SR) (s : State) : Res := .next (intR f s 2 s.lat.smul fun x y => x * y / 2 ^ tyBits f.ty)
/-- R137. -/
def execDiv (f : SR) (s : State) : Res := .next (intR f s 8 s.lat.smul (sDiv f.ty))
/-- R137. -/
def execRem (f : SR) (s : State) : Res := .next (intR f s 8 s.lat.smul sRem)
/-- R137. -/
def execMin (f : SR) (s : State) : Res := .next (intR f s 1 s.lat.salu min)
/-- R137. -/
def execMax (f : SR) (s : State) : Res := .next (intR f s 1 s.lat.salu max)
/-- R137. -/
def execAnd (f : SR) (s : State) : Res := .next (bitR f s (· &&& ·))
/-- R137. -/
def execOr (f : SR) (s : State) : Res := .next (bitR f s (· ||| ·))
/-- R137. -/
def execXor (f : SR) (s : State) : Res := .next (bitR f s (· ^^^ ·))
/-- R137. -/
def execShl (f : SR) (s : State) : Res :=
  .next (bitR f s fun x y => wd (x.toNat % 2 ^ tyBits f.ty * 2 ^ sAmount f.ty y.toNat))
/-- R137. -/
def execShr (f : SR) (s : State) : Res :=
  .next (bitR f s fun x y => BitVec.ofInt 64 (sInt f.ty x / 2 ^ sAmount f.ty y.toNat))
/-- R137. -/
def execRot (f : SR) (s : State) : Res :=
  .next (bitR f s fun x y => wd (sRot f.ty x.toNat (sAmount f.ty y.toNat)))
/-- R137. -/
def execSel (f : SR) (s : State) : Res :=
  .next (intR f s 1 s.lat.salu fun x y => if s.me.kreg f.c.toNat then x else y)
/-- R138. -/
def execAddi (f : SI) (s : State) : Res := .next (intI f s 1 s.lat.salu (· + ·))
/-- R138. -/
def execMuli (f : SI) (s : State) : Res := .next (intI f s 2 s.lat.smul (· * ·))
/-- R138. -/
def execAndi (f : SI) (s : State) : Res := .next (bitI f s (· &&& ·))
/-- R138. -/
def execOri (f : SI) (s : State) : Res := .next (bitI f s (· ||| ·))
/-- R138. -/
def execXori (f : SI) (s : State) : Res := .next (bitI f s (· ^^^ ·))
/-- R138. -/
def execShli (f : SI) (s : State) : Res :=
  .next (bitI f s fun x y => wd (x.toNat % 2 ^ tyBits f.ty * 2 ^ sAmount f.ty y.toNat))
/-- R138. -/
def execShri (f : SI) (s : State) : Res :=
  .next (bitI f s fun x y => BitVec.ofInt 64 (sInt f.ty x / 2 ^ sAmount f.ty y.toNat))
/-- R139. -/
def execLi (f : SI) (s : State) : Res := .next (bitI f s fun _ y => y)
/-- R139. -/
def execLih (f : SI) (s : State) : Res :=
  .next (sOp s f.kneg f.k 1 fun s =>
    s.landS f.d ((f.imm.extractLsb' 0 28) ++ (s.me.sreg f.a).extractLsb' 0 36) s.lat.salu)
/-- R140. -/
def execCmpeq (f : SR) (s : State) : Res := .next (cmpR f s fun x y => x == y)
/-- R140. -/
def execCmpne (f : SR) (s : State) : Res := .next (cmpR f s fun x y => x != y)
/-- R140. -/
def execCmplt (f : SR) (s : State) : Res := .next (cmpR f s fun x y => decide (x < y))
/-- R140. -/
def execCmple (f : SR) (s : State) : Res := .next (cmpR f s fun x y => decide (x ≤ y))
/-- R140. -/
def execCmpeqi (f : SI) (s : State) : Res := .next (cmpI f s fun x y => x == y)
/-- R140. -/
def execCmpnei (f : SI) (s : State) : Res := .next (cmpI f s fun x y => x != y)
/-- R140. -/
def execCmplti (f : SI) (s : State) : Res := .next (cmpI f s fun x y => decide (x < y))
/-- R140. -/
def execCmplei (f : SI) (s : State) : Res := .next (cmpI f s fun x y => decide (x ≤ y))
/-- R141. -/
def execKand (f : SR) (s : State) : Res := .next (predR f s fun c => c.kreg f.a.toNat && c.kreg f.b.toNat)
/-- R141. -/
def execKor (f : SR) (s : State) : Res := .next (predR f s fun c => c.kreg f.a.toNat || c.kreg f.b.toNat)
/-- R141. -/
def execKxor (f : SR) (s : State) : Res := .next (predR f s fun c => c.kreg f.a.toNat != c.kreg f.b.toNat)
/-- R141. -/
def execKnot (f : SR) (s : State) : Res := .next (predR f s fun c => !c.kreg f.a.toNat)
/-- R141. -/
def execKmovK (f : SR) (s : State) : Res := .next (predR f s fun c => c.kreg f.a.toNat)
/-- R141. -/
def execKmovToS (f : SR) (s : State) : Res := .next (aluR f s fun c => if c.kreg f.a.toNat then 1 else 0)
/-- R141. -/
def execKmovFromS (f : SR) (s : State) : Res := .next (predR f s fun c => c.sreg f.a != 0)
/-- R142. -/
def execBfx (f : SR) (s : State) : Res :=
  .next (aluR f s fun c =>
    let n := f.fn.toNat + 1
    BitVec.ofInt 64 (intOf (tySigned f.ty) n ((c.sreg f.a).toNat / 2 ^ f.c.toNat % 2 ^ n)))
/-- R142. -/
def execBfi (f : SR) (s : State) : Res :=
  .next (aluR f s fun c =>
    let m : Word := (wd (2 ^ (f.fn.toNat + 1) - 1)) <<< f.c.toNat
    (c.sreg f.a &&& ~~~m) ||| (((c.sreg f.b) <<< f.c.toNat) &&& m))
/-- R143. -/
def execClz (f : SR) (s : State) : Res := .next (aluR f s fun c => wd (clzN (tyBits f.ty) (c.sreg f.a).toNat))
/-- R143. -/
def execCtz (f : SR) (s : State) : Res := .next (aluR f s fun c => wd (ctzN (tyBits f.ty) (c.sreg f.a).toNat))
/-- R143. -/
def execPopc (f : SR) (s : State) : Res := .next (aluR f s fun c => wd (popcN (tyBits f.ty) (c.sreg f.a).toNat))
/-- R143. -/
def execBswap (f : SR) (s : State) : Res :=
  .next (aluR f s fun c => ext64 f.ty (leNat (leBytes (tySize f.ty) (c.sreg f.a).toNat).reverse))

end Sys2Proof.Machine
end

