-- ==== Sys2Proof/Machine/VecMem.lean ====
section
/-! DEFINITION. Vector loads and stores, gather and scatter, and the configuration of operand ports (R183–R194, R210, R211). -/
namespace Sys2Proof.Machine

/-- The bits of the active lanes. -/
def laneMask (act : Word) : Nat :=
  (List.range 64).foldl (fun z i => if act.getLsbD i then z + 0xFFFFFFFF <<< (32 * i) else z) 0

/-- The low word of a register, as an address. -/
def vAddr (v : VReg) : Word := v.setWidth 64

/-- The runs of active lanes, as pieces of the register's bytes (R210). -/
def laneRuns (act : Word) (a : Nat) (bs : List Byte) : List (Nat × List Byte) :=
  (List.range 64).filterMap fun i => if act.getLsbD i then some (a + 4 * i, (bs.drop (4 * i)).take 4) else none

/-- Located bytes of an element of a range whose runs are known. -/
def piecesAt (segs : List Seg) (a : Nat) (l : List (Nat × List Byte)) : List Piece :=
  l.flatMap fun p => piecesOf (cut segs (p.1 - a) p.2.length) p.2
where
  cut : List Seg → Nat → Nat → List Seg
  | [], _, _ => []
  | g :: gs, off, n =>
    if n = 0 then []
    else if g.len ≤ off then cut gs (off - g.len) n
    else
      let k := min n (g.len - off)
      let l := match g.loc with
        | .dev x => Loc.dev (x + off)
        | .sp x => Loc.sp (x + off)
        | .ring x => Loc.ring (x + off)
        | .glob x => Loc.glob (x + off)
      ⟨l, k⟩ :: cut gs 0 (n - k)

/-- R210. -/
def execVld (f : VO) (s : State) : Res :=
  .next (vOp s f 1 32 [f.a] fun s vs =>
    let a := (vAddr (vs.getD 0 0) + (f.c.extractLsb' 6 5).signExtend 64 * 256).toNat
    if a % 64 ≠ 0 then s.faultAt .align a
    else withSat s [wfOf f.c] fun w => slotRead s accLoad a 256 w fun s bs =>
      landV (s.sectorsOf 4) f s.lat.vld { val := leNat bs, mask := laneMask (voAct f s), fl := 0, gens := [] })

/-- R210. -/
def execVst (f : VO) (s : State) : Res :=
  .next (vOp s f 1 32 [f.a, f.b] fun s vs =>
    let a := (vAddr (vs.getD 0 0) + (f.c.extractLsb' 6 5).signExtend 64 * 256).toNat
    let act := voAct f s
    if a % 64 ≠ 0 then s.faultAt .align a
    else withWin s [wfOf f.c] fun w =>
      if act = 0 then
        match resolve s (s.who s.iss.cid) accStore false a 256 with
        | .ok _ => s.nullWit (wfOf f.d)
        | .error (c, b) => s.faultAt c b
      else slotWrite s accStore false a 256 fun s segs => ((s.sectorsOf 4).start w (wfOf f.d)
        (.store { sw := false, va := wd a, left := piecesAt segs a (laneRuns act a (vBytesOf (vs.getD 1 0))) })).2)
where
  vBytesOf (v : VReg) : List Byte := leBytes 256 v.toNat

/-- The addresses of the active elements of a gather or scatter, in ascending element number (R211). -/
def elemAddrs (act : Word) (base idx : VReg) : List (Nat × Nat) :=
  (List.range 64).filterMap fun k =>
    if act.getLsbD k then some (k, (vAddr base + (BitVec.ofNat 32 (lane idx k)).signExtend 64 * 4).toNat) else none

/-- The fault of one element's access before its data (R211, R243, R291; log entry 20 for its alignment). -/
def elemFault (s : State) (acc : Acc) (a : Nat) : Option (Code × Nat) :=
  if a % 4 ≠ 0 then some (.align, a)
  else match resolve s (s.who s.iss.cid) acc false a 4 with
    | .error e => some e
    | .ok _ => none

/-- The located runs of an element. -/
def elemSegs (s : State) (acc : Acc) (a : Nat) : List Seg :=
  match resolve s (s.who s.iss.cid) acc false a 4 with
  | .ok l => l
  | .error _ => []

/-- The data fault of an element at its home (R275). -/
def elemBad (s : State) (acc : Acc) (a : Nat) : Option (Code × Nat) := (badSeg s 0 (elemSegs s acc a)).map fun p => (p.1, a)

/-- The fault with the lowest element address (R211). -/
def lowest (l : List (Code × Nat)) : Option (Code × Nat) :=
  l.foldl (fun r x => match r with | some y => if x.2 < y.2 then some x else r | none => some x) none

/-- Reads of the elements of a gather: the state, the bytes by element, the faults and the sectors of lines to wait for. -/
def gatherAll (s : State) (win : Word) :
    (l : List (Nat × Nat)) → State × List (Nat × Nat) × List (Code × Nat) × List (Nat × Nat × Nat × Word)
  | [] => (s, [], [], [])
  | (k, a) :: l =>
    let r := l1Read (touchXlat s (s.who s.iss.cid) a 4) (coreOf s.iss.cid) win (elemSegs s accLoad a)
    let t := gatherAll r.1 win l
    match r.2 with
    | .ok bs => (t.1, (k, leNat bs) :: t.2.1, t.2.2)
    | .fault c _ => (t.1, t.2.1, (c, a) :: t.2.2.1, t.2.2.2)
    | .wait l q n => (t.1, t.2.1, t.2.2.1, (l, q, n, win) :: t.2.2.2)

/-- R211. -/
def execVgth (f : VO) (s : State) : Res :=
  .next (vOp s f 4 32 [f.a, f.b] fun s vs =>
    let act := voAct f s
    let l := elemAddrs act (vs.getD 0 0) (vs.getD 1 0)
    withSat s [wfOf f.c] fun w =>
      let bad := l.filterMap fun p => elemFault s accLoad p.2
      if !bad.isEmpty then
        match lowest (bad ++ l.filterMap fun p => elemBad s accLoad p.2) with
        | some (c, a) => s.faultAt c a
        | none => s
      else
        let segs := l.flatMap fun p => elemSegs s accLoad p.2
        let fp := l.flatMap fun p => fillPages s.me p.2 4
        if !fp.isEmpty then s.wait.modIss fun i => { i with fills := i.fills ++ fp }
        else if readBlocked s (coreOf s.iss.cid) w segs then s.wait
        else
          let r := gatherAll s w l
          match lowest r.2.2.1 with
          | some (c, a) => (r.1.faultAt c a).modIss fun i => { i with marks := i.marks ++ elemSegs s accLoad a }
          | none =>
            if !r.2.2.2.isEmpty then r.1.wait.modIss fun i => { i with lines := i.lines ++ r.2.2.2 }
            else
              let v := r.2.1.foldl (fun z p => z + p.2 <<< (32 * p.1)) 0
              landV (r.1.sectorsOf l.length) f s.lat.vld { val := v, mask := laneMask act, fl := 0, gens := [] })

/-- R211. -/
def execVsct (f : VO) (s : State) : Res :=
  .next (vOp s f 4 32 [f.a, f.b, f.c] fun s vs =>
    let l := elemAddrs (voAct f s) (vs.getD 0 0) (vs.getD 1 0)
    let bad := l.filterMap fun p => elemFault s accStore p.2
    if l.isEmpty then s.nullWit (wfOf f.d)
    else match lowest bad with
    | some (c, a) => s.faultAt c a
    | none =>
      let fp := l.flatMap fun p => fillPages s.me p.2 4
      if l.any (fun p => !(heldPages s s.iss.cid p.2 4).isEmpty) then s.waitIdle
      else if !fp.isEmpty then s.wait.modIss fun i => { i with fills := i.fills ++ fp }
      else if noPath s (l.flatMap fun p => elemSegs s accStore p.2) || fusing s (coreOf s.iss.cid) then s.wait
      else
        let s := l.foldl (fun s p => touchXlat s (s.who s.iss.cid) p.2 4) s
        let pieces := l.flatMap fun p => piecesOf (elemSegs s accStore p.2) (leBytes 4 (lane (vs.getD 2 0) p.1))
        ((s.sectorsOf l.length).start 0 (wfOf f.d) (.store { sw := false, va := wd ((l.head?.map (·.2)).getD 0), left := pieces })).2)

/-! ### Ports -/

/-- The checks of a port record (R185) and the latched base (R184); `rel` is bits [63:0] of the register that B names. -/
def portRecord (r : BitVec 512) (rel : Word) : Except Code Port :=
  let x := r.toNat
  let xm := fld x 287 286
  let fw := fld x 264 260 + 1
  let off := fld x 271 265
  let str := fld x 278 272 + 1
  let num := fld x 285 279 + 1
  let per := (fld x 259 256 + 1) * 8
  let base := wd (fld x 63 0) + if r.getLsbD 291 then rel else 0
  if fld x 511 292 ≠ 0 ∨ fld x 289 288 = 3 then .error .illenc
  else if xm = 0 ∧ fld x 285 256 ≠ 0 then .error .illenc
  else if xm ≠ 0 ∧ (pOw r < fw ∨ 2048 / pOw r % num ≠ 0 ∨ per < off + (num - 1) * str + fw ∨ str < fw) then .error .illenc
  else if xm = 3 ∧ fw ≠ 2 then .error .illenc
  else if base.toNat % 8 ≠ 0 ∨ (List.range 4).any (fun l => fld x (95 + 32 * l) (64 + 32 * l) % 8 != 0) then .error .align
  else .ok { conf := true, rcd := r, base := base }

/-- R191. -/
def execPcfg (f : VO) (s : State) : Res :=
  .next (vOp s f 2 32 [f.a] fun s vs =>
    let a := (vAddr (vs.getD 0 0)).toNat
    withSat s [wfOf f.c] fun w => slotRecord s accRec 64 a 64 w fun s r =>
      let go := fun (s : State) (rel : Word) =>
        match portRecord (BitVec.ofNat 512 r) rel with
        | .ok p => s.eff (.port f.file (f.d.toNat - 1536) { p with wit := w })
        | .error c => s.faultB c
      if fld r 291 291 = 1 then readSrc s f.file f.b 32 fun s v => go s (vAddr v) else go s 0)

/-- R192. -/
def execPskip (f : VO) (s : State) : Res :=
  let n := f.d.toNat - 1536
  let s := s.charge 1 0
  let p := s.portNow f.file n
  .next (if !p.conf then s.faultB .illenc
    else s.eff (.port f.file n ((List.range f.c.toNat).foldl (fun (p : Port) _ => { p with pos := (pStep p).2 }) p)))

end Sys2Proof.Machine
end

