-- ==== Sys2Proof/Machine/Dispatch.lean ====
section
/-! DEFINITION. What each instruction does: one arm for each row of the opcode table. -/
namespace Sys2Proof.Machine

/-- The meaning of an instruction, one arm per constructor. -/
def exec (i : Instr) (s : State) : Host.Outcome State Fault Refusal :=
  match i with
  | .nop sl stk => Sys2Proof.Machine.execNop sl stk s
  | .add f => Sys2Proof.Machine.execAdd f s
  | .sub f => Sys2Proof.Machine.execSub f s
  | .mul f => Sys2Proof.Machine.execMul f s
  | .mulh f => Sys2Proof.Machine.execMulh f s
  | .div f => Sys2Proof.Machine.execDiv f s
  | .rem f => Sys2Proof.Machine.execRem f s
  | .min f => Sys2Proof.Machine.execMin f s
  | .max f => Sys2Proof.Machine.execMax f s
  | .and f => Sys2Proof.Machine.execAnd f s
  | .or f => Sys2Proof.Machine.execOr f s
  | .xor f => Sys2Proof.Machine.execXor f s
  | .shl f => Sys2Proof.Machine.execShl f s
  | .shr f => Sys2Proof.Machine.execShr f s
  | .rot f => Sys2Proof.Machine.execRot f s
  | .sel f => Sys2Proof.Machine.execSel f s
  | .addi f => Sys2Proof.Machine.execAddi f s
  | .muli f => Sys2Proof.Machine.execMuli f s
  | .andi f => Sys2Proof.Machine.execAndi f s
  | .ori f => Sys2Proof.Machine.execOri f s
  | .xori f => Sys2Proof.Machine.execXori f s
  | .shli f => Sys2Proof.Machine.execShli f s
  | .shri f => Sys2Proof.Machine.execShri f s
  | .li f => Sys2Proof.Machine.execLi f s
  | .lih f => Sys2Proof.Machine.execLih f s
  | .cmpeq f => Sys2Proof.Machine.execCmpeq f s
  | .cmpne f => Sys2Proof.Machine.execCmpne f s
  | .cmplt f => Sys2Proof.Machine.execCmplt f s
  | .cmple f => Sys2Proof.Machine.execCmple f s
  | .cmpeqi f => Sys2Proof.Machine.execCmpeqi f s
  | .cmpnei f => Sys2Proof.Machine.execCmpnei f s
  | .cmplti f => Sys2Proof.Machine.execCmplti f s
  | .cmplei f => Sys2Proof.Machine.execCmplei f s
  | .kand f => Sys2Proof.Machine.execKand f s
  | .kor f => Sys2Proof.Machine.execKor f s
  | .kxor f => Sys2Proof.Machine.execKxor f s
  | .knot f => Sys2Proof.Machine.execKnot f s
  | .kmovK f => Sys2Proof.Machine.execKmovK f s
  | .kmovToS f => Sys2Proof.Machine.execKmovToS f s
  | .kmovFromS f => Sys2Proof.Machine.execKmovFromS f s
  | .bfx f => Sys2Proof.Machine.execBfx f s
  | .bfi f => Sys2Proof.Machine.execBfi f s
  | .clz f => Sys2Proof.Machine.execClz f s
  | .ctz f => Sys2Proof.Machine.execCtz f s
  | .popc f => Sys2Proof.Machine.execPopc f s
  | .bswap f => Sys2Proof.Machine.execBswap f s
  | .br f => Sys2Proof.Machine.execBr f s
  | .call f => Sys2Proof.Machine.execCall f s
  | .brr f => Sys2Proof.Machine.execBrr f s
  | .callr f => Sys2Proof.Machine.execCallr f s
  | .ret f => Sys2Proof.Machine.execRet f s
  | .loop f => Sys2Proof.Machine.execLoop f s
  | .trap f => Sys2Proof.Machine.execTrap f s
  | .mfsr f => Sys2Proof.Machine.execMfsr f s
  | .mtsr f => Sys2Proof.Machine.execMtsr f s
  | .bari f => Sys2Proof.Machine.execBari f s
  | .barl f => Sys2Proof.Machine.execBarl f s
  | .barv f => Sys2Proof.Machine.execBarv f s
  | .barw f => Sys2Proof.Machine.execBarw f s
  | .barwRearm f => Sys2Proof.Machine.execBarwRearm f s
  | .barwTest f => Sys2Proof.Machine.execBarwTest f s
  | .tret f => Sys2Proof.Machine.execTret f s
  | .tkill f => Sys2Proof.Machine.execTkill f s
  | .ld f => Sys2Proof.Machine.execLd f s
  | .st f => Sys2Proof.Machine.execSt f s
  | .pref f => Sys2Proof.Machine.execPref f s
  | .wb f => Sys2Proof.Machine.execWb f s
  | .inv f => Sys2Proof.Machine.execInv f s
  | .aadd f => Sys2Proof.Machine.execAadd f s
  | .amin f => Sys2Proof.Machine.execAmin f s
  | .amax f => Sys2Proof.Machine.execAmax f s
  | .aand f => Sys2Proof.Machine.execAand f s
  | .aor f => Sys2Proof.Machine.execAor f s
  | .axor f => Sys2Proof.Machine.execAxor f s
  | .aswp f => Sys2Proof.Machine.execAswp f s
  | .acas f => Sys2Proof.Machine.execAcas f s
  | .vjoin f => Sys2Proof.Machine.execVjoin f s
  | .wmrg f => Sys2Proof.Machine.execWmrg f s
  | .wall f => Sys2Proof.Machine.execWall f s
  | .wtst f => Sys2Proof.Machine.execWtst f s
  | .wtstPoisoned f => Sys2Proof.Machine.execWtstPoisoned f s
  | .wtstLanded f => Sys2Proof.Machine.execWtstLanded f s
  | .wwait f => Sys2Proof.Machine.execWwait f s
  | .wrd f => Sys2Proof.Machine.execWrd f s
  | .wset f => Sys2Proof.Machine.execWset f s
  | .exit f => Sys2Proof.Machine.execExit f s
  | .contLabel f => Sys2Proof.Machine.execContLabel f s
  | .contReg f => Sys2Proof.Machine.execContReg f s
  | .budrd f => Sys2Proof.Machine.execBudrd f s
  | .budadd f => Sys2Proof.Machine.execBudadd f s
  | .gjoin f => Sys2Proof.Machine.execGjoin f s
  | .gleave f => Sys2Proof.Machine.execGleave f s
  | .launch f => Sys2Proof.Machine.execLaunch f s
  | .cwait f => Sys2Proof.Machine.execCwait f s
  | .hsig f => Sys2Proof.Machine.execHsig f s
  | .xinv f => Sys2Proof.Machine.execXinv f s
  | .cslotXlat f => Sys2Proof.Machine.execCslotXlat f s
  | .cslotQi f => Sys2Proof.Machine.execCslotQi f s
  | .cslotQm f => Sys2Proof.Machine.execCslotQm f s
  | .cslotPolicy f => Sys2Proof.Machine.execCslotPolicy f s
  | .cslotDump f => Sys2Proof.Machine.execCslotDump f s
  | .cslotDumpack f => Sys2Proof.Machine.execCslotDumpack f s
  | .cslotEvents f => Sys2Proof.Machine.execCslotEvents f s
  | .cslotThyme f => Sys2Proof.Machine.execCslotThyme f s
  | .cslotGroup f => Sys2Proof.Machine.execCslotGroup f s
  | .cslotSched f => Sys2Proof.Machine.execCslotSched f s
  | .cslotT0 f => Sys2Proof.Machine.execCslotT0 f s
  | .cslotRoute f => Sys2Proof.Machine.execCslotRoute f s
  | .cslotWindow f => Sys2Proof.Machine.execCslotWindow f s
  | .cslotCallmax f => Sys2Proof.Machine.execCslotCallmax f s
  | .cslotThaw f => Sys2Proof.Machine.execCslotThaw f s
  | .fdrain f => Sys2Proof.Machine.execFdrain f s
  | .fdrainLock f => Sys2Proof.Machine.execFdrainLock f s
  | .snapAt f => Sys2Proof.Machine.execSnapAt f s
  | .snapAtStep f => Sys2Proof.Machine.execSnapAtStep f s
  | .snapDis f => Sys2Proof.Machine.execSnapDis f s
  | .vadd f => Sys2Proof.Machine.execVadd f s
  | .vsub f => Sys2Proof.Machine.execVsub f s
  | .vmul f => Sys2Proof.Machine.execVmul f s
  | .vfma f => Sys2Proof.Machine.execVfma f s
  | .vfms f => Sys2Proof.Machine.execVfms f s
  | .vfnma f => Sys2Proof.Machine.execVfnma f s
  | .vmax f => Sys2Proof.Machine.execVmax f s
  | .vmin f => Sys2Proof.Machine.execVmin f s
  | .vabs f => Sys2Proof.Machine.execVabs f s
  | .vneg f => Sys2Proof.Machine.execVneg f s
  | .vcpsg f => Sys2Proof.Machine.execVcpsg f s
  | .vexp2 f => Sys2Proof.Machine.execVexp2 f s
  | .vlog2 f => Sys2Proof.Machine.execVlog2 f s
  | .vrcp f => Sys2Proof.Machine.execVrcp f s
  | .vrsqrt f => Sys2Proof.Machine.execVrsqrt f s
  | .vtanh f => Sys2Proof.Machine.execVtanh f s
  | .viadd f => Sys2Proof.Machine.execViadd f s
  | .visub f => Sys2Proof.Machine.execVisub f s
  | .vimul f => Sys2Proof.Machine.execVimul f s
  | .vimad f => Sys2Proof.Machine.execVimad f s
  | .vimax f => Sys2Proof.Machine.execVimax f s
  | .vimin f => Sys2Proof.Machine.execVimin f s
  | .viabs f => Sys2Proof.Machine.execViabs f s
  | .vand f => Sys2Proof.Machine.execVand f s
  | .vor f => Sys2Proof.Machine.execVor f s
  | .vxor f => Sys2Proof.Machine.execVxor f s
  | .vnot f => Sys2Proof.Machine.execVnot f s
  | .vshl f => Sys2Proof.Machine.execVshl f s
  | .vshr f => Sys2Proof.Machine.execVshr f s
  | .vcmpEq f => Sys2Proof.Machine.execVcmpEq f s
  | .vcmpNe f => Sys2Proof.Machine.execVcmpNe f s
  | .vcmpLt f => Sys2Proof.Machine.execVcmpLt f s
  | .vcmpLe f => Sys2Proof.Machine.execVcmpLe f s
  | .vcmpTord f => Sys2Proof.Machine.execVcmpTord f s
  | .vcmpUn f => Sys2Proof.Machine.execVcmpUn f s
  | .vsel f => Sys2Proof.Machine.execVsel f s
  | .vcxc f => Sys2Proof.Machine.execVcxc f s
  | .vcvt f => Sys2Proof.Machine.execVcvt f s
  | .vpack f => Sys2Proof.Machine.execVpack f s
  | .vunpk f => Sys2Proof.Machine.execVunpk f s
  | .vscl f => Sys2Proof.Machine.execVscl f s
  | .vqmx f => Sys2Proof.Machine.execVqmx f s
  | .vseed f => Sys2Proof.Machine.execVseed f s
  | .vperm f => Sys2Proof.Machine.execVperm f s
  | .vbcast f => Sys2Proof.Machine.execVbcast f s
  | .vzip f => Sys2Proof.Machine.execVzip f s
  | .vuzp f => Sys2Proof.Machine.execVuzp f s
  | .vrsum f => Sys2Proof.Machine.execVrsum f s
  | .vrmax f => Sys2Proof.Machine.execVrmax f s
  | .vrmin f => Sys2Proof.Machine.execVrmin f s
  | .vramax f => Sys2Proof.Machine.execVramax f s
  | .virsum f => Sys2Proof.Machine.execVirsum f s
  | .vmov f => Sys2Proof.Machine.execVmov f s
  | .xmvVec f => Sys2Proof.Machine.execXmvVec f s
  | .xmvPred f => Sys2Proof.Machine.execXmvPred f s
  | .xmvToS f => Sys2Proof.Machine.execXmvToS f s
  | .xmvFromS f => Sys2Proof.Machine.execXmvFromS f s
  | .xmvToC f => Sys2Proof.Machine.execXmvToC f s
  | .xmvPredToS f => Sys2Proof.Machine.execXmvPredToS f s
  | .vld f => Sys2Proof.Machine.execVld f s
  | .vst f => Sys2Proof.Machine.execVst f s
  | .vgth f => Sys2Proof.Machine.execVgth f s
  | .vsct f => Sys2Proof.Machine.execVsct f s
  | .pcfg f => Sys2Proof.Machine.execPcfg f s
  | .pskip f => Sys2Proof.Machine.execPskip f s
  | .qand f => Sys2Proof.Machine.execQand f s
  | .qor f => Sys2Proof.Machine.execQor f s
  | .qxor f => Sys2Proof.Machine.execQxor f s
  | .qnot f => Sys2Proof.Machine.execQnot f s
  | .qsetNone f => Sys2Proof.Machine.execQsetNone f s
  | .qsetAll f => Sys2Proof.Machine.execQsetAll f s
  | .qsetFirst f => Sys2Proof.Machine.execQsetFirst f s
  | .qsetNz f => Sys2Proof.Machine.execQsetNz f s
  | .mma f => Sys2Proof.Machine.execMma f s
  | .mmaz f => Sys2Proof.Machine.execMmaz f s
  | .tdld f => Sys2Proof.Machine.execTdld f s
  | .tdsetAdd f => Sys2Proof.Machine.execTdsetAdd f s
  | .tdsetLo f => Sys2Proof.Machine.execTdsetLo f s
  | .tdsetHi f => Sys2Proof.Machine.execTdsetHi f s
  | .tdsetKorg f => Sys2Proof.Machine.execTdsetKorg f s
  | .tdsetShape f => Sys2Proof.Machine.execTdsetShape f s
  | .tdsetStride f => Sys2Proof.Machine.execTdsetStride f s
  | .tdsetView f => Sys2Proof.Machine.execTdsetView f s
  | .mscl f => Sys2Proof.Machine.execMscl f s
  | .mdrn f => Sys2Proof.Machine.execMdrn f s
  | .mst f => Sys2Proof.Machine.execMst f s
  | .mld f => Sys2Proof.Machine.execMld f s
  | .mzero f => Sys2Proof.Machine.execMzero f s
  | .mmov f => Sys2Proof.Machine.execMmov f s
  | .cp f => Sys2Proof.Machine.execCp f s
  | .cps f => Sys2Proof.Machine.execCps f s
  | .mcst f => Sys2Proof.Machine.execMcst f s
  | .gld f => Sys2Proof.Machine.execGld f s
  | .pgret f => Sys2Proof.Machine.execPgret f s
  | .pgrel f => Sys2Proof.Machine.execPgrel f s
  | .pgwb f => Sys2Proof.Machine.execPgwb f s
  | .l2pf f => Sys2Proof.Machine.execL2pf f s
  | .l2wb f => Sys2Proof.Machine.execL2wb f s
  | .l2inv f => Sys2Proof.Machine.execL2inv f s
  | .pub f => Sys2Proof.Machine.execPub f s
  | .decl f => Sys2Proof.Machine.execDecl f s
  | .scfgLand f => Sys2Proof.Machine.execScfgLand f s
  | .scfgUnland f => Sys2Proof.Machine.execScfgUnland f s
  | .scfgMbox f => Sys2Proof.Machine.execScfgMbox f s
  | .scfgLimits f => Sys2Proof.Machine.execScfgLimits f s
  | .scfgClass f => Sys2Proof.Machine.execScfgClass f s
  | .scfgPace f => Sys2Proof.Machine.execScfgPace f s
  | .scfgRead f => Sys2Proof.Machine.execScfgRead f s
  | .walk f => Sys2Proof.Machine.execWalk f s
  | .permit f => Sys2Proof.Machine.execPermit f s
  | .rtset f => Sys2Proof.Machine.execRtset f s
  | .rtrel f => Sys2Proof.Machine.execRtrel f s
  | .fst f => Sys2Proof.Machine.execFst f s
  | .fmst f => Sys2Proof.Machine.execFmst f s
  | .tkget f => Sys2Proof.Machine.execTkget f s
  | .tkwait f => Sys2Proof.Machine.execTkwait f s
  | .tkdone f => Sys2Proof.Machine.execTkdone f s
  | .rslot f => Sys2Proof.Machine.execRslot f s
  | .rsto f => Sys2Proof.Machine.execRsto f s
  | .shcp f => Sys2Proof.Machine.execShcp f s
  | .shdrn f => Sys2Proof.Machine.execShdrn f s
  | .partReset => Sys2Proof.Machine.execPartReset s
  | .firmwareVerify => Sys2Proof.Machine.execFirmwareVerify s
  | .clusterStart => Sys2Proof.Machine.execClusterStart s
  | .powerRampStep => Sys2Proof.Machine.execPowerRampStep s
  | .acceptStarts => Sys2Proof.Machine.execAcceptStarts s
  | .spdmGetVersion => Sys2Proof.Machine.execSpdmGetVersion s
  | .spdmGetCapabilities => Sys2Proof.Machine.execSpdmGetCapabilities s
  | .spdmNegotiateAlgorithms => Sys2Proof.Machine.execSpdmNegotiateAlgorithms s
  | .spdmGetDigests => Sys2Proof.Machine.execSpdmGetDigests s
  | .spdmGetCertificate => Sys2Proof.Machine.execSpdmGetCertificate s
  | .spdmChallenge => Sys2Proof.Machine.execSpdmChallenge s
  | .spdmGetMeasurements => Sys2Proof.Machine.execSpdmGetMeasurements s
  | .envelopeSelect => Sys2Proof.Machine.execEnvelopeSelect s
  | .accountingPeriodStart => Sys2Proof.Machine.execAccountingPeriodStart s
  | .powerGrantDecision => Sys2Proof.Machine.execPowerGrantDecision s
  | .matrixBlockPowerRequest => Sys2Proof.Machine.execMatrixBlockPowerRequest s
  | .dillCommit => Sys2Proof.Machine.execDillCommit s
  | .dillRead => Sys2Proof.Machine.execDillRead s
  | .temperatureSample => Sys2Proof.Machine.execTemperatureSample s
  | .mgmtAssignCore => Sys2Proof.Machine.execMgmtAssignCore s
  | .mgmtSetThymeIfc => Sys2Proof.Machine.execMgmtSetThymeIfc s
  | .mgmtSetGroup => Sys2Proof.Machine.execMgmtSetGroup s
  | .mgmtSetFabricItems => Sys2Proof.Machine.execMgmtSetFabricItems s
  | .mgmtSetQuantumCeiling => Sys2Proof.Machine.execMgmtSetQuantumCeiling s
  | .entryWrite => Sys2Proof.Machine.execEntryWrite s
  | .registerWrite => Sys2Proof.Machine.execRegisterWrite s
  | .bundleIssue => Sys2Proof.Machine.execBundleIssue s
  | .bundleCommit => Sys2Proof.Machine.execBundleCommit s
  | .yieldBundle => Sys2Proof.Machine.execYieldBundle s
  | .resultLanding => Sys2Proof.Machine.execResultLanding s
  | .asyncFaultDelivery => Sys2Proof.Machine.execAsyncFaultDelivery s
  | .hangDetect => Sys2Proof.Machine.execHangDetect s
  | .ephemeralExpiry => Sys2Proof.Machine.execEphemeralExpiry s
  | .refreshCycle => Sys2Proof.Machine.execRefreshCycle s
  | .launchEnqueue => Sys2Proof.Machine.execLaunchEnqueue s
  | .heldEntryPlace => Sys2Proof.Machine.execHeldEntryPlace s
  | .startWitnessSatisfied => Sys2Proof.Machine.execStartWitnessSatisfied s
  | .admission => Sys2Proof.Machine.execAdmission s
  | .schedulerPick => Sys2Proof.Machine.execSchedulerPick s
  | .priorityAging => Sys2Proof.Machine.execPriorityAging s
  | .contextWake => Sys2Proof.Machine.execContextWake s
  | .budgetTopupApply => Sys2Proof.Machine.execBudgetTopupApply s
  | .exitQueueRetry => Sys2Proof.Machine.execExitQueueRetry s
  | .evictionSaveDone => Sys2Proof.Machine.execEvictionSaveDone s
  | .portChunkArrival => Sys2Proof.Machine.execPortChunkArrival s
  | .msclLanding => Sys2Proof.Machine.execMsclLanding s
  | .mmaPerform => Sys2Proof.Machine.execMmaPerform s
  | .engineFault => Sys2Proof.Machine.execEngineFault s
  | .mdrnPerform => Sys2Proof.Machine.execMdrnPerform s
  | .mstPerform => Sys2Proof.Machine.execMstPerform s
  | .mldPerform => Sys2Proof.Machine.execMldPerform s
  | .tileOpPerform => Sys2Proof.Machine.execTileOpPerform s
  | .l1Fill => Sys2Proof.Machine.execL1Fill s
  | .l1LineExpiry => Sys2Proof.Machine.execL1LineExpiry s
  | .l1ModeChange => Sys2Proof.Machine.execL1ModeChange s
  | .l2Fill => Sys2Proof.Machine.execL2Fill s
  | .storePerform => Sys2Proof.Machine.execStorePerform s
  | .atomicPerform => Sys2Proof.Machine.execAtomicPerform s
  | .translationWalk => Sys2Proof.Machine.execTranslationWalk s
  | .pageRefillComplete => Sys2Proof.Machine.execPageRefillComplete s
  | .copyStart => Sys2Proof.Machine.execCopyStart s
  | .copyTileComplete => Sys2Proof.Machine.execCopyTileComplete s
  | .copyComplete => Sys2Proof.Machine.execCopyComplete s
  | .mcstBranchArrival => Sys2Proof.Machine.execMcstBranchArrival s
  | .l2RangeComplete => Sys2Proof.Machine.execL2RangeComplete s
  | .groupJoinArrival => Sys2Proof.Machine.execGroupJoinArrival s
  | .gldRequestArrival => Sys2Proof.Machine.execGldRequestArrival s
  | .gldHoldEntryFreed => Sys2Proof.Machine.execGldHoldEntryFreed s
  | .holdTimerExpiry => Sys2Proof.Machine.execHoldTimerExpiry s
  | .trailingEntryTimeout => Sys2Proof.Machine.execTrailingEntryTimeout s
  | .groupFillComplete => Sys2Proof.Machine.execGroupFillComplete s
  | .barrierArrival => Sys2Proof.Machine.execBarrierArrival s
  | .witnessCollapse => Sys2Proof.Machine.execWitnessCollapse s
  | .noticeArrival => Sys2Proof.Machine.execNoticeArrival s
  | .noticeResend => Sys2Proof.Machine.execNoticeResend s
  | .retentionAnswer => Sys2Proof.Machine.execRetentionAnswer s
  | .retentionTimeout => Sys2Proof.Machine.execRetentionTimeout s
  | .pullStart => Sys2Proof.Machine.execPullStart s
  | .autoDecline => Sys2Proof.Machine.execAutoDecline s
  | .pullRead => Sys2Proof.Machine.execPullRead s
  | .pullComplete => Sys2Proof.Machine.execPullComplete s
  | .walkTileMove => Sys2Proof.Machine.execWalkTileMove s
  | .thymeRevolution => Sys2Proof.Machine.execThymeRevolution s
  | .meshCrcReplay => Sys2Proof.Machine.execMeshCrcReplay s
  | .chiveMessageArrival => Sys2Proof.Machine.execChiveMessageArrival s
  | .chiveResendTimeout => Sys2Proof.Machine.execChiveResendTimeout s
  | .linkCrcRetry => Sys2Proof.Machine.execLinkCrcRetry s
  | .linkDown => Sys2Proof.Machine.execLinkDown s
  | .linkDownFlitReceipt => Sys2Proof.Machine.execLinkDownFlitReceipt s
  | .circuitSlotBoundary => Sys2Proof.Machine.execCircuitSlotBoundary s
  | .fabricRequestDepart => Sys2Proof.Machine.execFabricRequestDepart s
  | .windowEnd => Sys2Proof.Machine.execWindowEnd s
  | .closeMarkerReceipt => Sys2Proof.Machine.execCloseMarkerReceipt s
  | .windowTimeout => Sys2Proof.Machine.execWindowTimeout s
  | .fabricRequestArrival => Sys2Proof.Machine.execFabricRequestArrival s
  | .fabricReplyArrival => Sys2Proof.Machine.execFabricReplyArrival s
  | .retransmitTimeout => Sys2Proof.Machine.execRetransmitTimeout s
  | .replyCacheExpiry => Sys2Proof.Machine.execReplyCacheExpiry s
  | .ticketCall => Sys2Proof.Machine.execTicketCall s
  | .ticketTimeout => Sys2Proof.Machine.execTicketTimeout s
  | .switchMulticastSplit => Sys2Proof.Machine.execSwitchMulticastSplit s
  | .reductionSlotAlloc => Sys2Proof.Machine.execReductionSlotAlloc s
  | .reductionContribution => Sys2Proof.Machine.execReductionContribution s
  | .reductionTimeout => Sys2Proof.Machine.execReductionTimeout s
  | .reductionResultWrite => Sys2Proof.Machine.execReductionResultWrite s
  | .drainMarkerReceipt => Sys2Proof.Machine.execDrainMarkerReceipt s
  | .circuitSwitch => Sys2Proof.Machine.execCircuitSwitch s
  | .relock => Sys2Proof.Machine.execRelock s
  | .remoteNoticeForward => Sys2Proof.Machine.execRemoteNoticeForward s
  | .markedPageWrite => Sys2Proof.Machine.execMarkedPageWrite s
  | .bayDrainPage => Sys2Proof.Machine.execBayDrainPage s
  | .snapshotComplete => Sys2Proof.Machine.execSnapshotComplete s
  | .supplyDroop => Sys2Proof.Machine.execSupplyDroop s
  | .writePerformedInBothViews => Sys2Proof.Machine.execWritePerformedInBothViews s
  | .fabricStoreSourceRead => Sys2Proof.Machine.execFabricStoreSourceRead s
  | .ticketRequestArrival => Sys2Proof.Machine.execTicketRequestArrival s

end Sys2Proof.Machine
end

