-- ==== Sys2Proof/Machine/Turn.lean ====
section
/-! DEFINITION. Turns: a dynamic bundle run from issue to commit, the step of an engine, what follows either, and the turn that
the part takes when its agenda is empty (R24, R57–R59, R67, R103, R249, R314; log entry 1). -/
namespace Sys2Proof.Machine

/-- A result passed on, or a stop. -/
def andThen (r : Res) (f : State → Res) : Res :=
  match r with
  | .next s => f s
  | .fault e => .fault e
  | .refused e => .refused e

/-! ### A bundle -/

/-- The slots of a bundle in PRES order, each executed in its place and held to the limit on results in flight (R57, R58, R378). -/
def runSlots : (l : List (Slot × Nat × Instr)) → (s : State) → Res
  | [], s => .next s
  | (sl, j, i) :: l, s =>
    andThen (exec i { s with iss := { s.iss with cur := sl, j := j } }) fun s => runSlots l (checkQueue s)

/-- A dynamic bundle of the context that operand `a` names: issue, slots, commit, and its yield (R57–R59, R67). -/
def runBundle (s : State) : Res :=
  andThen (exec .bundleIssue s) fun s => andThen (runSlots s.iss.todo s) fun s => andThen (exec .bundleCommit s) fun s =>
    if (s.ctx s.arg.a).yield.isSome || (s.ctx s.arg.a).returning then exec .yieldBundle s else .next s

/-- What a turn does: a bundle, or one step of an engine or an outside agent. A slot instruction has no turn of its own (R57). -/
def runEvent (i : Instr) (s : State) : Res :=
  match i with
  | .bundleIssue => runBundle s
  | i => if (encode i).isSome then .next s else exec i s

/-! ### What follows a turn -/

/-- An old-generation request of an interface that an invalidation still waits for (R314). -/
def oldRequest (ifc id : Nat) (x : Op) : Bool :=
  decide (x.id < id) && x.own.ifc == ifc && match x.kind with
    | .store _ | .atomic _ | .wb _ | .m _ | .mscl .. | .rsto _ => true
    | .gld x => !x.read
    | _ => false

/-- An old-generation request has left the part (R314). -/
def leftPart (x : Op) : Bool :=
  match x.kind with
  | .store y => y.left.any (·.loc.isGlob)
  | .atomic y => y.loc.isGlob
  | .rsto _ => true
  | _ => false

/-- An invalidation looked at (R314): its witness is written once every request translated before it has been accepted. -/
def settleXinv (s : State) (o : Op) : State :=
  match o.kind with
  | .xinv g far =>
    let l := s.ops.filter (oldRequest o.own.ifc o.id)
    let far := far || l.any leftPart
    if l.isEmpty then s.finish o (wMerge (mkWit (if far then 3 else 2) false false s.tick) o.win) else s.setOp o.id (.xinv g far)
  | _ => s

/-- What follows every turn: invalidations that end, tiles and pages that nothing uses any more, and conditions that now hold (R109,
R115, R249, R314). -/
def settle (s : State) : State :=
  let s := dropTiles (s.ops.foldl settleXinv s)
  let s := s.stations.foldl (fun s (p : Nat × Station) => if p.2.defer.isEmpty then s else sweepPages s p.1) s
  noteMet (noteWaits s) fun _ => s.tick

/-- One turn: time passes, and its step happens. -/
def runTurn (t : Turn) (s : State) : Res :=
  andThen (runEvent t.ev { passTime s t.dt with arg := t.arg }) fun s => .next (settle s)

/-! ### The part on its own -/

/-- A step that may happen. -/
abbrev May := Instr × EvArg

/-- A step on up to two numbered things. -/
def may (i : Instr) (a : Nat) (b : Nat := 0) (flag : Bool := false) : May := (i, { a := a, b := b, flag := flag })

/-- The steps of an operation in flight. -/
def opMays (o : Op) : List May :=
  let one := fun (l : List Instr) => l.map fun i => may i o.id
  match o.kind with
  | .store _ => one [.storePerform, .markedPageWrite]
  | .atomic _ => one [.atomicPerform, .markedPageWrite]
  | .wb _ | .l2range .. => one [.l2RangeComplete]
  | .copy _ => one [.copyStart, .copyTileComplete, .copyComplete, .markedPageWrite]
  | .mcst x => one [.copyStart] ++ x.br.map (fun b => may .mcstBranchArrival o.id b.idx) ++ one [.copyComplete]
  | .join .. => one [.groupJoinArrival]
  | .gld _ => one [.gldRequestArrival, .groupFillComplete]
  | .barv .. => one [.barrierArrival]
  | .m _ => one [.engineFault, .mmaPerform, .mdrnPerform, .mstPerform, .mldPerform, .tileOpPerform, .markedPageWrite]
  | .mscl .. => one [.engineFault, .msclLanding]
  | .notice n => one [.noticeArrival, .noticeResend, .remoteNoticeForward] ++ [may .autoDecline (cidStation n.cons) o.id]
  | .answer .. => one [.retentionAnswer]
  | .pull _ => one [.pullRead, .pullComplete]
  | .fst _ => one [.fabricStoreSourceRead]
  | .rsto _ => one [.fabricStoreSourceRead, .reductionContribution, .markedPageWrite, .reductionResultWrite]
  | .tkget .. | .tkwait .. | .tkdone .. => one [.ticketRequestArrival]
  | .rslot _ => one [.reductionSlotAlloc]
  | .enqueue .. => one [.launchEnqueue]
  | .topup .. => one [.budgetTopupApply]
  | .walkWit .. => one [.markedPageWrite]
  | .rload .. => one [.l1Fill]
  | .retention .. | .xinv .. | .snap _ | .drain _ => []

/-- The steps of one vector file of a context. -/
def fileMays (cid : Nat) (f : Bool) (v : VFile) : List May :=
  v.eph.map (fun p => may .ephemeralExpiry cid p.1 f) ++ v.ports.map (fun p => may .portChunkArrival cid p.1 f)

/-- The steps of a context. -/
def ctxMays (p : Nat × Ctx) : List May :=
  [may .asyncFaultDelivery p.1, may .yieldBundle p.1, may .contextWake p.1, may .exitQueueRetry p.1, may .evictionSaveDone p.1,
   may .hangDetect p.1] ++ p.2.refill.map (may .pageRefillComplete p.1 ·) ++ fileMays p.1 false p.2.v0 ++ fileMays p.1 true p.2.v1

/-- The steps of a core; one that passes to another interface schedules no more (R409). -/
def coreMays (p : Nat × Core) : List May :=
  (p.2.queue.filter (·.pend)).map (fun q => may .startWitnessSatisfied p.1 q.id) ++ [may .admission p.1] ++
  (if p.2.moving.isSome then [may .mgmtAssignCore p.1] else [may .schedulerPick p.1]) ++
  [may .priorityAging p.1, may .matrixBlockPowerRequest p.1] ++ p.2.ret.map (fun r => may .retentionTimeout p.1 r.1)

/-- The steps of a station. -/
def stationMays (p : Nat × Station) : List May :=
  [may .pullStart p.1, may .l1ModeChange p.1] ++ (List.range 4).map (may .walkTileMove p.1 ·) ++
  (p.2.orphans.filter (·.asked)).map fun x => may .pageRefillComplete p.1 x.phys true

/-- The steps of an optical port. -/
def portMays (p : Nat × FPort) : List May :=
  [may .ticketCall p.1, may .replyCacheExpiry p.1, may .circuitSlotBoundary p.1] ++ p.2.tickets.map fun t => may .ticketTimeout p.1 t.num

/-- The steps of start-up and of the dies (R333, R438, R440, R446). -/
def platMays (s : State) : List May :=
  [(.firmwareVerify, { list := s.plat.image.map BitVec.toNat }), may .clusterStart 0, may .powerRampStep 0, may .acceptStarts s.tick] ++
  (List.range 4).flatMap (fun d => [may .accountingPeriodStart d, may .powerGrantDecision d, may .thymeRevolution d]) ++
  [may .windowEnd 0, may .dillCommit 0]

/-- The steps of interfaces, hold entries, queues and switches. -/
def unitMays (s : State) : List May :=
  s.ifcs.flatMap (fun p => [may .entryWrite p.1 0 true, may .bayDrainPage p.1, may .snapshotComplete p.1]) ++
  s.holds.flatMap (fun h => [may .holdTimerExpiry h.id, may .trailingEntryTimeout h.id, may .gldHoldEntryFreed h.slice]) ++
  s.heldQ.map (fun q => may .heldEntryPlace q.id) ++ s.chive.flatMap (fun m => [may .chiveMessageArrival m.id, may .chiveResendTimeout m.id]) ++
  s.fab.sends.flatMap (fun m => [may .fabricRequestDepart m.id, may .retransmitTimeout m.id, may .switchMulticastSplit m.id]) ++
  s.fab.red.map (fun r => may .reductionTimeout r.1) ++ s.views.map (fun v => may .writePerformedInBothViews v.id) ++
  (s.ops.filter fun o => (winTimedOut s o.win).isSome).map fun o => may .windowTimeout (wWindow s o.win)

/-- Every step that the part may take on its own. -/
def mays (s : State) : List May :=
  platMays s ++ s.ops.flatMap opMays ++ unitMays s ++ s.ctxs.flatMap ctxMays ++ s.cores.flatMap coreMays ++
  s.stations.flatMap stationMays ++ s.fab.ports.flatMap portMays

/-- A step that changes the state now. -/
def enabled (s : State) (m : May) : Bool :=
  match exec m.1 { s with arg := m.2 } with
  | .next t => decide ({ t with arg := s.arg } ≠ s)
  | _ => true

/-- A list from its k-th element round to the one before. -/
def turned {α : Type} (k : Nat) (l : List α) : List α := l.drop (k % l.length) ++ l.take (k % l.length)

/-- A step of an engine or agent that is enabled. -/
def nextEvent (s : State) : Option Turn :=
  ((turned (s.rr / 2) (mays s)).find? (enabled s)).map fun m => { dt := 0, ev := m.1, arg := m.2 }

/-- A context that may issue a bundle. -/
def nextBundle (s : State) : Option Turn :=
  (((turned (s.rr / 2) s.ctxs).map (·.1)).find? (canIssue s)).map fun cid => { dt := 3, ev := .bundleIssue, arg := { a := cid } }

/-- The turn of a part with nothing on its agenda: engines and cores alternate, and each goes round what it may do; a part with
nothing to do waits 1 µs. -/
def defaultTurn (s : State) : Turn :=
  let e := nextEvent s
  let b := nextBundle s
  ((if s.rr % 2 = 0 then e <|> b else b <|> e)).getD { dt := 4000, ev := .resultLanding, arg := { a := 2 ^ 20 } }

/-! ### Placing an instruction -/

/-- An S-slot instruction that only a stream core executes (R55). -/
def streamOnly (i : Instr) : Bool := 0xC0 ≤ i.opcode && i.opcode < 0xD0

/-- The instruction is one of a command stream: its word sits in an S slot and names a stream operation. -/
def forStream (nbits w : Nat) : Bool :=
  match decodeTableWord nbits w with
  | some i => match encode i with
    | some (.s, _) => streamOnly i
    | _ => false
  | none => false

/-- A launch block with every allotment at its greatest and priority 7, whose task may run any instruction (R104). -/
def wholeLb : LaunchBlk :=
  { entry := 0x10000, cont := 0x10000, handler := 0x20000, save := 0x100000, prio := 7, pcnt := 1, pmask := 1, sreg := 64, vp0 := 24,
    vp1 := 24, acc := 8, td := 16, esc := 8, ca0 := 32, ca1 := 32, spp := 8 }

/-- A running task of interface 0 at 64 KiB. -/
def wholeTask (uid : Nat) : Ctx :=
  { st := .running, uid := uid, ifc := 0, tseq := 1, lb := wholeLb, pc := 0x10000, cont := 0x10000, bi := 2 ^ 32 - 1, bm := 2 ^ 40 - 1,
    vpages0 := List.range 24, vpages1 := List.range 24, tiles := List.range 8, tds := List.range 16, pages := (List.range 8).map fun p => { phys := p, st := .present } }

/-- The first gigabyte of interface 0 mapped to HBM for reads, writes and fetches: a level-3 table at 4 KiB and a level-2 table at
8 KiB (R397–R399). -/
def mapFirst (s : State) : State :=
  let s := { s with mem := memPut s.mem 0x1000 (leBytes 8 0x8000000000002000) }
  let s := { s with mem := memPut s.mem 0x2000 (leBytes 8 0xC400000000000000) }
  s.modIfc 0 fun i => { i with xlat := 0x1001 }

/-- A task of interface 0 that a core runs, with its pools taken. -/
def placeTask (s : State) : State :=
  let s := (mapFirst s).modCore 0 fun k =>
    { k with own := some 0, run := some 0, vused0 := List.range 24, vused1 := List.range 24, accUsed := List.range 8,
             tdUsed := List.range 16 }
  let s := s.modStn 0 fun t => { t with used := List.range 8 }
  { s.setCtx 0 (wholeTask s.nextId) with nextId := s.nextId + 1 }

/-- A command stream of interface 0 that runs (R410, R411). -/
def placeStream (s : State) : State :=
  let s := (mapFirst s).modIfc 0 fun i => { i with run := true, entry := 0x10000 }
  { s.setCtx 8192 { st := .running, uid := s.nextId, ifc := 0, pc := 0x10000 } with nextId := s.nextId + 1 }

/-- The bytes of a bundle written where a context fetches. -/
def putBundle (s : State) (cid : Nat) (bs : List Byte) : State :=
  match resolve s (s.who cid) { fetch := true, loc := false } false (s.ctx cid).pc.toNat bs.length with
  | .ok segs => writeSegs s segs bs
  | .error _ => s

/-- A context's next bundle fetches from device memory. -/
def fetches (s : State) (cid : Nat) : Bool :=
  canIssue s cid && (match resolve s (s.who cid) { fetch := true, loc := false } false (s.ctx cid).pc.toNat 16 with
    | .ok _ => true
    | .error _ => false)

/-- The machine about to run one instruction: a context that fetches, placed where none does, with the bundle at its pc and its issue
next on the agenda (log entry 1). -/
def placeWord (s : State) (nbits w : Nat) : State :=
  let stream := forStream nbits w
  let cid := if stream then 8192 else 0
  let s := if fetches s cid then s else if stream then placeStream s else placeTask s
  let s := putBundle s cid (leBytes 16 w)
  { s with agenda := { dt := 3, ev := .bundleIssue, arg := { a := cid } } :: s.agenda }

end Sys2Proof.Machine
end

