-- ==== Sys2Proof/Safety.lean ====
section
/-! DEFINITION. What a safe run is: the memories keep their canonical form and no step stops; what an executed slot leaves
untouched until its bundle commits (R58); and when the inputs of a slot are ready, as conditions on the state and the operands. -/
namespace Sys2Proof.Machine

/-- The four byte memories are in canonical form. -/
def State.MemWf (s : State) : Prop := memWf s.mem = true ∧ memWf s.spad = true ∧ memWf s.ringMem = true ∧ memWf s.hostMem = true

/-- R58: `t` differs from `s` at most in the commit buffer, in the numbers of new operations, and in what loads and translation
walks may change before commit: cached lines, cached translations, and the correctable errors that a read corrected and counted
(R241, R275). -/
structure Held (s t : State) : Prop where
  rest : { t with iss := s.iss, nextId := s.nextId, fresh := s.fresh, l2 := s.l2, cores := s.cores, stations := s.stations,
                  ce := s.ce, spCe := s.spCe, plat := { t.plat with dill := s.plat.dill } } = s
  core : ∀ n, { t.core n with l1 := (s.core n).l1, tlb := (s.core n).tlb } = s.core n
  stn : ∀ n, { t.stn n with tlb := (s.stn n).tlb } = s.stn n

/-- A step stops. -/
def Stops (s : State) : Prop := ∀ t, step s ≠ .next t

/-- A run of `n` steps. -/
def runs : (n : Nat) → (s t : State) → Prop
  | 0, s, t => s = t
  | n + 1, s, t => ∃ u, step s = .next u ∧ runs n u t

/-- A run that never stops and keeps the memories canonical. -/
def Safe (s : State) : Prop := ∀ n t, runs n s t → t.MemWf ∧ ¬ Stops t

/-! ### Integer types -/

/-- The value of the low bits of a register under a TYP code (R45, R134): 0–3 signed, 4–7 unsigned, of 8 to 64 bits. -/
def tyVal (ty : BitVec 3) (v : Word) : Int :=
  if ty = 0 then (v.setWidth 8).toInt else if ty = 1 then (v.setWidth 16).toInt
  else if ty = 2 then (v.setWidth 32).toInt else if ty = 3 then v.toInt
  else if ty = 4 then (v.setWidth 8).toNat else if ty = 5 then (v.setWidth 16).toNat
  else if ty = 6 then (v.setWidth 32).toNat else v.toNat

/-- The low bits of a register extended to 64 under a TYP code (R45, R134). -/
def tyOut (ty : BitVec 3) (v : Word) : Word :=
  if ty = 0 then (v.setWidth 8).signExtend 64 else if ty = 1 then (v.setWidth 16).signExtend 64
  else if ty = 2 then (v.setWidth 32).signExtend 64 else if ty = 3 then v
  else if ty = 4 then (v.setWidth 8).zeroExtend 64 else if ty = 5 then (v.setWidth 16).zeroExtend 64
  else if ty = 6 then (v.setWidth 32).zeroExtend 64 else v

/-- The smallest value of a type (R134). -/
def tyMin (ty : BitVec 3) : Int :=
  if ty = 0 then -2 ^ 7 else if ty = 1 then -2 ^ 15 else if ty = 2 then -2 ^ 31 else if ty = 3 then -2 ^ 63 else 0

/-- The greatest value of a type (R134). -/
def tyMax (ty : BitVec 3) : Int :=
  if ty = 0 then 2 ^ 7 - 1 else if ty = 1 then 2 ^ 15 - 1 else if ty = 2 then 2 ^ 31 - 1 else if ty = 3 then 2 ^ 63 - 1
  else if ty = 4 then 2 ^ 8 - 1 else if ty = 5 then 2 ^ 16 - 1 else if ty = 6 then 2 ^ 32 - 1 else 2 ^ 64 - 1

/-! ### Completion records -/

/-- The sixteen bytes of a completion record (R259): SEQ in bits 63–54 of its first word, COUNT in 53–29, FCODE in 28–21, DROP in 20–13, KIND in
12–9, STAT in 8–6, CH in 5–3 and CTX in 2–0, and then the completion witness. -/
def ringEntry (seq count fcode drop kind stat ch ctx : Nat) (wit : Word) : List Byte :=
  let w0 := BitVec.ofNat 10 seq ++ BitVec.ofNat 25 count ++ BitVec.ofNat 8 fcode ++ BitVec.ofNat 8 drop ++ BitVec.ofNat 4 kind ++
    BitVec.ofNat 3 stat ++ BitVec.ofNat 3 ch ++ BitVec.ofNat 3 ctx
  leBytes 8 w0.toNat ++ leBytes 8 wit.toNat

/-! ### Slots about to execute -/

/-- The predicate of a scalar word holds (R135). -/
def Runs (s : State) (neg : Bool) (k : BitVec 3) : Prop := (if k = 0 then true else s.me.k.getLsbD k.toNat) ≠ neg

/-- Witness inputs as data: none of the registers is pending, and their merge is `w` (R301, R302). -/
def DataReady (s : State) (l : List WF) (w : Word) : Prop :=
  (∀ r ∈ s.wregs l, r.pend = none) ∧ w = ((s.wregs l).map (·.val)).foldl wMerge 0

/-- Witness inputs of a consumer: ready, and not poisoned (R299). -/
def InReady (s : State) (l : List WF) (w : Word) : Prop := DataReady s l w ∧ wPsn w = false

/-- Witness inputs satisfied at the core (R298). -/
def SatReady (s : State) (l : List WF) (w : Word) : Prop := InReady s l w ∧ sat s w = true

/-- A witness held for a destination; the null register takes nothing (R301). -/
def holdW (t : State) (z : WF) (w : Word) : State :=
  match z with
  | some z => t.eff (.wset z.toNat w)
  | none => t

/-- Nothing holds up a read of `len` bytes at `va`, which stand at `segs`: the range and its translation allow it, its pages are
filled, and it need not wait: a path leads there, the L1s keep their mode, L2 has a way, no older store of the context overlaps it, no
copy locks its tiles, and every fill before its witness has ended (R243, R246, R253, R270, R271, R274, R298, R350). -/
structure ReadMay (s : State) (acc : Acc) (va len : Nat) (win : Word) (segs : List Seg) : Prop where
  reach : resolve s (s.who s.iss.cid) acc false va len = .ok segs
  pages : fillPages s.me va len = []
  free : readBlocked s (coreOf s.iss.cid) win segs = false

/-- A read through L1 gives `bs` and leaves `t` (R268, R269). -/
def L1Reads (s : State) (acc : Acc) (va len : Nat) (win : Word) (t : State) (bs : List Byte) : Prop :=
  ∃ segs, ReadMay s acc va len win segs ∧
    l1Read (touchXlat s (s.who s.iss.cid) va len) (coreOf s.iss.cid) win segs = (t, .ok bs)

/-- A read at the homes gives `bs` and leaves `t` (R268). -/
def HomeReads (s : State) (acc : Acc) (va len : Nat) (win : Word) (t : State) (bs : List Byte) : Prop :=
  ∃ segs, ReadMay s acc va len win segs ∧ badSeg (touchXlat s (s.who s.iss.cid) va len) 0 segs = none ∧
    readIn (touchXlat s (s.who s.iss.cid) va len) false win segs = (t, bs)

/-- A record of `len` bytes is aligned and read whole (R9). -/
def RecordReads (s : State) (al va len : Nat) (win : Word) (t : State) (x : Nat) : Prop :=
  va % al = 0 ∧ ∃ bs, HomeReads s accRec va len win t bs ∧ x = leNat bs

/-- Nothing holds up a write of `len` bytes at `va`, which stand at `segs`; `t` has the translations used (R243, R246, R271, R321, R350). -/
structure WriteMay (s : State) (acc : Acc) (va len : Nat) (t : State) (segs : List Seg) : Prop where
  reach : resolve s (s.who s.iss.cid) { acc with wr := true } false va len = .ok segs
  held : heldPages s s.iss.cid va len = []
  pages : fillPages s.me va len = []
  path : noPath s segs = false
  mode : fusing s (coreOf s.iss.cid) = false
  used : t = touchXlat s (s.who s.iss.cid) va len

/-- Launch blocks read and checked one after the other at an `exit` (R127), each with the merged witnesses joined to its start
witness. -/
def BlocksRead (s : State) (w : Word) (l : List Word) (t : State) (bs : List LaunchBlk) : Prop :=
  match l with
  | [] => t = s ∧ bs = []
  | a :: as => ∃ u x bs', RecordReads s 128 a.toNat 128 0 u x ∧ blockOk x = true ∧
      ((blockOf x a).prio = 7 → s.me.lb.prio = 7) ∧ blockViol u s.me.ifc (blockOf x a) = false ∧ BlocksRead u w as t bs' ∧
      bs = { blockOf x a with wstart := wMerge (blockOf x a).wstart w } :: bs'

/-- A pop of port `n` gives `v` and leaves `t` (R188–R190): zeros once the port is exhausted, else the chunk fetched ahead, else a
read through L1. -/
def Pops (s : State) (file : Bool) (n : Nat) (t : State) (v : VReg) : Prop :=
  let p := s.portNow file n
  p.conf = true ∧
  match (pStep p).1 with
  | none => v = 0 ∧ t = s.eff (.port file n { p with pos := (pStep p).2 })
  | some j => ∃ u bs,
      (match p.chunks.find? fun c => c.pos == j && chunkHeld s (coreOf s.iss.cid) c with
        | some c => c.fault = none ∧ u = s ∧ bs = c.bytes
        | none => L1Reads s accPort (pAddr p j) (pBytes p.rcd) p.wit u bs) ∧
      v = BitVec.ofNat 2048 (pOut p.rcd bs).1 ∧
      t = ((let x := u.eff (.port file n { p with pos := (pStep p).2, chunks := p.chunks.filter (·.pos != j) })
        if (pOut p.rcd bs).2 = 0 then x else x.eff (.flags (if file then 1 else 0) ((pOut p.rcd bs).2.zeroExtend 64))).charge 0
          (sectors (pAddr p j) (pBytes p.rcd)))

/-- A vector source reads as `v` and leaves `t` (R43, R168, R170, R173): a register that is neither expired nor bad, a port, `mrow`,
or the bundle immediate. -/
def Source (s : State) (file : Bool) (w : Nat) (x : BitVec 11) (t : State) (v : VReg) : Prop :=
  (x < 1536 ∧ expired s (s.me.vf file) x.toNat = false ∧ (s.me.vf file).badReg x.toNat = false ∧ t = s ∧ v = tget 0 (s.me.vf file).r x.toNat) ∨
  (1536 ≤ x ∧ x < 1544 ∧ Pops s file (x.toNat - 1536) t v) ∨
  (x = 1544 ∧ t = s ∧ v = s.me.mrow) ∨
  (1544 < x ∧ t = s ∧ v = bimmOf s w)

/-- The sources of a vector word read as `vs`, one after the other (R173). -/
def Sources (s : State) (file : Bool) (w : Nat) (l : List (BitVec 11)) (t : State) (vs : List VReg) : Prop :=
  match l with
  | [] => t = s ∧ vs = []
  | x :: xs => ∃ u v vs', Source s file w x u v ∧ Sources u file w xs t vs' ∧ vs = v :: vs'

/-- The real number that a floating value stands for; a NaN or an infinity stands for none and reads 0 here. -/
def FVal.rat (v : FVal) : Rat :=
  match v with
  | .fin neg m e => mkRat ((finDy neg m e).m * 2 ^ e.toNat) (2 ^ (-e).toNat)
  | _ => 0

/-- m · 2^e. -/
def ratOf (m : Nat) (e : Int) : Rat := (FVal.fin false m e).rat

/-- Element `k` of `w` bits of a register, as an integer under a format's signedness (R42, R172). -/
def elVal (sg : Bool) (w : Nat) (v : VReg) (k : Nat) : Int :=
  if sg then (v.extractLsb' (w * k) w).toInt else (v.extractLsb' (w * k) w).toNat

/-- An exact integer result as the bits of an element: held to the format's range with SAT, else its low bits (R179). -/
def elBits (sg sat : Bool) (w : Nat) (r : Int) : Nat :=
  (BitVec.ofInt w (if sat then (if sg then max (-2 ^ (w - 1)) (min (2 ^ (w - 1) - 1) r) else max 0 (min (2 ^ w - 1) r)) else r)).toNat

/-- A result whose mask covers exactly the active lanes, and whose element `k` of `w` bits is `x k` in every active lane (R172). -/
def Lanes (w : Nat) (act : Word) (val mask : Nat) (x : Nat → Nat) : Prop :=
  mask < 2 ^ 2048 ∧ (∀ i, i < 2048 → mask.testBit i = act.getLsbD (i / 32)) ∧
    ∀ k, k < 2048 / w → act.getLsbD (k * w / 32) = true → val / 2 ^ (w * k) % 2 ^ w = x k

/-- A vector result may be written: a write of part of a register needs its old contents (R170, R172). -/
def DestReady (s : State) (f : VO) (mask : Nat) : Prop :=
  BitVec.ofNat 2048 mask = BitVec.allOnes 2048 ∨ expired s (s.me.vf f.file) f.d.toNat = false

/-- A vector result held for its landing, and its flags (R64, R89, R172). -/
def vLands (s : State) (f : VO) (lat val mask : Nat) (fl : Flags) : State :=
  let t := s.eff (.land { dst := .v f.file f.d.toNat, due := s.me.n + lat, val := BitVec.ofNat 2048 val, mask := BitVec.ofNat 2048 mask,
                          eph := f.e })
  if fl = 0 then t else t.eff (.flags (if f.file then 1 else 0) (fl.zeroExtend 64))

/-- The bits of a result as a register of its format holds them: FP6 elements have bits [7:6] zero (R79). -/
def fmtBits (fmt : BitVec 4) (val : Nat) : Nat := if fmt = 13 ∨ fmt = 14 then val &&& fp6Bits.toNat else val

/-- The lines of a tile operand are all reachable and filled (R226, R243, R246). -/
def LinesReady (s : State) (l : List (Nat × Except (Code × Nat) (List Seg))) (len : Nat) : Prop :=
  lineErrs l = [] ∧ ∀ p ∈ l, fillPages s.me p.1 len = []

end Sys2Proof.Machine
end

