-- ==== Sys2Proof/Certificates/Slice0/Obligations.lean ====
section
/-! DEFINITION. The statements for the provers. -/

section
open Sys2Proof Sys2Proof.Machine


/-! ### The scalar slot -/

/-- R134, R137–R139: sums, differences, products without saturation and the bitwise words keep the low bits of the type,
extended; the other bits of the sources do not matter. The result is held for its class's latency, and nothing else is.
Completes: `add`, `sub`, `mul`, `and`, `or`, `xor`, `addi`, `muli`, `andi`, `ori`, `xori`, `li`, `lih`.
R134, R137: a saturating sum, difference or product is the exact result held to the type's range.
Completes: `add`, `sub`, `mul`. -/
def Obligations.ScalarArithmetic : Prop :=
  ((∀ (f : SR) (s : State), Runs s f.kneg f.k →
    let x := s.me.sreg f.a
    let y := s.me.sreg f.b
    (f.fn.getLsbD 0 = false →
      exec (.add f) s = .next ((s.charge 1 0).landS f.d (tyOut f.ty (x + y)) s.lat.salu) ∧
      exec (.sub f) s = .next ((s.charge 1 0).landS f.d (tyOut f.ty (x - y)) s.lat.salu) ∧
      exec (.mul f) s = .next ((s.charge 2 0).landS f.d (tyOut f.ty (x * y)) s.lat.smul)) ∧
    exec (.and f) s = .next ((s.charge 1 0).landS f.d (tyOut f.ty (x &&& y)) s.lat.salu) ∧
    exec (.or f) s = .next ((s.charge 1 0).landS f.d (tyOut f.ty (x ||| y)) s.lat.salu) ∧
    exec (.xor f) s = .next ((s.charge 1 0).landS f.d (tyOut f.ty (x ^^^ y)) s.lat.salu)) ∧
  (∀ (f : SI) (s : State), Runs s f.kneg f.k →
    let x := s.me.sreg f.a
    let y := f.imm.signExtend 64
    exec (.addi f) s = .next ((s.charge 1 0).landS f.d (tyOut f.ty (x + y)) s.lat.salu) ∧
    exec (.muli f) s = .next ((s.charge 2 0).landS f.d (tyOut f.ty (x * y)) s.lat.smul) ∧
    exec (.andi f) s = .next ((s.charge 1 0).landS f.d (tyOut f.ty (x &&& y)) s.lat.salu) ∧
    exec (.ori f) s = .next ((s.charge 1 0).landS f.d (tyOut f.ty (x ||| y)) s.lat.salu) ∧
    exec (.xori f) s = .next ((s.charge 1 0).landS f.d (tyOut f.ty (x ^^^ y)) s.lat.salu) ∧
    exec (.li f) s = .next ((s.charge 1 0).landS f.d (tyOut f.ty y) s.lat.salu) ∧
    exec (.lih f) s = .next ((s.charge 1 0).landS f.d (f.imm.zeroExtend 64 <<< 36 ||| x &&& 0xFFFFFFFFF#64) s.lat.salu))) ∧
  (∀ (f : SR) (s : State), Runs s f.kneg f.k → f.fn.getLsbD 0 = true →
    let x := tyVal f.ty (s.me.sreg f.a)
    let y := tyVal f.ty (s.me.sreg f.b)
    ∀ (i : Instr) (r : Int) (u lat : Nat),
      (i = .add f ∧ r = x + y ∧ u = 1 ∧ lat = s.lat.salu) ∨ (i = .sub f ∧ r = x - y ∧ u = 1 ∧ lat = s.lat.salu) ∨
        (i = .mul f ∧ r = x * y ∧ u = 2 ∧ lat = s.lat.smul) →
      ∃ v : Word, exec i s = .next ((s.charge u 0).landS f.d v lat) ∧ tyOut f.ty v = v ∧
        tyVal f.ty v = max (tyMin f.ty) (min (tyMax f.ty) r))

/-- R137: the high half of a product, quotient and remainder truncated toward zero with no trap, the smaller, the larger, and the
selection by a predicate register.
Completes: `mulh`, `div`, `rem`, `min`, `max`, `sel`. -/
def Obligations.ScalarExact : Prop :=
  ∀ (f : SR) (s : State), Runs s f.kneg f.k →
    let x := tyVal f.ty (s.me.sreg f.a)
    let y := tyVal f.ty (s.me.sreg f.b)
    let w := 8 * 2 ^ (f.ty.toNat % 4)
    ∀ (i : Instr) (r : Int) (u lat : Nat),
      (i = .mulh f ∧ r = x * y / 2 ^ w ∧ u = 2 ∧ lat = s.lat.smul) ∨
        (i = .div f ∧ y ≠ 0 ∧ (f.ty < 4 → x = tyMin f.ty → y ≠ -1) ∧ r = Int.tdiv x y ∧ u = 8 ∧ lat = s.lat.smul) ∨
        (i = .div f ∧ y = 0 ∧ r = (if f.ty < 4 then -1 else 2 ^ w - 1) ∧ u = 8 ∧ lat = s.lat.smul) ∨
        (i = .div f ∧ f.ty < 4 ∧ x = tyMin f.ty ∧ y = -1 ∧ r = x ∧ u = 8 ∧ lat = s.lat.smul) ∨
        (i = .rem f ∧ y ≠ 0 ∧ r = x - y * Int.tdiv x y ∧ u = 8 ∧ lat = s.lat.smul) ∨
        (i = .rem f ∧ y = 0 ∧ r = x ∧ u = 8 ∧ lat = s.lat.smul) ∨
        (i = .min f ∧ r = min x y ∧ u = 1 ∧ lat = s.lat.salu) ∨ (i = .max f ∧ r = max x y ∧ u = 1 ∧ lat = s.lat.salu) ∨
        (i = .sel f ∧ r = (if s.me.kreg f.c.toNat then x else y) ∧ u = 1 ∧ lat = s.lat.salu) →
      ∃ v : Word, exec i s = .next ((s.charge u 0).landS f.d v lat) ∧ tyOut f.ty v = v ∧ tyVal f.ty v = r

/-- R137, R138: shifts and rotates work on the low bits of the type, by an amount modulo the width.
Completes: `shl`, `shr`, `rot`, `shli`, `shri`.
R142, R143: bit fields, counts within the width, and the bytes in reverse order.
Completes: `bfx`, `bfi`, `clz`, `ctz`, `popc`, `bswap`. -/
def Obligations.ShiftsAndBitFields : Prop :=
  ((∀ (f : SR) (s : State), Runs s f.kneg f.k →
    let x := s.me.sreg f.a
    let w := 8 * 2 ^ (f.ty.toNat % 4)
    let n := ((s.me.sreg f.b).extractLsb' 0 6).toNat % w
    exec (.shl f) s = .next ((s.charge 1 0).landS f.d (tyOut f.ty (x <<< n)) s.lat.salu) ∧
    exec (.shr f) s = .next ((s.charge 1 0).landS f.d
      (if f.ty < 4 then (tyOut f.ty x).sshiftRight n else tyOut f.ty x >>> n) s.lat.salu) ∧
    exec (.rot f) s = .next ((s.charge 1 0).landS f.d (tyOut f.ty (((x.setWidth w).rotateLeft n).setWidth 64)) s.lat.salu)) ∧
  (∀ (f : SI) (s : State), Runs s f.kneg f.k → f.imm < 64 →
    let x := s.me.sreg f.a
    let n := f.imm.toNat % (8 * 2 ^ (f.ty.toNat % 4))
    exec (.shli f) s = .next ((s.charge 1 0).landS f.d (tyOut f.ty (x <<< n)) s.lat.salu) ∧
    exec (.shri f) s = .next ((s.charge 1 0).landS f.d
      (if f.ty < 4 then (tyOut f.ty x).sshiftRight n else tyOut f.ty x >>> n) s.lat.salu))) ∧
  (∀ (f : SR) (s : State), Runs s f.kneg f.k →
    let x := s.me.sreg f.a
    let p := f.c.toNat
    let n := f.fn.toNat + 1
    let w := 8 * 2 ^ (f.ty.toNat % 4)
    (p + n ≤ 64 → ∃ v u : Word,
      exec (.bfx f) s = .next ((s.charge 1 0).landS f.d v s.lat.salu) ∧
      (∀ i, i < 64 → v.getLsbD i = if i < n then x.getLsbD (p + i) else decide (f.ty < 4) && x.getLsbD (p + n - 1)) ∧
      exec (.bfi f) s = .next ((s.charge 1 0).landS f.d u s.lat.salu) ∧
      ∀ i, i < 64 → u.getLsbD i = if p ≤ i ∧ i < p + n then (s.me.sreg f.b).getLsbD (i - p) else x.getLsbD i) ∧
    ∃ z t o b : Nat, z ≤ w ∧ t ≤ w ∧
      (∀ i, i < w → w - z ≤ i → x.getLsbD i = false) ∧ (z < w → x.getLsbD (w - 1 - z) = true) ∧
      (∀ i, i < t → x.getLsbD i = false) ∧ (t < w → x.getLsbD t = true) ∧
      o = ((List.range w).filter fun i => x.getLsbD i).length ∧
      (∀ i, i < w → b.testBit i = x.getLsbD (w - 8 - i / 8 * 8 + i % 8)) ∧
      exec (.clz f) s = .next ((s.charge 1 0).landS f.d (BitVec.ofNat 64 z) s.lat.salu) ∧
      exec (.ctz f) s = .next ((s.charge 1 0).landS f.d (BitVec.ofNat 64 t) s.lat.salu) ∧
      exec (.popc f) s = .next ((s.charge 1 0).landS f.d (BitVec.ofNat 64 o) s.lat.salu) ∧
      exec (.bswap f) s = .next ((s.charge 1 0).landS f.d (tyOut f.ty (BitVec.ofNat 64 b)) s.lat.salu))

/-- R140: a compare writes x cc y, signed for .i and unsigned for .n; the immediate forms take the immediate's low bits.
Completes: `cmpeq`, `cmpne`, `cmplt`, `cmple`, `cmpeqi`, `cmpnei`, `cmplti`, `cmplei`.
R141: the predicate instructions, with k0 true (R136).
Completes: `kand`, `kor`, `kxor`, `knot`, `kmovK`, `kmovToS`, `kmovFromS`.
R135: a scalar word whose predicate is false is charged its units and does nothing else: it holds no register write, starts no
access, transfers no control, and raises none of the faults that depend on its operands' values. -/
def Obligations.ComparesAndPredicates : Prop :=
  (((∀ (f : SR) (s : State), Runs s f.kneg f.k →
    let x := tyVal f.ty (s.me.sreg f.a)
    let y := tyVal f.ty (s.me.sreg f.b)
    exec (.cmpeq f) s = .next ((s.charge 1 0).landK f.d (decide (x = y))) ∧
    exec (.cmpne f) s = .next ((s.charge 1 0).landK f.d (decide (x ≠ y))) ∧
    exec (.cmplt f) s = .next ((s.charge 1 0).landK f.d (decide (x < y))) ∧
    exec (.cmple f) s = .next ((s.charge 1 0).landK f.d (decide (x ≤ y)))) ∧
  (∀ (f : SI) (s : State), Runs s f.kneg f.k →
    let x := tyVal f.ty (s.me.sreg f.a)
    let y := tyVal f.ty (f.imm.signExtend 64)
    exec (.cmpeqi f) s = .next ((s.charge 1 0).landK f.d (decide (x = y))) ∧
    exec (.cmpnei f) s = .next ((s.charge 1 0).landK f.d (decide (x ≠ y))) ∧
    exec (.cmplti f) s = .next ((s.charge 1 0).landK f.d (decide (x < y))) ∧
    exec (.cmplei f) s = .next ((s.charge 1 0).landK f.d (decide (x ≤ y))))) ∧
  (∀ (f : SR) (s : State), Runs s f.kneg f.k →
    let k := fun (n : BitVec 6) => n = 0 ∨ s.me.k.getLsbD n.toNat = true
    ∃ t1 t2 t3 t4 t5 t6 t7 : Bool,
      (t1 = true ↔ k f.a ∧ k f.b) ∧ (t2 = true ↔ k f.a ∨ k f.b) ∧ (t3 = true ↔ ¬ (k f.a ↔ k f.b)) ∧ (t4 = true ↔ ¬ k f.a) ∧
      (t5 = true ↔ k f.a) ∧ (t6 = true ↔ k f.a) ∧ (t7 = true ↔ s.me.sreg f.a ≠ 0) ∧
      exec (.kand f) s = .next ((s.charge 1 0).landK f.d t1) ∧
      exec (.kor f) s = .next ((s.charge 1 0).landK f.d t2) ∧
      exec (.kxor f) s = .next ((s.charge 1 0).landK f.d t3) ∧
      exec (.knot f) s = .next ((s.charge 1 0).landK f.d t4) ∧
      exec (.kmovK f) s = .next ((s.charge 1 0).landK f.d t5) ∧
      exec (.kmovToS f) s = .next ((s.charge 1 0).landS f.d (if t6 then 1 else 0) s.lat.salu) ∧
      exec (.kmovFromS f) s = .next ((s.charge 1 0).landK f.d t7))) ∧
  (∀ s : State,
    (∀ f : SR, ¬ Runs s f.kneg f.k →
      (∀ i ∈ ([.add f, .sub f, .min f, .max f, .and f, .or f, .xor f, .shl f, .shr f, .rot f, .sel f, .cmpeq f, .cmpne f, .cmplt f,
        .cmple f, .kand f, .kor f, .kxor f, .knot f, .kmovK f, .kmovToS f, .kmovFromS f, .bfx f, .bfi f, .clz f, .ctz f, .popc f,
        .bswap f, .brr f, .callr f, .ret f, .wmrg f, .wall f, .wtst f, .wtstPoisoned f, .wtstLanded f, .wwait f, .wrd f, .wset f,
        .vjoin f, .barl f, .barv f, .barw f, .barwRearm f, .barwTest f, .tret f, .tkill f] : List Instr),
        exec i s = .next (s.charge 1 0)) ∧
      (∀ i ∈ ([.mul f, .mulh f, .acas f] : List Instr), exec i s = .next (s.charge 2 0)) ∧
      (∀ i ∈ ([.div f, .rem f] : List Instr), exec i s = .next (s.charge 8 0)) ∧
      exec (.exit f) s = .next (s.charge (4 + 4 * (f.fn.extractLsb' 0 3).toNat) 0) ∧
      (∀ i ∈ ([.budadd f, .launch f, .cwait f, .hsig f, .xinv f, .cslotXlat f, .cslotQi f, .cslotQm f, .cslotPolicy f, .cslotDump f,
        .cslotDumpack f, .cslotEvents f, .cslotThyme f, .cslotGroup f, .cslotSched f, .cslotT0 f, .cslotRoute f, .cslotWindow f,
        .cslotCallmax f, .cslotThaw f, .fdrain f, .fdrainLock f, .snapAt f, .snapAtStep f, .snapDis f] : List Instr),
        exec i s = .next (s.charge 0 0)) ∧
      (s.onStream = true ∨ f.a = 0 → exec (.budrd f) s = .next (s.charge 1 0))) ∧
    (∀ f : SI, ¬ Runs s f.kneg f.k →
      (∀ i ∈ ([.addi f, .andi f, .ori f, .xori f, .shli f, .shri f, .li f, .lih f, .cmpeqi f, .cmpnei f, .cmplti f, .cmplei f, .br f,
        .call f, .loop f, .trap f, .bari f, .contLabel f, .contReg f] : List Instr), exec i s = .next (s.charge 1 0)) ∧
      (∀ i ∈ ([.muli f, .gjoin f, .gleave f] : List Instr), exec i s = .next (s.charge 2 0)) ∧
      let n := (f.imm.extractLsb' 0 12).toNat
      (s.onStream = false ∨ n ∈ [0, 1, 2, 3, 4, 5, 0x11, 0x40, 0x41, 0x42, 0x43, 0x44] → exec (.mfsr f) s = .next (s.charge 1 0)) ∧
      (s.onStream = false → n ∈ [0x22, 0x23, 0x24] → exec (.mtsr f) s = .next (s.charge 1 0))) ∧
    ∀ f : SM, ¬ Runs s f.kneg f.k →
      (∀ i ∈ ([.ld f, .st f, .pref f, .wb f, .inv f] : List Instr), exec i s = .next (s.charge 1 0)) ∧
      ∀ i ∈ ([.aadd f, .amin f, .amax f, .aand f, .aor f, .axor f, .aswp f] : List Instr), exec i s = .next (s.charge 2 0))

/-! ### Numbers -/

/-- R84, R86, R88: one rounding into a floating format. Without overflow the result is a finite number of the format: the nearest one,
and the even one of two as near; the one toward zero, upward or downward in the directed modes; NX says that it differs from the exact
value and UF that it is also below the least normal number. An overflow under `rne` is a value that rounds above the largest finite
number, with the exponent unbounded; every overflow sets OF and NX, and gives the largest number where the mode rounds toward zero, under
SAT (with ST) and in the formats without an infinity, and else ±∞, or a NaN with the sign in `.e4m3`. -/
def Obligations.Rounding : Prop :=
  ∀ (n : BitVec 4) (mode : RMode) (sat neg : Bool) (m : Nat) (e : Int), 8 ≤ n → m ≠ 0 →
    let f := ffOf n
    let x := (FVal.fin neg m e).rat
    let top := ratOf f.mm f.me
    let half := ratOf 1 (f.me - 1)
    let r := f.round mode sat neg m e
    let y := (f.decode r.bits).rat
    let past : Prop := r.fl &&& fOF ≠ 0
    let away : Prop := mode = .rne ∨ (mode = .rp ∧ neg = false) ∨ (mode = .rm ∧ neg = true)
    r.bits < 2 ^ f.w ∧
    (mode = .rne → (past ↔ top + half < x.abs ∨ (x.abs = top + half ∧ f.mm % 2 = 1))) ∧
    (¬ past → (∃ k j, f.decode r.bits = .fin neg k j) ∧ (r.fl &&& fNX ≠ 0 ↔ y ≠ x) ∧
      (r.fl &&& fUF ≠ 0 ↔ y ≠ x ∧ y.abs < ratOf 1 f.emin) ∧
      ∀ b g k j, f.decode b = .fin g k j →
        let z := (FVal.fin g k j).rat
        (mode = .rne → (x - y).abs ≤ (x - z).abs ∧ ((x - y).abs = (x - z).abs → z ≠ y → r.bits % 2 = 0)) ∧
        (mode = .rz → y.abs ≤ x.abs ∧ (z.abs ≤ x.abs → z.abs ≤ y.abs)) ∧
        (mode = .rp → x ≤ y ∧ (x ≤ z → y ≤ z)) ∧
        (mode = .rm → y ≤ x ∧ (z ≤ x → z ≤ y))) ∧
    (past → r.fl &&& fNX ≠ 0 ∧ (r.fl &&& fST ≠ 0 ↔ sat = true ∨ 13 ≤ n) ∧
      (sat = true ∨ 13 ≤ n → y = if neg then -top else top) ∧
      (sat = false → n < 13 → (∀ g, mode ≠ .rs g) → (¬ away → y = if neg then -top else top) ∧
        (away → n = 11 → r.bits = f.nanBits neg) ∧ (away → n ≠ 11 → f.decode r.bits = .inf neg)))

/-- R84, R90–R92, R95–R97, R175, R176, R197, R200, R203: what the arithmetic of the slots and of the engine computes before its one
rounding. Sums and products of finite values are exact, an exact zero sum has the sign of R84, and a NaN or an invalid operation gives the
canonical NaN; the comparisons are those of the numbers; each active element of `vadd`, `vsub`, `vmul`, `vfma`, `vcvt` and of a segment
sum is that value rounded once, in its own place; a fold adds the exact scaled sum of a block to the accumulator with one rounding, or the
exact products modulo 2^32; and a block folds so into every cell of the tile.
Log entry 103 is the sign of a zero sum in the groups of R96. -/
def Obligations.ExactArithmetic : Prop :=
  (∀ (rm a b : Bool) (m n : Nat) (e k : Int),
    let x := FVal.fin a m e
    let y := FVal.fin b n k
    (fadd rm x y).2 = 0 ∧ (fmul x y).2 = 0 ∧ (fadd rm x y).1.isNan = false ∧
    (fadd rm x y).1.rat = x.rat + y.rat ∧ (fmul x y).1.rat = x.rat * y.rat ∧ (fmul x y).1.negP = (a != b) ∧
    (x.rat + y.rat = 0 → (fadd rm x y).1.negP = if m = 0 ∧ n = 0 ∧ a = b then a else rm) ∧
    (∀ c p l, (ffma x y (.fin c p l)).1.rat = x.rat * y.rat + (FVal.fin c p l).rat ∧ (ffma x y (.fin c p l)).2 = 0)) ∧
  (∀ (rm : Bool) (x y z : FVal), x.isNan = true ∨ y.isNan = true →
    fadd rm x y = (.nan false false, fIf (x.sig || y.sig) fIV) ∧ fmul x y = (.nan false false, fIf (x.sig || y.sig) fIV) ∧
    (ffma x y z).1 = .nan false false ∧ (ffma z x y).1 = .nan false false) ∧
  (∀ (rm a : Bool) (e : Int), fadd rm (.inf a) (.inf !a) = (.nan false false, fIV) ∧
    ∀ b, fmul (.inf a) (.fin b 0 e) = (.nan false false, fIV) ∧ fmul (.fin b 0 e) (.inf a) = (.nan false false, fIV)) ∧
  (∀ (n : BitVec 4) (mode : RMode) (sat g h : Bool), 8 ≤ n → n < 13 →
    (ffOf n).put mode sat false (.nan g h) = ⟨(ffOf n).nanBits false, fIf g fIV⟩) ∧
  (∀ (n : BitVec 4) (x y : Nat) (a b : Bool) (m k : Nat) (e j : Int), 8 ≤ n →
    (ffOf n).decode x = .fin a m e → (ffOf n).decode y = .fin b k j →
    let u := (FVal.fin a m e).rat
    let v := (FVal.fin b k j).rat
    fcmp (ffOf n) 0 x y = (decide (u = v), 0) ∧ fcmp (ffOf n) 1 x y = (decide (u ≠ v), 0) ∧
    fcmp (ffOf n) 2 x y = (decide (u < v), 0) ∧ fcmp (ffOf n) 3 x y = (decide (u ≤ v), 0)) ∧
  (∀ l : List FVal, (∀ v ∈ l, ∃ a m e, v = .fin a m e) → (fsum l).1.rat = (l.map FVal.rat).foldr (· + ·) 0 ∧ (fsum l).2 = 0) ∧
  (∀ (fmt : BitVec 4) (mode : Nat) (sat : Bool) (act : Word) (gens : List (BitVec 16)) (a b c : VReg) (k : Nat),
    8 ≤ fmt → fmt < 11 → mode < 4 →
    let w := fmtW fmt
    let x := fun (v : VReg) => (ffOf fmt).decode (elem w v k)
    let at' := fun (r : VRes) => (r.val >>> (w * k)) % 2 ^ w
    let out := fun (v : FVal × Flags) => ((ffOf fmt).fin (rmode mode 0) sat v).bits
    let out1 := fun (v : FVal × Flags) => ((ffOf fmt).fin .rne sat v).bits
    k < 2048 / w → activeE act w k = true →
      at' (vArith 0 fmt mode sat act gens a b) = out (fadd (mode == 3) (x a) (x b)) ∧
      at' (vArith 1 fmt mode sat act gens a b) = out (fadd (mode == 3) (x a) (x b).negate) ∧
      at' (vArith 2 fmt mode sat act gens a b) = out (fmul (x a) (x b)) ∧
      at' (vFused 0 fmt sat act a b c) = out1 (ffma (x a) (x b) (x c)) ∧
      at' (vFused 1 fmt sat act a b c) = out1 (ffma (x a) (x b) (x c).negate) ∧
      at' (vFused 2 fmt sat act a b c) = out1 (ffma (x a).negate (x b) (x c))) ∧
  (∀ (src dst : BitVec 4) (mode p : Nat) (sat : Bool) (act : Word) (gens : List (BitVec 16)) (a : VReg) (k : Nat), mode < 4 →
    let ws := fmtW src
    let wd := fmtW dst
    let n := 2048 / max ws wd
    k < n → activeE act (max ws wd) k = true →
      ((vCvt src dst mode p sat act gens a).val >>> (wd * if wd < ws then p * n + k else k)) % 2 ^ wd =
        (convert src dst (rmode mode 0) sat (elem ws a (if ws < wd then p * n + k else k))).bits % 2 ^ wd) ∧
  (∀ (fmt : BitVec 4) (g t n : Nat) (sat : Bool) (act : Word) (a : VReg), 8 ≤ fmt → fmt < 11 → g < 2048 / fmtW fmt / 2 ^ n →
    let xs := ((List.range (2 ^ n)).map (g * 2 ^ n + ·)).filter (activeE act (fmtW fmt))
    ((vRed 0 fmt n t sat act a).val >>> (fmtW fmt * (t + g))) % 2 ^ fmtW fmt =
      ((ffOf fmt).fin .rne sat (fsum (xs.map fun k => (ffOf fmt).decode (elem (fmtW fmt) a k)))).bits) ∧
  (∀ (fa fb : BitVec 4) (xa xb acc : Nat) (a b : List Nat),
    (11 ≤ fa → 11 ≤ fb → xa < 255 → xb < 255 → ∀ da db : List FVal, a.map (ffOf fa).decode = da → b.map (ffOf fb).decode = db →
      (∀ v ∈ (ffOf 8).decode acc :: da ++ db, ∃ g m e, v = .fin g m e) →
      ∃ g m e, (foldElem fa fb xa xb a b acc).1 = ((ffOf 8).round .rne false g m e).bits ∧
        (FVal.fin g m e).rat = ((ffOf 8).decode acc).rat +
          (List.zipWith (fun x y => x.rat * y.rat) da db).foldr (· + ·) 0 * ratOf 1 ((xa : Int) - 127) * ratOf 1 ((xb : Int) - 127)) ∧
    (fa = 0 ∨ fa = 6 → fb = 0 → (foldElem fa fb xa xb a b acc).1 =
      toBits 32 (intOf true 32 acc + (List.zipWith (fun x y => (intElem fa x).1 * (intElem fb y).1) a b).foldr (· + ·) 0))) ∧
  ∀ (fa fb : BitVec 4) (sa sb : List Byte) (ka kb : Nat) (ba bb : List (List Byte)) (tile : Tbl VReg) (base i j : Nat),
    i < ba.length → j < bb.length → bb.length ≤ 64 →
    let cell := fun (z : Tbl VReg) => ((tget 0 z (base + i)).toNat >>> (32 * j)) % 2 ^ 32
    cell (foldBlock fa fb sa sb ka kb ba bb tile base).1 =
      (foldElem fa fb (scaleAt sa (ka % 8 * 128 + i)) (scaleAt sb (kb % 16 * 64 + j)) (blkElems fa (ba.getD i []))
        (blkElems fb (bb.getD j [])) (cell tile)).1

/-! ### Control, special registers, witnesses, barriers -/

/-- R144–R147, R128: the transfers, `trap` and `cont`. A label is a signed offset in words from the bundle; the link is the address
after the bundle; a register target must be a multiple of 8, else the bundle faults `ALIGN`.
Completes: `br`, `call`, `brr`, `callr`, `ret`, `loop`, `trap`, `contLabel`, `contReg`.
R160: in a handler `tret` (once no late result and no scale data of its own are still to come) and `tkill` are held for their
commit; outside one they fault `PRIV`.
Completes: `tret`, `tkill`. -/
def Obligations.ControlTransfers : Prop :=
  ((∀ (f : SI) (s : State), Runs s f.kneg f.k →
    let t := s.charge 1 0
    let target := s.iss.pc + 8 * f.imm.signExtend 64
    let link := s.iss.pc + BitVec.ofNat 64 s.iss.len
    let c := s.me.sreg f.d - 1
    exec (.br f) s = .next (t.eff (.jump target)) ∧
    exec (.call f) s = .next ((t.landS f.d link s.lat.salu).eff (.jump target)) ∧
    (c ≠ 0 → exec (.loop f) s = .next ((t.landS f.d c s.lat.salu).eff (.jump target))) ∧
    (c = 0 → exec (.loop f) s = .next (t.landS f.d c s.lat.salu)) ∧
    exec (.trap f) s = .next (t.eff (.swtrap (f.imm.extractLsb' 0 16).toNat)) ∧
    exec (.contLabel f) s = .next (t.eff (.cont target)) ∧
    let a := s.me.sreg f.a + 8 * f.imm.signExtend 64
    (a.extractLsb' 0 3 = 0 → exec (.contReg f) s = .next (t.eff (.cont a))) ∧
    (a.extractLsb' 0 3 ≠ 0 → exec (.contReg f) s = .next (t.faultAt .align s.iss.pc.toNat))) ∧
  (∀ (f : SR) (s : State), Runs s f.kneg f.k →
    let t := s.charge 1 0
    let a := s.me.sreg f.a
    let link := s.iss.pc + BitVec.ofNat 64 s.iss.len
    (a.extractLsb' 0 3 = 0 →
      exec (.brr f) s = .next (t.eff (.jump a)) ∧ exec (.ret f) s = .next (t.eff (.jump a)) ∧
      exec (.callr f) s = .next ((t.eff (.jump a)).landS f.d link s.lat.salu)) ∧
    (a.extractLsb' 0 3 ≠ 0 → ∀ i ∈ ([.brr f, .ret f, .callr f] : List Instr), exec i s = .next (t.faultAt .align s.iss.pc.toNat)))) ∧
  (∀ (f : SR) (s : State), Runs s f.kneg f.k →
    let t := s.charge 1 0
    (s.me.resume ≠ none →
      ((∀ l ∈ s.me.landing, l.late = none) → scalesOpen s s.owner = false → exec (.tret f) s = .next (t.eff .tret)) ∧
      exec (.tkill f) s = .next (t.eff (.tkill ((s.me.sreg f.a).extractLsb' 0 16).toNat))) ∧
    (s.me.resume = none → ∀ i ∈ ([.tret f, .tkill f] : List Instr), exec i s = .next (t.faultAt .priv s.iss.pc.toNat)))

/-- R148–R151: what `mfsr` reads by register number, for a compute context and for a stream context, once its witness inputs are
satisfied; what `mtsr` clears; and the numbers that fault whatever the predicate is.
Completes: `mfsr`, `mtsr`. -/
def Obligations.SpecialRegisters : Prop :=
  ∀ (f : SI) (s : State),
    let n := (f.imm.extractLsb' 0 12).toNat
    let c := s.me
    let t := s.charge 1 0
    (Runs s f.kneg f.k → ∀ w, SatReady s [wfAt f.imm 12, wfAt f.imm 18] w →
      (s.onStream = false → ∀ v : Word, (n, v) ∈ ([(0x000, BitVec.ofNat 64 (c.bi % 2 ^ 32)), (0x001, BitVec.ofNat 64 (c.bm % 2 ^ 40)),
          (0x002, c.cont), (0x003, c.xpc), (0x004, ctxId s s.iss.cid), (0x005, ctxSt c), (0x010, (s.core (coreOf s.iss.cid)).cap),
          (0x011, BitVec.ofNat 64 s.tick), (0x020, c.mxK), (0x021, c.mxPwr), (0x022, c.mxStat), (0x023, c.v0.stat), (0x024, c.v1.stat),
          (0x040, BitVec.ofNat 64 (c.flt.cls % 8 * 256 + c.flt.code % 256)), (0x041, BitVec.ofNat 64 c.flt.mask), (0x042, c.flt.addr),
          (0x043, BitVec.ofNat 64 c.flt.rep), (0x044, BitVec.ofNat 64 c.flt.cause)] : List (Nat × Word)) →
        exec (.mfsr f) s = .next (t.landS f.d v s.lat.salu)) ∧
      (s.onStream = false → ∀ ch, ch < 8 → n = 0x30 + ch → exec (.mfsr f) s = .next (t.landS f.d (chWp s s.iss.cid ch) s.lat.salu)) ∧
      (s.onStream = true → ∀ v : Word, (n, v) ∈ ([(0, 0xFFFFFFFF), (1, 0xFFFFFFFFFF), (2, 0), (3, 0), (4, ctxId s s.iss.cid), (5, 0),
          (0x11, BitVec.ofNat 64 s.tick), (0x40, BitVec.ofNat 64 (c.flt.cls % 8 * 256 + c.flt.code % 256)),
          (0x41, BitVec.ofNat 64 c.flt.mask), (0x42, c.flt.addr), (0x43, BitVec.ofNat 64 c.flt.rep),
          (0x44, BitVec.ofNat 64 c.flt.cause)] : List (Nat × Word)) →
        exec (.mfsr f) s = .next (t.landS f.d v s.lat.salu))) ∧
    (s.onStream = false → Runs s f.kneg f.k → ∀ r, (n, r) ∈ [(0x22, 2), (0x23, 0), (0x24, 1)] →
      exec (.mtsr f) s = .next (t.eff (.w1c r (s.me.sreg f.a)))) ∧
    (s.onStream = false → n ∉ [0x22, 0x23, 0x24] → exec (.mtsr f) s = .next (s.faultAt .priv s.iss.pc.toNat)) ∧
    (s.onStream = true → n ∈ [0, 1, 2, 3, 4, 5, 0x11, 0x40, 0x41, 0x42, 0x43, 0x44] →
      exec (.mtsr f) s = .next (s.faultAt .priv s.iss.pc.toNat)) ∧
    (s.onStream = true → n ∉ [0, 1, 2, 3, 4, 5, 0x11, 0x40, 0x41, 0x42, 0x43, 0x44] →
      exec (.mfsr f) s = .next (s.faultAt .illenc s.iss.pc.toNat) ∧ exec (.mtsr f) s = .next (s.faultAt .illenc s.iss.pc.toNat))

/-- R302–R307: the witness instructions once their inputs are not pending (for `wwait`: satisfied). A witness tests as satisfied when
it is null, or it is not poisoned, its tick has come and, if it names a window, the close markers are held (R297). The null register
as destination takes nothing.
Completes: `vjoin`, `wmrg`, `wall`, `wtst`, `wtstPoisoned`, `wtstLanded`, `wwait`, `wrd`, `wset`.
R154–R158: arming, arriving on a barrier of the context's own, sending an arrival to the core that a name gives, and reading a
barrier's control word and witness, for which an armed barrier that is not complete makes `barw` wait.
Completes: `bari`, `barl`, `barv`, `barw`, `barwRearm`, `barwTest`. -/
def Obligations.WitnessAndBarrierWords : Prop :=
  (∀ (f : SR) (s : State), Runs s f.kneg f.k →
    let t := s.charge 1 0
    (∀ w, DataReady s [f.wi1, f.wi2] w → exec (.wmrg f) s = .next (holdW t f.wo w)) ∧
    (∀ w, DataReady s [f.wi1] w →
      exec (.wrd f) s = .next (t.landS f.d w s.lat.salu) ∧
      (∀ b : Bool, (b = true ↔ wScope w = 0 ∨ (wPsn w = false ∧ wTick w ≤ s.tick ∧ (wNames s w = true → markersHeld s (wWindow s w) = true))) →
        exec (.wtst f) s = .next (t.landK f.d b)) ∧
      (∀ b : Bool, (b = true ↔ wScope w ≠ 0 ∧ wPsn w = true) → exec (.wtstPoisoned f) s = .next (t.landK f.d b))) ∧
    (∀ b : Bool, (b = true ↔ ∀ r ∈ s.wregs [f.wi1], r.pend = none) → exec (.wtstLanded f) s = .next (t.landK f.d b)) ∧
    (∀ w, SatReady s [f.wi1, f.wi2] w → exec (.wwait f) s = .next t) ∧
    exec (.wset f) s = .next (holdW t f.wo (wNorm (s.me.sreg f.a))) ∧
    ((∀ o ∈ s.ops, storeOpen s.owner o = false) → (f.fn.getLsbD 0 = true → ∀ o ∈ s.ops, copyOpen s.owner o = false) →
      exec (.wall f) s = .next (match f.wo with | some z => t.eff (.wall z.toNat (f.fn.getLsbD 0)) | none => t)) ∧
    ∀ w, SatReady s [f.wi1, f.wi2] w → viewsOpen s s.owner = false → viewsCovered s w = false →
      let v := wMerge w (mkWit 1 false false s.tick)
      exec (.vjoin f) s = .next (match f.wo with | some z => (t.eff (.wset z.toNat v)).eff (.vjoin v) | none => t)) ∧
  ((∀ (f : SI) (s : State), Runs s f.kneg f.k →
    exec (.bari f) s = .next ((s.charge 1 0).eff (.bari f.d.toNat (f.imm.extractLsb' 0 12).toNat))) ∧
  ∀ (f : SR) (s : State), Runs s f.kneg f.k →
    let t := s.charge 1 0
    (∀ w, DataReady s [f.wi1, f.wi2] w →
      exec (.barl f) s = .next (t.eff (.barl f.d.toNat w)) ∧
      let x := (s.me.sreg f.a).toNat
      (fld x 63 58 = s.me.ifc → (s.core (fld x 57 48)).own = some s.me.ifc →
        exec (.barv f) s = .next (t.start w f.wo (.barv (fld x 57 48 * 8 + fld x 47 45) (fld x 63 58) (fld x 39 0) (fld x 44 40) w)).2) ∧
      (fld x 63 58 ≠ s.me.ifc ∨ (s.core (fld x 57 48)).own ≠ some s.me.ifc →
        exec (.barv f) s = .next (t.eff (.viol s.iss.pc)))) ∧
    let b := tget {} s.me.b f.b.toNat
    let r := fun (v : Word) => holdW (t.landS f.d b.control s.lat.salu) f.wo v
    (b.arm = false → exec (.barw f) s = .next (r 0) ∧ exec (.barwRearm f) s = .next (r 0) ∧ exec (.barwTest f) s = .next (r 0)) ∧
    (b.arm = true → b.done = true →
      exec (.barw f) s = .next (r b.w) ∧ exec (.barwRearm f) s = .next ((r b.w).eff (.rearm f.b.toNat)) ∧
      exec (.barwTest f) s = .next (r b.w)) ∧
    (b.arm = true → b.done = false →
      exec (.barwTest f) s = .next (r 0) ∧ exec (.barw f) s = .next t.wait ∧ exec (.barwRearm f) s = .next t.wait))

/-! ### Scalar memory -/

/-- R268, R269, R276: a load of an aligned address whose read is not held up gives the bytes, least significant first, extended by its
type, at the load latency. A misaligned address faults `ALIGN` at that address.
Completes: `ld`. -/
def Obligations.ScalarLoads : Prop :=
  ∀ (f : SM) (s : State), Runs s f.kneg f.k →
    let n := 2 ^ (f.ty.toNat % 4)
    let a := (smAddr s f n).toNat
    (∀ w t bs, a % n = 0 → SatReady s [f.wi1, f.wi2] w → L1Reads (s.charge 1 0) accLoad a n w t bs →
      exec (.ld f) s = .next ((t.charge 0 (sectors a n)).landS f.d (tyOut f.ty (BitVec.ofNat 64 (leNat bs))) s.lat.sld)) ∧
    (a % n ≠ 0 → exec (.ld f) s = .next ((s.charge 1 0).faultAt .align a) ∧ exec (.st f) s = .next ((s.charge 1 0).faultAt .align a))

/-- R276, R278: stores and line controls start what they do at commit; the bytes of a store are the register's low bytes, least
significant first, at the address computed. `pref` asks for its line when nothing holds its read up and L1 lacks some of it, and does
nothing where the line cannot be read; `wb` of a line that may not be written faults at the first byte that may not.
Completes: `st`, `pref`, `wb`, `inv`.
R279–R281: an atomic starts its operation at commit and its old value arrives late; `acas` compares s[B] and stores s[C]. A misaligned
address faults `ALIGN` at that address, and so does no other part of its effect.
Completes: `aadd`, `amin`, `amax`, `aand`, `aor`, `axor`, `aswp`, `acas`. -/
def Obligations.StoresAndAtomics : Prop :=
  (∀ (f : SM) (s : State), Runs s f.kneg f.k →
    let n := 2 ^ (f.ty.toNat % 4)
    let a := (smAddr s f n).toNat
    let line := (smAddr s f 256).toNat / 256 * 256
    (∀ w t segs, a % n = 0 → InReady s [f.wi1, f.wi2] w → WriteMay (s.charge 1 0) accStore a n t segs →
      exec (.st f) s = .next ((t.charge 0 (sectors a n)).start w f.wo
        (.store { sw := false, va := BitVec.ofNat 64 a, left := piecesOf segs (leBytes n (s.me.sreg f.d).toNat) })).2) ∧
    (let u := (s.charge 1 0).charge 0 4;
      let r := resolve u (s.who s.iss.cid) { loc := false, glob := true } false line 256
      (∀ w, SatReady s [f.wi1, f.wi2] w →
        (∀ pa n, r = .ok [⟨.dev pa, n⟩] → readBlocked u (coreOf s.iss.cid) w [⟨.dev pa, n⟩] = false →
          let v := touchXlat u (s.who s.iss.cid) line 256
          (wholeLine v (pa / 256) false w = true → exec (.pref f) s = .next v) ∧
          (wholeLine v (pa / 256) false w = false →
            exec (.pref f) s = .next (v.start w none (.rload (coreOf s.iss.cid) (pa / 256) 0 4 true)).2)) ∧
        (∀ va n, r = .ok [⟨.glob va, n⟩] → readBlocked u (coreOf s.iss.cid) w [⟨.glob va, n⟩] = false →
          (wholeLine u (va / 256) true w = true → exec (.pref f) s = .next u) ∧
          (wholeLine u (va / 256) true w = false →
            exec (.pref f) s = .next (u.start w none (.rload (coreOf s.iss.cid) (va / 256) 0 4 true)).2)) ∧
        (∀ e, r = .error e → exec (.pref f) s = .next u)) ∧
      (∀ pa n, r = .ok [⟨.dev pa, n⟩] → exec (.inv f) s = .next ((s.charge 1 0).eff (.invLine pa false))) ∧
      (∀ va n, r = .ok [⟨.glob va, n⟩] → exec (.inv f) s = .next ((s.charge 1 0).eff (.invLine va true))) ∧
      (∀ e, r = .error e → exec (.inv f) s = .next (s.charge 1 0)) ∧
      ∀ w, InReady s [f.wi1, f.wi2] w →
        (∀ pa n, resolve u (s.who s.iss.cid) { wr := true, loc := false } false line 256 = .ok [⟨.dev pa, n⟩] →
          exec (.wb f) s = .next ((touchXlat u (s.who s.iss.cid) line 256).start w f.wo (.wb pa)).2) ∧
        ∀ e, resolve u (s.who s.iss.cid) { wr := true, loc := false } false line 256 = .error e →
          exec (.wb f) s = .next (u.faultAt e.1 e.2))) ∧
  ((∀ (f : SM) (s : State), Runs s f.kneg f.k →
    let a := s.me.sreg f.base + (f.addr.extractLsb' 0 17).signExtend 64
    let n := 2 ^ (f.ty.toNat % 4)
    ∀ w t g segs, a.toNat % n = 0 → InReady s [f.wi1, f.wi2] w → WriteMay (s.charge 2 0) accStore a.toNat n t (g :: segs) →
      ∀ i fn, (i, fn) ∈ [(Instr.aadd f, 0), (.amin f, 1), (.amax f, 2), (.aand f, 3), (.aor f, 4), (.axor f, 5), (.aswp f, 6)] →
        let u := (t.charge 0 1).start w f.wo
          (.atomic { fn := fn, f := f.addr.getLsbD 17, ty := f.ty, va := a, loc := g.loc, v := s.me.sreg f.d, cmp := 0, reg := f.d.toNat })
        exec i s = .next (u.2.landLateS f.d u.1 s.lat.sld)) ∧
  (∀ (f : SM) (s : State), Runs s f.kneg f.k →
    let a := s.me.sreg f.base + (f.addr.extractLsb' 0 17).signExtend 64
    a.toNat % 2 ^ (f.ty.toNat % 4) ≠ 0 →
      ∀ i ∈ ([.aadd f, .amin f, .amax f, .aand f, .aor f, .axor f, .aswp f] : List Instr),
        exec i s = .next ((s.charge 2 0).faultAt .align a.toNat)) ∧
  (∀ (f : SR) (s : State), Runs s f.kneg f.k → (s.me.sreg f.a).toNat % 2 ^ (f.ty.toNat % 4) ≠ 0 →
    exec (.acas f) s = .next ((s.charge 2 0).faultAt .align (s.me.sreg f.a).toNat)) ∧
  ∀ (f : SR) (s : State), Runs s f.kneg f.k →
    let a := s.me.sreg f.a
    let n := 2 ^ (f.ty.toNat % 4)
    ∀ w t g segs, a.toNat % n = 0 → InReady s [f.wi1, f.wi2] w → WriteMay (s.charge 2 0) accStore a.toNat n t (g :: segs) →
      let u := (t.charge 0 1).start w f.wo
        (.atomic { fn := 7, f := false, ty := f.ty, va := a, loc := g.loc, v := s.me.sreg f.c, cmp := s.me.sreg f.b, reg := f.d.toNat })
      exec (.acas f) s = .next (u.2.landLateS f.d u.1 s.lat.sld))

/-! ### Tasks, budgets and groups -/

/-- R127, R129–R131: `exit` once its successors' blocks have been read and pass; budget reads, of the context's own or of a task of the
stream's interface wherever it is; top-ups; joining and leaving groups.
Completes: `exit`, `budrd`, `budadd`, `gjoin`, `gleave`. -/
def Obligations.TaskWords : Prop :=
  (∀ (f : SR) (s : State), Runs s f.kneg f.k →
    (∀ w t bs, DataReady s [f.wi1, f.wi2] w →
      BlocksRead (s.charge (4 + 4 * (f.fn.extractLsb' 0 3).toNat) 0) w
        (([f.d, f.a, f.b, f.c].take (f.fn.extractLsb' 0 3).toNat).map s.me.sreg) t bs →
      exec (.exit f) s = .next (t.eff (.exit bs))) ∧
    (s.onStream = false → f.a = 0 → ∀ v : Word, (f.fn, v) ∈ ([(0, BitVec.ofNat 64 s.me.bi), (1, BitVec.ofNat 64 s.me.bm),
        (2, ctxSt s.me)] : List (BitVec 6 × Word)) → exec (.budrd f) s = .next ((s.charge 1 0).landS f.d v s.lat.salu)) ∧
    (s.onStream = true → findTask s s.me.ifc (s.me.sreg f.a) = none →
      exec (.budrd f) s = .next ((s.charge 1 0).landS f.d (BitVec.allOnes 64) s.lat.salu) ∧
      exec (.budadd f) s = .next ((s.charge 0 0).landS f.d 1 s.lat.salu)) ∧
    (s.onStream = true → ∀ x, findTask s s.me.ifc (s.me.sreg f.a) = some x → ∀ bi bm st,
      (∀ c, x = .ctx c → bi = (s.ctx c).bi ∧ bm = (s.ctx c).bm ∧ st = ctxSt (s.ctx c)) →
      (∀ q, x = .entry q → bi = q.bi ∧ bm = q.bm ∧ st = entrySt s q) →
      ∀ v : Word, (f.fn, v) ∈ ([(0, BitVec.ofNat 64 bi), (1, BitVec.ofNat 64 bm), (2, st)] : List (BitVec 6 × Word)) →
        exec (.budrd f) s = .next ((s.charge 1 0).landS f.d v s.lat.salu)) ∧
    (s.onStream = true → ∀ x, findTask s s.me.ifc (s.me.sreg f.a) = some x →
      exec (.budadd f) s = .next (((s.charge 0 0).start 0 none (.topup s.me.ifc (fld (s.me.sreg f.a).toNat 39 0)
        (fld (s.me.sreg f.b).toNat 31 0) (fld (s.me.sreg f.c).toNat 39 0))).2.landS f.d 0 s.lat.salu))) ∧
  ∀ (f : SI) (s : State), Runs s f.kneg f.k → joinOpen s = false →
    let t := s.charge 2 0
    let g := (f.imm.extractLsb' 0 8).toNat
    let d := dieOf (coreOf s.iss.cid)
    (allotted s d g s.me.ifc = true →
      let u := t.start 0 none (.join (f.imm.extractLsb' 8 2).toNat g d)
      exec (.gjoin f) s = .next (u.2.landLateS f.d u.1 s.lat.salu)) ∧
    (allotted s d g s.me.ifc = false → exec (.gjoin f) s = .next (t.modIss fun i => { i with viol := some s.iss.pc })) ∧
    let e := (f.imm.extractLsb' 0 2).toNat
    (tget none s.me.ge e ≠ none → exec (.gleave f) s = .next ((t.landS f.d 0 s.lat.salu).eff (.gleave e 0))) ∧
    (tget none s.me.ge e = none → exec (.gleave f) s = .next (t.landS f.d 1 s.lat.salu))

/-! ### The command stream -/

/-- R414–R417: a launch whose block is good makes an entry with the interface's next sequence number and answers its handle; the four
statuses; a `cwait` one of whose three conditions holds; a host signal with room or without; an invalidation of a range, or `ILLENC`.
Completes: `launch`, `cwait`, `hsig`, `xinv`.
R426–R428, R433: `snap.at` with a good record and a step still to come holds the arming, or answers 1 where a snapshot is already
armed, and faults on a record that is not good; `snap.at step` advances the step; `snap.dis` disarms.
Completes: `snapAt`, `snapAtStep`, `snapDis`. -/
def Obligations.StreamWords : Prop :=
  (∀ (f : SR) (s : State), Runs s f.kneg f.k →
    let t := s.charge 0 0
    let ifc := s.me.ifc
    let a := s.me.sreg f.a
    (∀ w u x, InReady s [f.wi1, f.wi2] w → RecordReads t 128 a.toNat 128 0 u x →
      let b := blockOf x a
      let status := fun c => Host.Outcome.next (u.landS f.d (BitVec.ofNat 64 (ifc * 2 ^ 58 + 2 ^ 44 + c * 2 ^ 40)) s.lat.sld)
      ((u.ifc ifc).frozen = true → exec (.launch f) s = status 4) ∧
      ((u.ifc ifc).frozen = false → blockViol u ifc b = true → exec (.launch f) s = .next (u.modIss fun i => { i with viol := some a })) ∧
      ((u.ifc ifc).frozen = false → blockViol u ifc b = false →
        (blockOk x = false ∨ b.inh = true → exec (.launch f) s = status 2) ∧
        (blockOk x = true → b.inh = false →
          (b.prio = 7 → exec (.launch f) s = status 3) ∧
          (b.prio ≠ 7 → openCores u ifc (placement b) = [] → exec (.launch f) s = status 1) ∧
          (b.prio ≠ 7 → openCores u ifc (placement b) ≠ [] →
            let e := launchEntry u { b with wstart := wMerge b.wstart w }
            e.tseq = ((u.ifc ifc).tseq + 1) % 2 ^ 40 ∧
            exec (.launch f) s = .next ((({ u with nextId := u.nextId + 1 } : State).landS f.d
              (BitVec.ofNat 64 (ifc * 2 ^ 58 + e.tseq)) s.lat.sld).eff (.launch e)))))) ∧
    (let evc := (s.ifc ifc).evc;
      (a.toNat < evc.toNat ∨ (s.me.sreg f.b ≠ 0 ∧ (s.me.sreg f.b).toNat ≤ s.tick) →
        (∀ z, f.wi1 = some z → (tget {} s.me.w z.toNat).pend ≠ none ∨ wNull (tget {} s.me.w z.toNat).val = true ∨
          wPsn (tget {} s.me.w z.toNat).val = false) →
        exec (.cwait f) s = .next (t.landS f.d evc s.lat.salu)) ∧
      (∀ z, f.wi1 = some z → (tget {} s.me.w z.toNat).pend = none → wPsn (tget {} s.me.w z.toNat).val = false →
        sat s (tget {} s.me.w z.toNat).val = true → exec (.cwait f) s = .next (t.landS f.d evc s.lat.salu))) ∧
    (∀ w, SatReady s [f.wi1, f.wi2] w →
      (((s.ifc ifc).hsc - (s.ifc ifc).hrd).toNat < 64 →
        exec (.hsig f) s = .next ((t.landS f.d 0 s.lat.sld).eff (.hsig a (s.me.sreg f.b)))) ∧
      (64 ≤ ((s.ifc ifc).hsc - (s.ifc ifc).hrd).toNat → exec (.hsig f) s = .next (t.landS f.d 1 s.lat.sld)) ∧
      (a.toNat % 65536 = 0 → (s.me.sreg f.b).toNat % 65536 = 0 → a.toNat + (s.me.sreg f.b).toNat ≤ 2 ^ 48 → a.toNat < 2 ^ 48 →
        let g := (xlatGen s ifc + 1) % 65536
        let n := (s.me.sreg f.b).toNat
        exec (.xinv f) s = .next ((t.newId.2.landS f.d (BitVec.ofNat 64 g) s.lat.salu).eff
          (.xinv 0 (if n = 0 then 0 else a.toNat) (if n = 0 then 2 ^ 48 else n)
            { id := s.nextId, own := s.owner, win := w, wo := f.wo.map BitVec.toNat, kind := .xinv g false }))) ∧
      (a.toNat % 65536 ≠ 0 ∨ (s.me.sreg f.b).toNat % 65536 ≠ 0 ∨ 2 ^ 48 < a.toNat + (s.me.sreg f.b).toNat ∨ 2 ^ 48 ≤ a.toNat →
        exec (.xinv f) s = .next (t.faultAt .illenc s.iss.pc.toNat)))) ∧
  (∀ (f : SR) (s : State), Runs s f.kneg f.k →
    let t := s.charge 0 0
    (∀ w, SatReady s [f.wi1, f.wi2] w →
      exec (.snapAtStep f) s = .next ((t.landS f.d ((s.ifc s.me.ifc).step + 1) s.lat.salu).eff (.snapStep ((f.wo.map BitVec.toNat).getD 0) w)) ∧
      ∀ u r, RecordReads t 128 (s.me.sreg f.a).toNat 128 w u r →
        (snapMisaligned r = true → exec (.snapAt f) s = .next (u.faultAt .align (s.me.sreg f.a).toNat)) ∧
        ∀ ok : Prop, (ok ↔ fld r 1023 768 = 0 ∧ fld r 191 152 = 0 ∧ 1 ≤ fld r 151 144 ∧ fld r 151 144 ≤ 4 ∧ snapOverlap r = false ∧
          fld r 63 63 = 1 ∧ (u.ifc s.me.ifc).step < s.me.sreg f.b) →
        (snapMisaligned r = false → ¬ ok → exec (.snapAt f) s = .next (u.faultAt .illenc s.iss.pc.toNat)) ∧
        (snapMisaligned r = false → ok → (u.ifc s.me.ifc).snap.st = 0 →
          exec (.snapAt f) s = .next ((u.newId.2.landS f.d 0 s.lat.salu).eff (.snapAt (BitVec.ofNat 1024 r) (s.me.sreg f.b)
            { id := u.nextId, own := s.owner, win := w, wo := f.wo.map BitVec.toNat, kind := .snap s.me.ifc }))) ∧
        (snapMisaligned r = false → ok → (u.ifc s.me.ifc).snap.st ≠ 0 → exec (.snapAt f) s = .next ((u.landS f.d 1 s.lat.salu).nullWit f.wo))) ∧
    exec (.snapDis f) s = .next ((t.landS f.d (BitVec.ofNat 64 (s.ifc s.me.ifc).snap.st) s.lat.salu).eff .snapDis))

/-- R397, R418: `cslot` of an item of the interface answers the old value and holds the change, when the operands are in the item's
range; outside it the bundle faults `ILLENC`.
Completes: `cslotXlat`, `cslotQi`, `cslotQm`, `cslotPolicy`, `cslotDump`, `cslotDumpack`, `cslotEvents`, `cslotThyme`, `cslotGroup`,
`cslotThaw`.
R349, R351, R354, R363, R418–R420: the items that only the fabric's owner sets, and only in a drain that is not locked; another
interface is frozen. The two forms of `fdrain`.
Completes: `cslotSched`, `cslotT0`, `cslotRoute`, `cslotWindow`, `cslotCallmax`, `fdrain`, `fdrainLock`. -/
def Obligations.StreamItems : Prop :=
  (∀ (f : SR) (s : State), Runs s f.kneg f.k →
    let t := s.charge 0 0
    let x := s.ifc s.me.ifc
    let a := (s.me.sreg f.a).toNat
    let b := (s.me.sreg f.b).toNat
    (∀ (i : Instr) (n : Nat) (ok : Prop) (old : Word), (i, n, ok, old) ∈ ([
        (.cslotXlat f, 0, a = 0 ∧ fld b 11 10 < 2, x.xlat),
        (.cslotQi f, 1, a = 0 ∧ fld b 31 0 ≤ x.qci, BitVec.ofNat 64 x.qi),
        (.cslotQm f, 2, a = 0 ∧ fld b 39 0 ≤ x.qcm, BitVec.ofNat 64 x.qm),
        (.cslotPolicy f, 3, a = 0 ∧ b < 64, BitVec.ofNat 64 (x.polCore + 4 * x.polCluster + 16 * x.polIfc)),
        (.cslotDump f, 4, a % 65536 = 0 ∧ b % 65536 = 0 ∧ 65536 ≤ b, x.dumpBase),
        (.cslotDumpack f, 5, a = 0 ∧ x.dumpA + b ≤ x.dumpW, BitVec.ofNat 64 (if x.dumpSize = 0 then 0 else x.dumpA % x.dumpSize.toNat)),
        (.cslotEvents f, 6, a = 0 ∧ b % 8192 = 0, x.evb)] : List (Instr × Nat × Prop × Word)) →
      (ok → exec i s = .next ((t.landS f.d old s.lat.salu).eff (.item n (s.me.sreg f.a) (s.me.sreg f.b)))) ∧
      (¬ ok → exec i s = .next (t.faultAt .illenc s.iss.pc.toNat))) ∧
    (let key := thymeKey (fld a 23 16) (fld a 12 10) (fld a 9 0);
      ∀ ok : Prop, (ok ↔ a < 2 ^ 24 ∧ fld a 15 13 = 0 ∧ fld a 12 10 ≠ 7 ∧ b < 2 ^ 32 ∧ fld b 30 25 = 0 ∧ fld b 21 0 = 0 ∧ fld b 24 22 ≠ 7) →
      (¬ ok → exec (.cslotThyme f) s = .next (t.faultAt .illenc s.iss.pc.toNat)) ∧
      (ok → fld (tget 0 s.thyme key).toNat 30 25 ≠ s.me.ifc →
        exec (.cslotThyme f) s = .next (t.modIss fun i => { i with viol := some s.iss.pc })) ∧
      (ok → fld (tget 0 s.thyme key).toNat 30 25 = s.me.ifc →
        exec (.cslotThyme f) s = .next ((t.landS f.d ((tget 0 s.thyme key).zeroExtend 64) s.lat.salu).eff
          (.item 7 (s.me.sreg f.a) (s.me.sreg f.b))))) ∧
    (1024 ≤ a ∨ 256 < b → exec (.cslotGroup f) s = .next (t.faultAt .illenc s.iss.pc.toNat)) ∧
    (a < 1024 → b ≤ 256 → allotted s (a / 256) (a % 256) s.me.ifc = false →
      exec (.cslotGroup f) s = .next (t.modIss fun i => { i with viol := some s.iss.pc })) ∧
    (a < 1024 → b ≤ 256 → allotted s (a / 256) (a % 256) s.me.ifc = true →
      exec (.cslotGroup f) s = .next ((t.landS f.d (BitVec.ofNat 64 (tget {} (s.die (a / 256)).grp (a % 256)).ht) s.lat.salu).eff
        (.item 8 (s.me.sreg f.a) (s.me.sreg f.b)))) ∧
    (a ≠ 0 ∨ b ≠ 0 → exec (.cslotThaw f) s = .next (t.faultAt .illenc s.iss.pc.toNat)) ∧
    (a = 0 → b = 0 → (∀ c ∈ frozenCtxs s s.me.ifc, (s.ctx c).dying = false) →
      exec (.cslotThaw f) s = .next ((t.landS f.d (BitVec.ofNat 64 (frozenCtxs s s.me.ifc).length) s.lat.salu).eff (.item 14 0 0)))) ∧
  (∀ (f : SR) (s : State), Runs s f.kneg f.k →
    let t := s.charge 0 0
    let a := (s.me.sreg f.a).toNat
    let b := (s.me.sreg f.b).toNat
    (∀ (i : Instr) (n : Nat) (ok : Prop) (old : Word), (i, n, ok, old) ∈ ([
        (.cslotSched f, 9, a < 4096 ∧ fld a 7 5 = 0 ∧ (fld b 39 39 = 0 ∨ 5 ≤ fld b 63 48) ∧ (fld b 47 40 = 0 ∨ 6 ≤ fld b 47 40),
          tget 0 (s.port (a % 32)).sched (fld a 11 8)),
        (.cslotT0 f, 10, a < 32, (s.port a).t0),
        (.cslotRoute f, 11, a < 4096 ∧ b < 2 ^ 32, (tget 0 s.fab.route a).zeroExtend 64),
        (.cslotWindow f, 12, a = 0 ∧ b ≤ 4, BitVec.ofNat 64 (Nat.log2 (s.fab.window / 4000))),
        (.cslotCallmax f, 13, a < 32 ∧ 1 ≤ b ∧ b ≤ 64, BitVec.ofNat 64 (s.port a).callmax)] : List (Instr × Nat × Prop × Word)) →
      (s.fab.fown = some s.me.ifc → s.fab.drain ≠ 0 → s.fab.locked = false →
        (ok → exec i s = .next ((t.landS f.d old s.lat.salu).eff (.item n (s.me.sreg f.a) (s.me.sreg f.b)))) ∧
        (¬ ok → exec i s = .next (t.faultAt .illenc s.iss.pc.toNat))) ∧
      (s.fab.fown = some s.me.ifc → (s.fab.drain = 0 ∨ s.fab.locked = true) → exec i s = .next (t.faultAt .illenc s.iss.pc.toNat)) ∧
      (s.fab.fown ≠ some s.me.ifc → exec i s = .next (t.modIss fun i => { i with viol := some s.iss.pc }))) ∧
    (s.fab.fown = some s.me.ifc →
      (s.fab.drain = 0 →
        exec (.fdrain f) s = .next (((t.start 0 f.wo (.drain false)).2.landS f.d 0 s.lat.salu).eff
          (.fdrain false ((s.me.sreg f.a).setWidth 32) s.nextId)) ∧
        exec (.fdrainLock f) s = .next ((t.landS f.d 1 s.lat.salu).nullWit f.wo)) ∧
      (s.fab.drain ≠ 0 →
        exec (.fdrain f) s = .next ((t.landS f.d 1 s.lat.salu).nullWit f.wo) ∧
        exec (.fdrainLock f) s = .next (((t.start 0 f.wo (.drain true)).2.landS f.d 0 s.lat.salu).eff (.fdrain true 0 s.nextId)))) ∧
    (s.fab.fown ≠ some s.me.ifc → ∀ i ∈ ([.fdrain f, .fdrainLock f] : List Instr),
      exec i s = .next (t.modIss fun i => { i with viol := some s.iss.pc })))

/-! ### The vector slots -/

/-- R172, R173, R179–R181, R198, R205, R207: the element-wise integer, logic, shift, select, permute and move words write exactly the
active lanes, each element from the elements of its sources.
Completes: `viadd`, `visub`, `vimul`, `vimad`, `vimax`, `vimin`, `viabs`, `vand`, `vor`, `vxor`, `vnot`, `vshl`, `vshr`, `vsel`,
`vperm`, `vbcast`, `vzip`, `vuzp`, `vmov`. -/
def Obligations.VectorElements : Prop :=
  ∀ (f : VO) (s t : State) (vs : List VReg) (i : Instr) (src : List (BitVec 11)) (u lat : Nat) (x : Nat → Nat),
    let w := fmtW f.fmt
    let act := actBits (s.me.qreg f.file f.qp.toNat) f.pn
    let sg := decide (f.fmt < 3)
    let e := fun (n k : Nat) => ((vs.getD n 0).extractLsb' (w * k) w).toNat
    let z := fun (n k : Nat) => elVal sg w (vs.getD n 0) k
    let q := s.me.qreg f.file f.c.toNat
    let tern := fun (n : Nat) => if f.fmt = 6 ∧ n = 2 then 0 else n
    (i, src, u, lat, x) ∈ ([
      (.viadd f, [f.a, f.b], 1, s.lat.valu, fun k => elBits sg f.sat w (z 0 k + z 1 k)),
      (.visub f, [f.a, f.b], 1, s.lat.valu, fun k => elBits sg f.sat w (z 0 k - z 1 k)),
      (.vimul f, [f.a, f.b], 1, s.lat.vfma, fun k => elBits sg f.sat w (z 0 k * z 1 k)),
      (.vimad f, [f.a, f.b, f.c], 1, s.lat.vfma, fun k => elBits sg f.sat w (z 0 k * z 1 k + z 2 k)),
      (.vimax f, [f.a, f.b], 1, s.lat.valu, fun k => elBits sg f.sat w (max (z 0 k) (z 1 k))),
      (.vimin f, [f.a, f.b], 1, s.lat.valu, fun k => elBits sg f.sat w (min (z 0 k) (z 1 k))),
      (.viabs f, [f.a], 1, s.lat.valu, fun k => elBits sg f.sat w (z 0 k).natAbs),
      (.vand f, [f.a, f.b], 1, s.lat.valu, fun k => e 0 k &&& e 1 k),
      (.vor f, [f.a, f.b], 1, s.lat.valu, fun k => e 0 k ||| e 1 k),
      (.vxor f, [f.a, f.b], 1, s.lat.valu, fun k => e 0 k ^^^ e 1 k),
      (.vnot f, [f.a], 1, s.lat.valu, fun k => (~~~ (vs.getD 0 0).extractLsb' (w * k) w).toNat),
      (.vshl f, [f.a, f.b], 1, s.lat.valu, fun k => elBits sg f.sat w (z 0 k * 2 ^ (e 1 k % w))),
      (.vshr f, [f.a, f.b], 1, s.lat.valu, fun k => elBits sg f.sat w (z 0 k / 2 ^ (e 1 k % w))),
      (.vsel f, [f.a, f.b], 1, s.lat.valu, fun k => if q.getLsbD (k * w / 32) then e 0 k else e 1 k),
      (.vperm f, [f.a, f.b], 2, s.lat.valu, fun k => e 0 (e 1 k % (2048 / w))),
      (.vbcast f, [f.a], 1, s.lat.valu, fun _ => tern (e 0 f.c.toNat)),
      (.vzip f, [f.a, f.b], 1, s.lat.valu, fun k => tern (e (k % 2) (f.c.toNat * (1024 / w) + k / 2))),
      (.vuzp f, [f.a, f.b], 1, s.lat.valu, fun k =>
        tern (if k < 1024 / w then e 0 (2 * k + f.c.toNat) else e 1 (2 * (k - 1024 / w) + f.c.toNat))),
      (.vmov f, [f.a], 1, s.lat.valu, fun k => tern (e 0 k))] : List (Instr × List (BitVec 11) × Nat × Nat × (Nat → Nat))) →
    Sources (s.charge u 0) f.file w src t vs →
    (act = BitVec.allOnes 64 ∨ expired s (s.me.vf f.file) f.d.toNat = false) →
    ∃ val mask fl, exec i s = .next (vLands t f lat (fmtBits f.fmt val) mask fl) ∧ Lanes w act val mask x

/-- R175–R178, R199, R201, R202, R206: the floating arithmetic, compare-exchange, packing and reduction words, once their sources are
read and their destination may be written, hold the result that the functions of the formats give, with its flags.
Completes: `vfma`, `vfms`, `vfnma`, `vmax`, `vmin`, `vabs`, `vneg`, `vcpsg`, `vexp2`, `vlog2`, `vrcp`, `vrsqrt`, `vtanh`, `vcxc`, `vunpk`,
`vrsum`, `vrmax`, `vrmin`, `vramax`, `virsum`. -/
def Obligations.VectorResults : Prop :=
  ∀ (f : VO) (s t : State) (vs : List VReg) (i : Instr) (src : List (BitVec 11)) (u lat : Nat) (r : VRes),
    let act := actBits (s.me.qreg f.file f.qp.toNat) f.pn
    let a := vs.getD 0 0
    let b := vs.getD 1 0
    let c := vs.getD 2 0
    let seg := (f.c.extractLsb' 0 4).toNat
    let at' := (f.c.extractLsb' 4 7).toNat
    (i, src, u, lat, r) ∈ ([
      (.vfma f, [f.a, f.b, f.c], 1, s.lat.vfma, vFused 0 f.fmt f.sat act a b c),
      (.vfms f, [f.a, f.b, f.c], 1, s.lat.vfma, vFused 1 f.fmt f.sat act a b c),
      (.vfnma f, [f.a, f.b, f.c], 1, s.lat.vfma, vFused 2 f.fmt f.sat act a b c),
      (.vmax f, [f.a, f.b], 1, s.lat.valu, vMaxMin true f.fmt act a b),
      (.vmin f, [f.a, f.b], 1, s.lat.valu, vMaxMin false f.fmt act a b),
      (.vabs f, [f.a], 1, s.lat.valu, vSign 0 f.fmt act a 0),
      (.vneg f, [f.a], 1, s.lat.valu, vSign 1 f.fmt act a 0),
      (.vcpsg f, [f.a, f.b], 1, s.lat.valu, vSign 2 f.fmt act a b),
      (.vexp2 f, [f.a], 4, s.lat.vtr, vTrans 0 f.fmt act a),
      (.vlog2 f, [f.a], 4, s.lat.vtr, vTrans 1 f.fmt act a),
      (.vrcp f, [f.a], 4, s.lat.vtr, vTrans 2 f.fmt act a),
      (.vrsqrt f, [f.a], 4, s.lat.vtr, vTrans 3 f.fmt act a),
      (.vtanh f, [f.a], 4, s.lat.vtr, vTrans 4 f.fmt act a),
      (.vcxc f, [f.a, f.b], 2, s.lat.valu, vCxc f.fmt (f.c == 1) act a b),
      (.vunpk f, [f.a], 1, s.lat.valu, vUnpk a),
      (.vrsum f, [f.a], 2, s.lat.vfma, vRed 0 f.fmt seg at' f.sat act a),
      (.vrmax f, [f.a], 2, s.lat.vfma, vRed 1 f.fmt seg at' f.sat act a),
      (.vrmin f, [f.a], 2, s.lat.vfma, vRed 2 f.fmt seg at' f.sat act a),
      (.vramax f, [f.a], 2, s.lat.vfma, vRed 3 f.fmt seg at' f.sat act a),
      (.virsum f, [f.a], 2, s.lat.vfma, vRed 4 f.fmt seg at' f.sat act a)]
        : List (Instr × List (BitVec 11) × Nat × Nat × VRes)) →
    Sources (s.charge u 0) f.file (fmtW f.fmt) src t vs → DestReady s f r.mask →
    exec i s = .next (vLands t f lat (fmtBits f.fmt r.val) r.mask r.fl)

/-- R85, R175, R200–R204: the words that may round stochastically hold their result, and the generators of the lanes they stepped;
`vseed` sets the generators of the active lanes; the packed and scale results are whole bytes.
Completes: `vadd`, `vsub`, `vmul`, `vcvt`, `vpack`, `vscl`, `vqmx`, `vseed`. -/
def Obligations.VectorRounding : Prop :=
  ∀ (f : VO) (s t : State) (vs : List VReg),
    let act := actBits (s.me.qreg f.file f.qp.toNat) f.pn
    let g := gensOf (s.me.vf f.file)
    let a := vs.getD 0 0
    let b := vs.getD 1 0
    let held := fun (t : State) (lat : Nat) (r : VRes) =>
      let z := vLands t f lat (fmtBits f.fmt r.val) r.mask r.fl
      if r.gens = g then z else z.eff (.gens f.file ((List.range 64).map fun i => (i, r.gens.getD i 1)))
    (∀ (i : Instr) (src : List (BitVec 11)) (u lat : Nat) (r : VRes), (i, src, u, lat, r) ∈ ([
      (.vadd f, [f.a, f.b], 1, s.lat.valu, vArith 0 f.fmt f.c.toNat f.sat act g a b),
      (.vsub f, [f.a, f.b], 1, s.lat.valu, vArith 1 f.fmt f.c.toNat f.sat act g a b),
      (.vmul f, [f.a, f.b], 1, s.lat.vfma, vArith 2 f.fmt f.c.toNat f.sat act g a b),
      (.vcvt f, [f.a], 1, s.lat.valu,
        vCvt (f.c.extractLsb' 3 4) f.fmt (f.c.extractLsb' 0 3).toNat (f.c.extractLsb' 8 3).toNat f.sat act g a)]
          : List (Instr × List (BitVec 11) × Nat × Nat × VRes)) →
      Sources (s.charge u 0) f.file (if i = .vcvt f then fmtW (f.c.extractLsb' 3 4) else fmtW f.fmt) src t vs → DestReady s f r.mask →
      exec i s = .next (held t lat r)) ∧
    (∀ t' b, Sources (s.charge 2 0) f.file 32 [f.a] t' [a] → Sources t' f.file 8 [f.b] t [b] →
      let r := vQmx f.fmt (f.c.extractLsb' 0 3).toNat (f.c.extractLsb' 3 3).toNat (f.c.extractLsb' 6 5).toNat f.sat act g a b
      DestReady s f r.mask → exec (.vqmx f) s = .next (held t s.lat.vfma r)) ∧
    (Sources (s.charge 1 0) f.file 8 [f.a] t vs → DestReady s f (vPack a).mask →
      exec (.vpack f) s = .next (vLands t f s.lat.valu (vPack a).val (vPack a).mask (vPack a).fl)) ∧
    (Sources (s.charge 1 0) f.file 32 [f.a] t vs → DestReady s f (vScl f.fmt act a).mask →
      exec (.vscl f) s = .next (vLands t f s.lat.valu (vScl f.fmt act a).val (vScl f.fmt act a).mask (vScl f.fmt act a).fl)) ∧
    (Sources (s.charge 1 0) f.file 32 [f.a] t vs →
      exec (.vseed f) s = .next (t.eff (.gens f.file ((List.range 64).filterMap fun i =>
        if act.getLsbD i then some (i, if a.extractLsb' (32 * i) 16 = 0 then 1 else a.extractLsb' (32 * i) 16) else none))))

/-- R195–R197: a compare writes one bit for each active lane and leaves the others; the predicate words write all 64 bits, with q0 all
true.
Completes: `vcmpEq`, `vcmpNe`, `vcmpLt`, `vcmpLe`, `vcmpTord`, `vcmpUn`, `qand`, `qor`, `qxor`, `qnot`, `qsetNone`, `qsetAll`,
`qsetFirst`, `qsetNz`.
R66, R208, R209: the six forms of `xmv` move a register, a predicate or a 64-bit word into another file, to land after the next
STOP bundle.
Completes: `xmvVec`, `xmvPred`, `xmvToS`, `xmvFromS`, `xmvToC`, `xmvPredToS`. -/
def Obligations.PredicatesAndMoves : Prop :=
  (∀ (f : VO) (s t : State) (vs : List VReg),
    let act := actBits (s.me.qreg f.file f.qp.toNat) f.pn
    let q := fun (n : BitVec 11) => if n = 0 then BitVec.allOnes 64 else tget 0 (s.me.vf f.file).q n.toNat
    let lands := fun (u : State) (v m : Word) => u.eff
      (.land ⟨.q f.file f.d.toNat, s.me.n + s.lat.valu, v.zeroExtend 2048, m.zeroExtend 2048, false, none, false, false⟩)
    (∀ i cc, (i, cc) ∈ [(Instr.vcmpEq f, 0), (.vcmpNe f, 1), (.vcmpLt f, 2), (.vcmpLe f, 3), (.vcmpTord f, 4), (.vcmpUn f, 5)] →
      Sources (s.charge 1 0) f.file (fmtW f.fmt) [f.a, f.b] t vs →
      let r := vCmp cc f.fmt (f.c == 1) act (vs.getD 0 0) (vs.getD 1 0)
      r.mask = act.toNat ∧
      exec i s = .next (let z := lands t (BitVec.ofNat 64 r.val) act
        if r.fl = 0 then z else z.eff (.flags (if f.file then 1 else 0) (r.fl.zeroExtend 64)))) ∧
    (∀ i v, (i, v) ∈ ([(.qand f, q f.a &&& q f.b), (.qor f, q f.a ||| q f.b), (.qxor f, q f.a ^^^ q f.b), (.qnot f, ~~~ q f.a),
        (.qsetNone f, 0), (.qsetAll f, BitVec.allOnes 64),
        (.qsetFirst f, BitVec.ofNat 64 (2 ^ s.iss.bimm.toNat - 1))] : List (Instr × Word)) →
      exec i s = .next (lands (s.charge 1 0) v (BitVec.allOnes 64))) ∧
    (Sources (s.charge 1 0) f.file 32 [f.a] t vs → ∃ v : Word, (∀ k, k < 64 → v.getLsbD k = decide ((vs.getD 0 0).extractLsb' (32 * k) 32 ≠ 0)) ∧
      exec (.qsetNz f) s = .next (lands t v (BitVec.allOnes 64)))) ∧
  (∀ (f : VO) (s t : State) (v : VReg),
    let lands := fun (u : State) (d : Dst) (x mask : VReg) =>
      u.eff (.land ⟨d, s.me.n + s.lat.vxmv, x, mask, false, none, true, true⟩)
    let all := BitVec.allOnes 2048
    let low : VReg := (BitVec.allOnes 64).zeroExtend 2048
    let word : VReg := (v.extractLsb' (64 * f.b.toNat) 64).zeroExtend 2048
    let q := if f.a = 0 then BitVec.allOnes 64 else tget 0 (s.me.vf f.file).q f.a.toNat
    (Sources (s.charge 1 0) f.file 32 [f.a] t [v] →
      exec (.xmvVec f) s = .next (lands t (.v (!f.file) f.d.toNat) v all) ∧
      exec (.xmvToS f) s = .next (lands t (.s f.d.toNat) word low) ∧
      exec (.xmvToC f) s = .next (lands t (.a (f.d.getLsbD 5) (f.d.toNat % 32)) word low)) ∧
    exec (.xmvPred f) s = .next (lands (s.charge 1 0) (.q (!f.file) f.d.toNat) (q.zeroExtend 2048) low) ∧
    exec (.xmvPredToS f) s = .next (lands (s.charge 1 0) (.s f.d.toNat) (q.zeroExtend 2048) low) ∧
    ∃ x : VReg, (∀ k, k < 32 → x.extractLsb' (64 * k) 64 = if s.me.group = [] then tget 0 s.me.s f.a.toNat else tget 0 s.me.sg f.a.toNat) ∧
      exec (.xmvFromS f) s = .next (lands (s.charge 1 0) (.v f.file f.d.toNat) x all))

/-- R210, R211: vector loads and stores of 256 bytes, and gathers and scatters of the active elements, when nothing holds them up; a
store with no active lane stores nothing and gives the null witness. A misaligned address faults `ALIGN` there: for a gather or a scatter
whose other elements may be reached, at the lowest of its misaligned ones.
Completes: `vld`, `vst`, `vgth`, `vsct`.
R184, R185, R191, R192: `pcfg` latches a good record with its base, relative to a register where the record says so, and faults on a
record that is not good; `pskip` steps a configured port, around its end where the record loops.
Completes: `pcfg`, `pskip`. -/
def Obligations.VectorMemory : Prop :=
  (∀ (f : VO) (s t : State) (vs : List VReg),
    let act := actBits (s.me.qreg f.file f.qp.toNat) f.pn
    let a := ((vs.getD 0 0).setWidth 64 + 256 * (f.c.extractLsb' 6 5).signExtend 64).toNat
    let free := act = BitVec.allOnes 64 ∨ expired s (s.me.vf f.file) f.d.toNat = false
    (a % 64 = 0 →
      (Sources (s.charge 1 0) f.file 32 [f.a] t vs → free → ∀ w u bs, SatReady t [wfOf f.c] w → L1Reads t accLoad a 256 w u bs →
        ∃ mask, (∀ i, i < 2048 → mask.testBit i = act.getLsbD (i / 32)) ∧
          exec (.vld f) s = .next (vLands (u.charge 0 4) f s.lat.vld (fmtBits f.fmt (leNat bs)) mask 0)) ∧
      (Sources (s.charge 1 0) f.file 32 [f.a, f.b] t vs → act ≠ 0 → ∀ w u segs, InReady t [wfOf f.c] w → WriteMay t accStore a 256 u segs →
        let o : StoreOp := ⟨false, BitVec.ofNat 64 a, piecesAt segs a (laneRuns act a (leBytes 256 (vs.getD 1 0).toNat)), 0, 0⟩
        exec (.vst f) s = .next ((u.charge 0 4).start w (wfOf f.d) (.store o)).2) ∧
      (Sources (s.charge 1 0) f.file 32 [f.a, f.b] t vs → act = 0 → ∀ w segs, InReady t [wfOf f.c] w →
        resolve t (t.who t.iss.cid) accStore false a 256 = .ok segs → exec (.vst f) s = .next (t.nullWit (wfOf f.d)))) ∧
    (a % 64 ≠ 0 →
      (Sources (s.charge 1 0) f.file 32 [f.a] t vs → exec (.vld f) s = .next (t.faultAt .align a)) ∧
      (Sources (s.charge 1 0) f.file 32 [f.a, f.b] t vs → exec (.vst f) s = .next (t.faultAt .align a))) ∧
    (let l := elemAddrs act (vs.getD 0 0) (vs.getD 1 0);
      ∀ p ∈ l, p.2 % 4 ≠ 0 → (∀ q ∈ l, q.2 % 4 ≠ 0 → p.2 ≤ q.2) →
        (∀ w, Sources (s.charge 4 0) f.file 32 [f.a, f.b] t vs → SatReady t [wfOf f.c] w →
          (∀ q ∈ l, elemBad t accLoad q.2 = none ∧ (q.2 % 4 = 0 → elemFault t accLoad q.2 = none)) →
          exec (.vgth f) s = .next (t.faultAt .align p.2)) ∧
        (Sources (s.charge 4 0) f.file 32 [f.a, f.b, f.c] t vs → (∀ q ∈ l, q.2 % 4 = 0 → elemFault t accStore q.2 = none) →
          exec (.vsct f) s = .next (t.faultAt .align p.2))) ∧
    (let l := elemAddrs act (vs.getD 0 0) (vs.getD 1 0);
      (Sources (s.charge 4 0) f.file 32 [f.a, f.b] t vs → free → ∀ w, SatReady t [wfOf f.c] w →
        (∀ p ∈ l, elemFault t accLoad p.2 = none ∧ fillPages t.me p.2 4 = []) →
        readBlocked t (coreOf t.iss.cid) w (l.flatMap fun p => elemSegs t accLoad p.2) = false →
        (gatherAll t w l).2.2.1 = [] → (gatherAll t w l).2.2.2 = [] →
        ∃ mask, (∀ i, i < 2048 → mask.testBit i = act.getLsbD (i / 32)) ∧
          exec (.vgth f) s = .next (vLands ((gatherAll t w l).1.charge 0 l.length) f s.lat.vld
            (fmtBits f.fmt ((gatherAll t w l).2.1.foldl (fun z p => z + p.2 <<< (32 * p.1)) 0)) mask 0)) ∧
      (Sources (s.charge 4 0) f.file 32 [f.a, f.b, f.c] t vs → l ≠ [] →
        (∀ p ∈ l, elemFault t accStore p.2 = none ∧ heldPages t t.iss.cid p.2 4 = [] ∧ fillPages t.me p.2 4 = []) →
        noPath t (l.flatMap fun p => elemSegs t accStore p.2) = false → fusing t (coreOf t.iss.cid) = false →
        let u := l.foldl (fun u p => touchXlat u (u.who u.iss.cid) p.2 4) t
        let left := l.flatMap fun p => piecesOf (elemSegs u accStore p.2) (leBytes 4 ((vs.getD 2 0).extractLsb' (32 * p.1) 32).toNat)
        let o : StoreOp := ⟨false, BitVec.ofNat 64 ((l.head?.map (·.2)).getD 0), left, 0, 0⟩
        exec (.vsct f) s = .next ((u.charge 0 l.length).start 0 (wfOf f.d) (.store o)).2) ∧
      (Sources (s.charge 4 0) f.file 32 [f.a, f.b, f.c] t vs → l = [] → exec (.vsct f) s = .next (t.nullWit (wfOf f.d))))) ∧
  (∀ (f : VO) (s t : State) (a : VReg), 1536 ≤ f.d.toNat →
    let n := f.d.toNat - 1536
    (Sources (s.charge 2 0) f.file 32 [f.a] t [a] → ∀ w u x, SatReady t [wfOf f.c] w → RecordReads t 64 (a.setWidth 64).toNat 64 w u x →
      (fld x 291 291 = 0 → ∀ p, portRecord (BitVec.ofNat 512 x) 0 = .ok p →
        exec (.pcfg f) s = .next (u.eff (.port f.file n { p with wit := w }))) ∧
      (fld x 291 291 = 1 → ∀ v b p, Source u f.file 32 f.b v b → portRecord (BitVec.ofNat 512 x) (b.setWidth 64) = .ok p →
        exec (.pcfg f) s = .next (v.eff (.port f.file n { p with wit := w }))) ∧
      (fld x 291 291 = 0 → ∀ c, portRecord (BitVec.ofNat 512 x) 0 = .error c →
        exec (.pcfg f) s = .next (u.faultAt c s.iss.pc.toNat)) ∧
      (fld x 291 291 = 1 → ∀ v b c, Source u f.file 32 f.b v b → portRecord (BitVec.ofNat 512 x) (b.setWidth 64) = .error c →
        exec (.pcfg f) s = .next (v.faultAt c s.iss.pc.toNat))) ∧
    (let p := s.portNow f.file n;
      (p.conf = true → p.pos ≤ pTotal p.rcd → p.rcd.getLsbD 290 = false →
        exec (.pskip f) s = .next ((s.charge 1 0).eff (.port f.file n { p with pos := min (pTotal p.rcd) (p.pos + f.c.toNat) }))) ∧
      (p.conf = true → p.pos ≤ pTotal p.rcd → p.rcd.getLsbD 290 = true →
        exec (.pskip f) s = .next ((s.charge 1 0).eff (.port f.file n
          { p with pos := if f.c = 0 then p.pos else (p.pos + f.c.toNat - 1) % pTotal p.rcd + 1 }))) ∧
      (p.conf = false → exec (.pskip f) s = .next ((s.charge 1 0).faultAt .illenc s.iss.pc.toNat))))

/-! ### The matrix slot -/

/-- R218, R220–R222, R224: reading a descriptor, setting one field of it, and starting to load a scale register while fewer than eight M
operations of the core are in flight; a misaligned address and a descriptor with a bit that R218 forbids fault. Where a descriptor that the
word reads holds an uncorrectable error, a check goes into the matrix engine as well (R444).
Completes: `tdld`, `tdsetAdd`, `tdsetLo`, `tdsetHi`, `tdsetKorg`, `tdsetShape`, `tdsetStride`, `tdsetView`, `mscl`.
R215, R225–R233: the words that put an operation into the matrix engine, while fewer than eight of the core are in flight.
Completes: `mma`, `mmaz`, `mdrn`, `mst`, `mld`, `mzero`, `mmov`. -/
def Obligations.MatrixWords : Prop :=
  (∀ (f : MO) (s : State),
    let t := s.charge 1 0
    let z := s.iss.bimm
    let d := s.tdreg f.tda
    (∀ w u bs, SatReady s [f.wi1, f.wi2, f.wi3] w →
      let a := (imgAddr f s).toNat
      let x := leNat bs
      a % 32 = 0 → HomeReads (checkImg f (t.charge 0 1)) accRec a 32 w u bs → fld x 143 130 = 0 → fld x 127 12 = 0 → fld x 129 128 ≠ 3 →
      fld x 159 144 % 32 = 0 →
      exec (.tdld f) s = .next (u.eff (.land ⟨.td f.tda.toNat, s.me.n + s.lat.vld, (BitVec.ofNat 256 x).zeroExtend 2048,
        (BitVec.allOnes 256).zeroExtend 2048, false, none, false, false⟩))) ∧
    (∀ w, SatReady s [f.wi1, f.wi2, f.wi3] w →
      let a := (imgAddr f s).toNat
      (a % 32 ≠ 0 → exec (.tdld f) s = .next ((t.charge 0 1).faultAt .align a)) ∧
      ∀ u bs, a % 32 = 0 → HomeReads (checkImg f (t.charge 0 1)) accRec a 32 w u bs →
        (let x := leNat bs; fld x 143 130 ≠ 0 ∨ fld x 127 12 ≠ 0 ∨ fld x 129 128 = 3 ∨ fld x 159 144 % 32 ≠ 0) →
        exec (.tdld f) s = .next (u.faultAt .illenc s.iss.pc.toNat)) ∧
    (∀ (i : Instr) (hi lo : Nat) (v : Nat), (i, hi, lo, v) ∈ ([
        (.tdsetAdd f, 255, 192, (d.extractLsb' 192 64 + z.signExtend 64).toNat), (.tdsetLo f, 223, 192, z.toNat),
        (.tdsetHi f, 255, 224, z.toNat), (.tdsetKorg f, 159, 144, z.toNat % 65536), (.tdsetShape f, 11, 0, z.toNat % 4096),
        (.tdsetStride f, 191, 160, z.toNat), (.tdsetView f, 129, 128, z.toNat % 4)] : List (Instr × Nat × Nat × Nat)) →
      ∃ l : Landing, exec i s = .next ((checkTd t f.tda).eff (.land l)) ∧ l.dst = .td f.tda.toNat ∧ l.due = s.me.n + s.lat.valu ∧
        (∀ k, k < 2048 → l.mask.getLsbD k = decide (lo ≤ k ∧ k ≤ hi)) ∧
        ∀ k, lo ≤ k → k ≤ hi → l.val.getLsbD k = v.testBit (k - lo)) ∧
    (∀ w segs, InReady s [f.wi1, f.wi2, f.wi3] w →
      let a := (imgAddr f s).toNat
      let u := touchXlat (checkImg f (s.charge 1 16)) (s.who s.iss.cid) a 1024
      (a % 64 ≠ 0 → exec (.mscl f) s = .next ((s.charge 1 16).faultAt .align a)) ∧
      (a % 64 = 0 → (mInFlight s (coreOf s.iss.cid)).length < 8 → resolve (s.charge 1 16) (s.who s.iss.cid) accRec false a 1024 = .ok segs → fillPages s.me a 1024 = [] →
      exec (.mscl f) s = .next (u.start w none (.mscl f.ea.toNat (BitVec.ofNat 64 a) segs (s.me.n + s.lat.vld) [])).2))) ∧
  (∀ (f : MO) (s : State), (mInFlight s (coreOf s.iss.cid)).length < 8 →
    let a := s.tdreg f.tda
    let b := s.tdreg f.tdb
    (∀ w, InReady s [f.wi1, f.wi2, f.wi3] w →
      let ka := kOrigin s f a
      let kb := kOrigin s f b
      let na := tdBlks a * bpb f.fa
      let nb := tdBlks b * bpb f.fb
      let la := tileLines s a false ka (bpb f.fa)
      let lb := tileLines s b false kb (bpb f.fb)
      (11 ≤ f.fa ∧ 11 ≤ f.fb ∨ f.fn = 0) → f.fn.getLsbD 2 = false → (f.fn.getLsbD 0 = true ∨ f.ea = 0) → (f.fn.getLsbD 1 = true ∨ f.eb = 0) →
      tdLines b ≤ 64 → tdBlks a = tdBlks b → ka ≤ 65504 → kb ≤ 65504 → LinesReady s la na → LinesReady s lb nb →
      ∀ i z, (i, z) ∈ [(Instr.mma f, false), (.mmaz f, true)] →
        ∃ t : State, ∃ m : MOp, Held s t ∧ t.iss.cid = s.iss.cid ∧ exec i s = .next (t.start w f.wo (.m m)).2 ∧
          m.kind = (if z then .mmaz else .mma) ∧ m.acc = f.acc.toNat ∧ m.tda = a ∧ m.tdb = b ∧ m.fa = f.fa ∧ m.fb = f.fb ∧ m.j = s.iss.j ∧
          m.ka = ka ∧ m.kb = kb ∧ m.linesA = lineOks la ∧ m.zero = (z && (!f.stk || s.iss.j == 0)) ∧
          (f.fn.getLsbD 0 = true → m.sa = (List.range 1024).map fun i => tget 0 s.me.e (f.ea.toNat * 1024 + i)) ∧
          (f.fn.getLsbD 1 = true → m.sb = (List.range 1024).map fun i => tget 0 s.me.e (f.eb.toNat * 1024 + i)) ∧
          t.iss.ci = s.iss.ci + tdBlks a) ∧
    (let row := f.tda.toNat * 16 + f.tdb.toNat + s.iss.j * f.kstep.toNat;
      (row ≤ 127 →
        let m : MOp := { kind := .mdrn, acc := f.acc.toNat, row := row, clr := f.fn.getLsbD 0 }
        exec (.mdrn f) s = .next (((s.charge 1 0).start 0 none (.m m)).2.eff
          (.land ⟨.mrow, s.me.n + s.lat.mdrn, 0, BitVec.allOnes 2048, false, some s.nextId, false, false⟩))) ∧
      (127 < row → exec (.mdrn f) s = .next ((s.charge 1 0).faultAt .illenc s.iss.pc.toNat))) ∧
    (∀ w, InReady s [f.wi1, f.wi2, f.wi3] w → tdKorg a / 32 + tdBlks a ≤ 2 →
      ∀ i st, (i, st) ∈ [(Instr.mst f, true), (.mld f, false)] →
        LinesReady s (tileLines s a st (tdKorg a) (bpb f.fa)) (tdBlks a * bpb f.fa) →
        ∃ t : State, ∃ m : MOp, Held s t ∧ exec i s = .next (t.start w f.wo (.m m)).2 ∧ m.kind = (if st then .mst else .mld) ∧
          m.acc = f.acc.toNat ∧ m.tda = a ∧ m.fa = f.fa ∧ m.sat = f.fn.getLsbD 0 ∧
          m.linesA = lineOks (tileLines s a st (tdKorg a) (bpb f.fa)) ∧ t.iss.ci = s.iss.ci + (if st then 2 else 1)) ∧
    exec (.mzero f) s = .next ((s.charge 1 0).start 0 none (.m { kind := .mzero, acc := f.acc.toNat })).2 ∧
    exec (.mmov f) s = .next ((s.charge 1 0).start 0 none (.m { kind := .mmov, acc := f.acc.toNat, acc2 := f.tda.toNat })).2)

/-! ### The copy slots -/

/-- R254–R257, R264: `cp`, `cps` and `pgwb` start their copy on a free channel when the windows, the alignment, the length and the
translations at both ends allow it; a sector that rows of a `cps` share is charged once (R117).
Completes: `cp`, `cps`, `pgwb`.
R262–R264, R282, R285: multicasts, retain masks, range controls and group loads.
Completes: `mcst`, `gld`, `pgret`, `pgrel`, `l2pf`, `l2wb`, `l2inv`.
R255, R262–R264, R282, R285, R359, R361: the copies, multicasts, fabric stores, group loads and range controls with an address or a length
that is no multiple of 64 fault `ALIGN` at the address named, before anything starts. -/
def Obligations.CopyAndPageWords : Prop :=
  ((∀ (f : CO) (s : State) (w : Word), InReady s [f.wi1, f.wi2, f.wi3] w → chanBusy s (coreOf s.iss.cid) f.ch.toNat = false →
    let cid := s.iss.cid
    let core := coreOf cid
    let d := (cAddr s f f.d).toNat
    let a := (cAddr s f f.a).toNat
    let n := (s.me.areg f.file f.b).toNat
    (rangeKind s cid d n = none → rangeKind s cid a n = none → d % 64 = 0 → a % 64 = 0 → n % 64 = 0 → n ≤ 16777216 →
      endsXlat s cid true d n = none → endsXlat s cid false a n = none →
      let o : CopyOp := { kind := 0, ch := f.ch.toNat, core := core, dst := cAddr s f f.d, src := cAddr s f f.a, rows := 1, rlen := n / 64, dstr := 0, sstr := 0, dsw := false, ssw := false }
      exec (.cp f) s = .next ((touchEnds (touchEnds (s.charge 2 (n / 64)) a n) d n).start w f.wo (.copy o)).2) ∧
    (let o := cpsOp s f (cAddr s f f.d) (cAddr s f f.a) n;
      let last := o.sector (o.total - 1)
      o.total * 64 ≤ 16777216 → (o.dsw = true → kindOf d = 2) → (o.ssw = true → kindOf a = 2) → d % 64 = 0 → a % 64 = 0 →
      (∀ i, i < o.rows → rangeKind s cid (o.sector (i * o.rlen)).1 (o.rlen * 64) = none ∧
        rangeKind s cid (o.sector (i * o.rlen)).2 (o.rlen * 64) = none) →
      sectorXlat s cid true d = none → sectorXlat s cid true last.1 = none → sectorXlat s cid false a = none →
      sectorXlat s cid false last.2 = none →
      exec (.cps f) s = .next ((s.charge 2 (if o.rlen ≤ o.dstr then o.total else (o.rows - 1) * o.dstr + o.rlen)).start w f.wo (.copy o)).2) ∧
    (let j := (s.me.areg f.file f.a).toNat;
      let m := backing s.me.lb + 65536 * j
      let o : CopyOp := { kind := 3, ch := f.ch.toNat, core := core, dst := BitVec.ofNat 64 m, src := BitVec.ofNat 64 (localBase + 65536 * j), rows := 1, rlen := 1024, dstr := 0, sstr := 0, dsw := false, ssw := false }
      j < s.me.pages.length → rangeKind s cid m 65536 = none → endsXlat s cid true m 65536 = none →
      exec (.pgwb f) s = .next ((touchEnds (s.charge 1 1024) m 65536).start w f.wo (.copy o)).2)) ∧
  (∀ (f : CO) (s : State) (w : Word), InReady s [f.wi1, f.wi2, f.wi3] w →
    let cid := s.iss.cid
    let core := coreOf cid
    let d := (cAddr s f f.d).toNat
    let a := (cAddr s f f.a).toNat
    let n := (s.me.areg f.file f.b).toNat
    let v := s.me.areg f.file f.a
    (∀ u x, rangeKind s cid a n = none → a % 64 = 0 → n % 64 = 0 → 64 ≤ n → n ≤ 65536 → endsXlat s cid false a n = none →
      RecordReads s 64 (s.me.areg f.file f.d).toNat 64 0 u x → x ≠ 0 → mcstViol u x = false → chanBusy s core f.ch.toNat = false →
      let o : McstOp := { ch := f.ch.toNat, core := core, src := cAddr s f f.a, len := n, br := mcstBranches x }
      exec (.mcst f) s = .next ((touchEnds (u.charge 4 (n / 64)) a n).start w f.wo (.mcst o)).2) ∧
    (v.toNat < 2 ^ s.me.pages.length →
      exec (.pgret f) s = .next ((s.charge 1 0).eff (.retOr (v.setWidth 32))) ∧
      exec (.pgrel f) s = .next ((s.charge 1 0).eff (.retAnd (v.setWidth 32)))) ∧
    (2 ^ s.me.pages.length ≤ v.toNat →
      exec (.pgret f) s = .next (s.faultAt .illenc s.iss.pc.toNat) ∧ exec (.pgrel f) s = .next (s.faultAt .illenc s.iss.pc.toNat)) ∧
    (rangeKind s cid d v.toNat = none → kindOf d = 0 → d % 64 = 0 → v.toNat % 64 = 0 → 64 ≤ v.toNat → v.toNat ≤ 16777216 →
      endsXlat s cid false d v.toNat = none → l2Running s < 4 →
      ∀ i k, (i, k) ∈ [(Instr.l2pf f, 0), (.l2wb f, 1), (.l2inv f, 2)] →
        exec i s = .next ((touchEnds (s.charge 1 (if k = 2 then 0 else v.toNat / 64)) d v.toNat).start w f.wo
          (.l2range k (cAddr s f f.d) v.toNat 0)).2) ∧
    (let e := (f.ch.extractLsb' 0 2).toNat;
      ∀ g, joinOpen s = false → d % 64 = 0 → a % 64 = 0 → n % 64 = 0 → 64 ≤ n → n ≤ 65536 → rangeKind s cid d n = none → kindOf d = 2 →
      rangeKind s cid a n = none → kindOf a = 0 → offDie s a n (dieOf core) = none → tget none s.me.ge e = some g →
      let t := touchEnds (s.charge 2 (n / 64)) a n
      let k : GldOp := { e := e, die := dieOf core, g := g.grp, q := 0, dst := cAddr s f f.d, src := cAddr s f f.a, len := n, sw := f.ch.getLsbD 2, segs := (reach t.newId.2 (t.newId.2.who cid) { loc := false } false a n).1 }
      exec (.gld f) s = .next (t.newId.2.eff (.gld
        { id := s.nextId, own := s.owner, win := w, wo := f.wo.map BitVec.toNat, pages := s.me.pages.map (·.phys), kind := .gld k }))))) ∧
  (∀ (f : CO) (s : State),
    let cid := s.iss.cid
    let d := (cAddr s f f.d).toNat
    let a := (cAddr s f f.a).toNat
    let n := (s.me.areg f.file f.b).toNat
    let v := (s.me.areg f.file f.a).toNat
    let at' := fun (i : Instr) (x : Nat) => exec i s = .next (s.faultAt .align x)
    (rangeKind s cid d n = none → rangeKind s cid a n = none →
      (d % 64 ≠ 0 → at' (.cp f) d) ∧ (d % 64 = 0 → a % 64 ≠ 0 → at' (.cp f) a) ∧
      (d % 64 = 0 → a % 64 = 0 → n % 64 ≠ 0 → at' (.cp f) d)) ∧
    (let o := cpsOp s f (cAddr s f f.d) (cAddr s f f.a) n;
      o.total * 64 ≤ 16777216 → (o.dsw = true → kindOf d = 2) → (o.ssw = true → kindOf a = 2) →
      (∀ i, i < o.rows → rangeKind s cid (o.sector (i * o.rlen)).1 (o.rlen * 64) = none ∧
        rangeKind s cid (o.sector (i * o.rlen)).2 (o.rlen * 64) = none) →
      (d % 64 ≠ 0 → at' (.cps f) d) ∧ (d % 64 = 0 → a % 64 ≠ 0 → at' (.cps f) a)) ∧
    (rangeKind s cid a n = none → a % 64 ≠ 0 ∨ n % 64 ≠ 0 → at' (.mcst f) a) ∧
    (d % 64 ≠ 0 → at' (.fst f) d) ∧ (d % 64 = 0 → a % 64 ≠ 0 → at' (.fst f) a) ∧
    (d % 64 = 0 → a % 64 = 0 → n % 64 ≠ 0 → at' (.fst f) d) ∧
    (a % 64 ≠ 0 ∨ n % 64 ≠ 0 → at' (.fmst f) a) ∧
    (joinOpen s = false →
      (d % 64 ≠ 0 → at' (.gld f) d) ∧ (d % 64 = 0 → a % 64 ≠ 0 → at' (.gld f) a) ∧
      (d % 64 = 0 → a % 64 = 0 → n % 64 ≠ 0 → at' (.gld f) d)) ∧
    (rangeKind s cid d v = none → kindOf d = 0 → d % 64 ≠ 0 ∨ v % 64 ≠ 0 →
      ∀ i ∈ ([.l2pf f, .l2wb f, .l2inv f] : List Instr), at' i d))

/-! ### Notices, retention and walks -/

/-- R318, R319, R325, R331, R338: publishing a record that passes its checks into a free slot; the retention controls; declining; and
permits.
Completes: `pub`, `decl`, `permit`, `rtset`, `rtrel`.
R335, R336: a walk with a good descriptor, live targets of the interface and a free engine is held for its commit.
Completes: `walk`. -/
def Obligations.NoticeWords : Prop :=
  (∀ (f : CO) (s : State),
    let d := (s.me.areg f.file f.d).toNat
    let a := (s.me.areg f.file f.a).toNat
    let b := (s.me.areg f.file f.b).toNat
    (∀ w u r, InReady s [f.wi1, f.wi2, f.wi3] w → d % 64 = 0 → RecordReads s 128 a 128 0 u r → noticeSize r % 64 = 0 → badNotice r b = false →
      rangeKind u s.iss.cid d (noticeSize r) = none → endsXlat u s.iss.cid false d (noticeSize r) = none → noticeViol u r = false →
      slotTaken u (b % 64) = false →
      ∃ segs, exec (.pub f) s = .next ((touchEnds (u.charge 8 0) d (noticeSize r)).eff
        (.pub (BitVec.ofNat 1024 r) (BitVec.ofNat 64 d) (b % 64) (BitVec.ofNat 32 (fld b 63 32)) w segs (f.wo.map BitVec.toNat)))) ∧
    (let v := b % 2 ^ 20;
      (1 ≤ v → v ≤ 1000000 → exec (.rtset f) s = .next ((s.charge 1 0).eff (.rtset f.d.toNat f.file (a % 64) v))) ∧
      (v = 0 ∨ 1000000 < v → exec (.rtset f) s = .next ((s.charge 1 0).landA f.file f.d 3 s.lat.cst))) ∧
    exec (.rtrel f) s = .next ((s.charge 1 0).eff (.rtrel f.d.toNat f.file (a % 64))) ∧
    exec (.decl f) s = .next ((s.charge 2 0).eff (.decl f.d.toNat f.file ((s.me.areg f.file f.a).setWidth 32))) ∧
    ∀ w, InReady s [f.wi1, f.wi2, f.wi3] w →
      exec (.permit f) s = .next ((s.charge 1 0).eff
        (.permit (s.me.areg f.file f.a) (s.me.areg f.file f.b) w (f.wo.map BitVec.toNat)))) ∧
  (∀ (f : CO) (s u : State) (w : Word) (x : Nat),
    let st := stationOf (coreOf s.iss.cid)
    InReady s [f.wi1, f.wi2, f.wi3] w → RecordReads (s.charge 4 0) 128 (s.me.areg f.file f.a).toNat 128 0 u x → walkSkew x = none →
    badWalk x = false →
    (∀ p ∈ walkTgts st x, (u.ctx p.2).st ≠ .free ∧ (u.ctx p.2).st ≠ .frozen ∧ (u.ctx p.2).ifc = s.me.ifc ∧ walkRange u x p.2 = none) →
    kindOf (fld x 63 0) = 0 → sectorXlat u s.iss.cid (fld x 440 440 == 1) (fld x 63 0) = none →
    (u.iss.effs.filter fun e => match e with | .walk .. => true | _ => false).length < (freeEngines u st).length →
    let o : Op := { id := u.nextId, own := s.owner, win := w, wo := f.wo.map BitVec.toNat, pages := s.me.pages.map (·.phys), kind := .walkWit st 0 4 0 }
    exec (.walk f) s = .next ((touchEnds u (fld x 63 0) 64).newId.2.eff (.walk (BitVec.ofNat 1024 x)
      ((walkTgts st x).map fun p => (p.1, { cid := p.2, uid := (u.ctx p.2).uid, ifc := s.me.ifc, tseq := (u.ctx p.2).tseq }))
      f.file f.d.toNat o)))

/-- R326, R327, R334: `scfg` answers the old value of its item and holds the new one, within the item's range.
Completes: `scfgLand`, `scfgUnland`, `scfgMbox`, `scfgLimits`, `scfgClass`, `scfgPace`, `scfgRead`. -/
def Obligations.ReceiverItems : Prop :=
  ∀ (f : CO) (s : State),
    let v := s.me.areg f.file f.a
    let t := s.charge 2 0
    let stn := s.stn (stationOf (coreOf s.iss.cid))
    let ok := fun (old : Word) (e : Eff) => Host.Outcome.next ((t.landA f.file f.d old s.lat.cst).eff e)
    (v.toNat % 2 ^ 32 < 2 ^ s.me.lb.spp →
      exec (.scfgLand f) s = ok (s.me.lm.zeroExtend 64) (.lm true (v.setWidth 32)) ∧
      exec (.scfgUnland f) s = ok (s.me.lm.zeroExtend 64) (.lm false (v.setWidth 32))) ∧
    (2 ^ s.me.lb.spp ≤ v.toNat % 2 ^ 32 →
      exec (.scfgLand f) s = .next (t.faultAt .illenc s.iss.pc.toNat) ∧ exec (.scfgUnland f) s = .next (t.faultAt .illenc s.iss.pc.toNat)) ∧
    (v = 0 → exec (.scfgMbox f) s = ok s.me.mb (.mbox 0)) ∧
    (v.toNat % 2048 = 0 → rangeKind s s.iss.cid v.toNat 2048 = none → kindOf v.toNat = 2 →
      exec (.scfgMbox f) s = ok s.me.mb (.mbox v)) ∧
    (v.toNat < 2 ^ 20 → exec (.scfgLimits f) s = ok (BitVec.ofNat 64 (s.me.dl + (s.me.mo - 1) * 2 ^ 16))
      (.limits (v.extractLsb' 0 16).toNat ((v.extractLsb' 16 4).toNat + 1))) ∧
    (v.toNat < 2 ^ 16 → exec (.scfgClass f) s = ok (BitVec.ofNat 64 (tget 0xFA50 stn.cmap s.me.ifc)) (.cmap v.toNat)) ∧
    (v.toNat < 2 ^ 8 → exec (.scfgPace f) s = ok (BitVec.ofNat 64 (tget 32 stn.pace s.me.ifc)) (.pace v.toNat)) ∧
    exec (.scfgRead f) s = .next (t.landA f.file f.d (BitVec.ofNat 64 ((pendingOf s s.iss.cid).length % 256 +
      (pullsOf s s.iss.cid).length % 32 * 2 ^ 8 + s.me.pn.toNat * 2 ^ 32)) s.lat.cst)

/-! ### The fabric -/

/-- R350, R359–R362: fabric stores and multicast stores that pass their checks start at commit, where what they send finds a working port:
`fst` to its part, `fmst` to the switch for the parts of its pod and to each other part that the route table names.
Completes: `fst`, `fmst`.
R49, R350, R364, R369, R370, R434: tickets and reductions whose message finds a working port, the shadow controls, and the word that does
nothing; ticket words and reduction descriptors with a bit that must be zero fault `ILLENC`.
Completes: `nop`, `tkget`, `tkwait`, `tkdone`, `rslot`, `rsto`, `shcp`, `shdrn`. -/
def Obligations.FabricWords : Prop :=
  (∀ (f : CO) (s : State) (w : Word), InReady s [f.wi1, f.wi2, f.wi3] w →
    let d := (cAddr s f f.d).toNat
    let a := (cAddr s f f.a).toNat
    let n := (s.me.areg f.file f.b).toNat
    a % 64 = 0 → n % 64 = 0 → 64 ≤ n → n ≤ 65536 → rangeKind s s.iss.cid a n = none → endsXlat s s.iss.cid false a n = none →
    (∀ segs, d % 64 = 0 →
      resolve s (s.who s.iss.cid) { wr := true, loc := false, dev := false, glob := true } false d n = .ok segs →
      pathTo s (fld d 62 51) (fld d 50 0 / 256) ≠ none →
      let o : FstOp := { mc := false, ff := f.ch.getLsbD 0, rcd := f.ch.getLsbD 1, dests := [fld d 62 51], off := fld d 50 0, src := cAddr s f f.a, len := n }
      exec (.fst f) s = .next ((touchEnds (s.charge 2 (n / 64)) a n).start w f.wo (.fst o)).2) ∧
    ∀ u x, RecordReads s 64 (s.me.areg f.file f.d).toNat 64 0 u x → fld x 511 331 = 0 → fld x 279 272 = 0 → fld x 271 256 ≠ 0 →
      fld x 255 0 ≠ 0 → fstBlocked u true (fmstDests u.fab.part x) (fld x 330 280 / 256) = false →
      let o : FstOp := { mc := true, ff := f.ch.getLsbD 0, rcd := f.ch.getLsbD 1, dests := fmstDests u.fab.part x, off := fld x 330 280, src := cAddr s f f.a, len := n }
      exec (.fmst f) s = .next ((touchEnds (u.charge 8 (n / 64)) a n).start w f.wo (.fst o)).2) ∧
  ((∀ (sl : Slot) (stk : Bool) (s : State), exec (.nop sl stk) s = .next s) ∧
  ∀ (f : CO) (s : State),
    let v := (s.me.areg f.file f.a).toNat
    let t := s.charge 2 0
    let way := fld v 11 0 = s.fab.part ∨ fld v 11 0 ∉ s.fab.members ∨ pathTo s (fld v 11 0) (fld v 20 16) ≠ none
    (fld v 15 12 = 0 → fld v 31 21 = 0 → fld v 63 48 = 0 → fld v 47 32 ≤ 1000 → way →
      exec (.tkget f) s = .next ((t.start 0 none (.tkget (fld v 11 0) (fld v 20 16) (if fld v 47 32 = 0 then 20 else fld v 47 32))).2.landLateA
        f.file f.d s.nextId)) ∧
    (fld v 15 12 = 0 → fld v 31 21 = 0 → fld v 62 44 = 0 →
      (fld v 63 63 = 0 → way →
        exec (.tkwait f) s = .next (t.start 0 f.wo (.tkwait (fld v 11 0) (fld v 20 16) (fld v 43 32))).2 ∧
        exec (.tkdone f) s = .next ((t.start 0 none (.tkdone (fld v 11 0) (fld v 20 16) (fld v 43 32))).2.landLateA f.file f.d s.nextId)) ∧
      (fld v 63 63 = 1 →
        exec (.tkwait f) s = .next (holdW t f.wo (mkWit 2 true false s.tick)) ∧
        exec (.tkdone f) s = .next (t.landA f.file f.d 2 s.lat.cst))) ∧
    (fld v 15 12 ≠ 0 ∨ fld v 31 21 ≠ 0 ∨ fld v 63 48 ≠ 0 ∨ 1000 < fld v 47 32 →
      exec (.tkget f) s = .next (t.faultAt .illenc s.iss.pc.toNat)) ∧
    (fld v 15 12 ≠ 0 ∨ fld v 31 21 ≠ 0 ∨ fld v 62 44 ≠ 0 → ∀ i ∈ ([.tkwait f, .tkdone f] : List Instr),
      exec i s = .next (t.faultAt .illenc s.iss.pc.toNat)) ∧
    (∀ u x, RecordReads (s.charge 8 0) 64 v 64 0 u x →
      (badReduction u x = false →
        exec (.rslot f) s = .next ((u.start 0 none (.rslot (BitVec.ofNat 512 x))).2.landLateA f.file f.d u.nextId)) ∧
      (badReduction u x = true → exec (.rslot f) s = .next (u.faultAt .illenc s.iss.pc.toNat))) ∧
    (∀ w segs, InReady s [f.wi1, f.wi2, f.wi3] w →
      let d := (s.me.areg f.file f.d).toNat
      let h := s.me.areg f.file f.b
      let n := 4 * (fld h.toNat 45 32 + 1)
      d % 64 = 0 → v % 64 = 0 → fld h.toNat 63 63 = 0 → rangeKind s s.iss.cid v n = none → endsXlat s s.iss.cid false v n = none →
      resolve s (s.who s.iss.cid) { wr := true } false d (n + 64) = .ok segs → switchPath s (fld h.toNat 27 20) (v / 256) ≠ none →
      let o : RstoOp := { dst := s.me.areg f.file f.d, src := s.me.areg f.file f.a, handle := h, count := fld h.toNat 45 32 + 1, segs := segs }
      exec (.rsto f) s = .next ((touchXlat (touchEnds (s.charge 2 (sectors v n)) v n) (s.who s.iss.cid) d (n + 64)).start w f.wo (.rsto o)).2) ∧
    exec (.shcp f) s = .next ((s.charge 1 0).eff (.shadow false (s.me.areg f.file f.a) (f.wo.map BitVec.toNat))) ∧
    exec (.shdrn f) s = .next ((s.charge 1 0).eff (.shadow true (s.me.areg f.file f.a) (f.wo.map BitVec.toNat))))

/-! ### Start-up, register pages and the management core -/

/-- R8, R440, R442, R24: a part reset leaves every context free, every interface page at 0 and every core at its reset value but for
the fuses; the boot ROM accepts an image that verifies under the root whose digest the fuses hold and that is not rolled back (the layout of
an image, and fuses that hold no digest, are the model's, log entry 7), clusters start one every 4 µs, the arrays after the
last; the budget rises by eighths; and then the part takes its device time, never backwards, accepts starts, and lets the writes to
ENTRY that were held take effect. A step that is not due changes nothing. What stays over a part reset outside the registers (memory
contents) is the model's reading (log entries 1 to 6).
Completes, in every state: `partReset`, `firmwareVerify`, `clusterStart`, `powerRampStep`, `acceptStarts`. -/
def Obligations.StartUp : Prop :=
  ∀ s : State,
    let img : List Byte := s.arg.list.map fun b => BitVec.ofNat 8 b
    (∃ t, exec .partReset s = .next t ∧ (∀ c, t.ctx c = {}) ∧ (∀ i, t.ifc i = {}) ∧
      (∀ n, let k := s.core n; t.core n = { gone0 := k.gone0, gone1 := k.gone1, goneAcc := k.goneAcc, goneTd := k.goneTd }) ∧
      t.plat.boot = 0 ∧ t.plat.envelope = 4800 ∧ t.plat.root = s.plat.root ∧ t.iss = {} ∧ t.ops = [] ∧ t.mem = s.mem) ∧
    (s.plat.boot = 0 →
      exec .firmwareVerify s = .next (s.modPlat fun p =>
        { p with
          boot := if imageVerifies p.root img = true ∧ p.antiRoll ≤ imageVersion img then 1 else 2
          bootAt := s.now
          image := img
          imageOk := imageVerifies p.root img
          imageDigest := sha512 (imageBody img) })) ∧
    (imageVerifies s.plat.root img = true ↔ s.plat.root = [] ∨
      (sha512 (img.take 512) = s.plat.root ∧
        pssVerify (beNat (img.take 512)) (img.drop 1024) ((img.drop 512).take 512) = true)) ∧
    (s.plat.boot ≠ 0 → exec .firmwareVerify s = .next s) ∧
    (s.plat.boot = 1 → s.plat.bootAt + 16000 * s.plat.clusters ≤ s.now →
      (s.plat.clusters < 255 → exec .clusterStart s = .next { s with plat := { s.plat with clusters := s.plat.clusters + 1 } }) ∧
      (s.plat.clusters = 255 →
        exec .clusterStart s = .next { s with plat := { s.plat with clusters := 256, arrays := true, arraysAt := s.now, eighths := 1 } })) ∧
    (s.plat.boot ≠ 1 ∨ 256 ≤ s.plat.clusters ∨ s.now < s.plat.bootAt + 16000 * s.plat.clusters → exec .clusterStart s = .next s) ∧
    (s.plat.arrays = true → s.plat.eighths < 8 → s.plat.arraysAt + 2048000 + 256000 * (s.plat.eighths - 1) ≤ s.now →
      exec .powerRampStep s = .next { s with plat := { s.plat with eighths := s.plat.eighths + 1 } }) ∧
    (s.plat.arrays = false ∨ 8 ≤ s.plat.eighths ∨ s.now < s.plat.arraysAt + 2048000 + 256000 * (s.plat.eighths - 1) →
      exec .powerRampStep s = .next s) ∧
    (s.plat.boot ≠ 1 ∨ s.plat.eighths < 8 → exec .acceptStarts s = .next s) ∧
    (s.plat.boot = 1 → 8 ≤ s.plat.eighths →
      ∃ t, exec .acceptStarts s = .next t ∧ t.plat.boot = 3 ∧ t.now = s.now ∧ t.tickBase = max s.tick (s.arg.a % 2 ^ 60) - s.now ∧
        ((∀ i, i < 64 → (s.ifc i).heldEntry = none) → t.ifcs = s.ifcs ∧ t.ctxs = s.ctxs ∧ t.mem = s.mem) ∧
        ((∀ i, (s.ifc i).frozen = false ∧ frozenCtxs s i = []) → ∀ i, i < 64 →
          ((s.ifc i).heldEntry = none → t.ifc i = s.ifc i ∧ t.ctx (8192 + i) = s.ctx (8192 + i)) ∧
          ∀ v, (s.ifc i).heldEntry = some v → (s.ifc i).run = false →
            t.ifc i = { s.ifc i with run := true, entry := v, heldEntry := none } ∧
            (t.ctx (8192 + i)).st = .running ∧ (t.ctx (8192 + i)).ifc = i ∧ (t.ctx (8192 + i)).pc = v))

/-- R410, R411, R422, R440: a write to ENTRY while RUN = 0 starts the stream at the value written, with a fresh context, and thaws an
interface that is frozen; it is held until the part accepts starts and until the dumps of a freeze are done, and is ignored while
RUN = 1. The other registers of a page take what is written, XLAT only while RUN = 0; read-only registers and the rest of the page
take nothing, and a part in recovery ignores every write.
Completes, for every interface: `entryWrite`, `registerWrite`. -/
def Obligations.RegisterPages : Prop :=
  ∀ (s : State), s.arg.a < 64 →
    let n := s.arg.a
    let i := s.ifc n
    (s.plat.boot = 2 → exec .entryWrite s = .next s ∧ exec .registerWrite s = .next s) ∧
    (s.plat.boot ≠ 2 →
      (s.arg.flag = true → i.heldEntry = none → exec .entryWrite s = .next s) ∧
      (∀ v, (s.arg.flag = false ∧ v = s.arg.word) ∨ (s.arg.flag = true ∧ i.heldEntry = some v) →
        (i.run = true → exec .entryWrite s = .next (s.setIfc n { i with heldEntry := none })) ∧
        (i.run = false → s.plat.boot ≠ 3 ∨ dumpsOpen s n = true →
          exec .entryWrite s = .next (s.setIfc n { i with heldEntry := some v })) ∧
        (i.run = false → s.plat.boot = 3 → dumpsOpen s n = false → i.frozen = false →
          exec .entryWrite s = .next (({ s with nextId := s.nextId + 1 }.setCtx (8192 + n)
            { st := .running, uid := s.nextId, ifc := n, pc := v, lastTry := s.now }).setIfc n
              { i with run := true, entry := v, heldEntry := none })) ∧
        (i.run = false → s.plat.boot = 3 → dumpsOpen s n = false → i.frozen = true →
          ∃ t, exec .entryWrite s = .next t ∧ t.ifc n = { i with run := true, entry := v, heldEntry := none, frozen := false } ∧
            (t.ctx (8192 + n)).st = .running ∧ (t.ctx (8192 + n)).pc = v)) ∧
      (s.arg.b = 0x008 → exec .registerWrite s = .next (s.setIfc n { i with handler := s.arg.word })) ∧
      (s.arg.b = 0x010 → i.run = false → exec .registerWrite s = .next (s.setIfc n { i with xlat := s.arg.word })) ∧
      (s.arg.b = 0x010 → i.run = true → exec .registerWrite s = .next s) ∧
      (s.arg.b = 0x020 → exec .registerWrite s = .next (s.setIfc n { i with hmb := s.arg.word })) ∧
      (s.arg.b = 0x028 → exec .registerWrite s = .next (s.setIfc n { i with hrd := s.arg.word })) ∧
      (s.arg.b ∉ [0x008, 0x010, 0x020, 0x028] → exec .registerWrite s = .next s))

/-- R443, R446: the SPDM responder answers each request of R443 in its turn, and one out of its turn with ERROR; a challenge that it
answers authenticates the session; before the firmware runs nothing is answered. The layouts of the messages and the order of the
requests are the model's (log entries 10 and 66): `body` stands for the rest of a message. Measurement 1 is the digest of the image, and an
index that names no measurement is an error. The last byte of CAPABILITIES tells whether
the part has a DDR tier (log entry 107).
Completes, in every state: `spdmGetVersion`, `spdmGetCapabilities`, `spdmNegotiateAlgorithms`, `spdmGetDigests`, `spdmGetCertificate`,
`spdmChallenge`, `spdmGetMeasurements`.
R1, R437, R445, R446: code M takes the operator's request for an envelope of R437, the other codes only what is set before the part
accepts starts; the lifetime records are committed every 60 s or at power-down, and read in an authenticated session; once a second each
temperature counts in the bin of its value (unit 0–3 a die, 4–15 a stack), and a supply droop counts once for its die.
Completes: `envelopeSelect`, `dillCommit`, `dillRead`, `temperatureSample`, `supplyDroop`. -/
def Obligations.AttestationAndRecords : Prop :=
  (∀ (s : State),
    let up := s.plat.boot = 1 ∨ s.plat.boot = 3
    let answers := fun (i : Instr) (need st : Nat) (head : List Byte) =>
      (need ≤ s.plat.spdm.st → ∃ t body, exec i s = .next t ∧ t.plat.spdm.reply = head ++ body ∧ t.plat.spdm.st = st ∧
        { t with plat := { t.plat with spdm := s.plat.spdm } } = s) ∧
      (s.plat.spdm.st < need → exec i s = .next { s with plat := { s.plat with spdm := { s.plat.spdm with reply := [0x12, 0x7F, 0x04, 0x00] } } })
    (up → answers .spdmGetVersion 0 1 [0x10, 0x04] ∧
      answers .spdmGetCapabilities 1 2 [0x12, 0x61] ∧
      answers .spdmNegotiateAlgorithms 2 3 [0x12, 0x63] ∧
      answers .spdmGetDigests 3 (max 3 s.plat.spdm.st) ([0x12, 0x01, 0, 1] ++ sha512 (certChain s.plat)) ∧
      answers .spdmGetCertificate 3 (max 3 s.plat.spdm.st) [0x12, 0x02] ∧
      answers .spdmChallenge 3 4 ([0x12, 0x03, 0, 1] ++ sha512 (certChain s.plat)) ∧
      answers .spdmGetMeasurements 3 (max 3 s.plat.spdm.st) (if s.arg.b ≤ 3 ∨ s.arg.b = 255 then [0x12, 0x60] else [0x12, 0x7F])) ∧
    (up → 3 ≤ s.plat.spdm.st → s.arg.b = 1 → ∃ t rest, exec .spdmGetMeasurements s = .next t ∧
      t.plat.spdm.reply = [0x12, 0x60, 0, 0, 1] ++ leBytes 3 (measBlock 1 1 s.plat.imageDigest).length ++
        measBlock 1 1 s.plat.imageDigest ++ rest) ∧
    (up → 3 ≤ s.plat.spdm.st → ∃ t, exec .spdmChallenge s = .next t ∧ t.plat.spdm.session = true) ∧
    (up → 1 ≤ s.plat.spdm.st → ∃ t, exec .spdmGetCapabilities s = .next t ∧ t.plat.spdm.reply.getLast? = some (if s.plat.ddr then 1 else 0)) ∧
    (¬ up → ∀ i ∈ ([.spdmGetVersion, .spdmGetCapabilities, .spdmNegotiateAlgorithms, .spdmGetDigests, .spdmGetCertificate, .spdmChallenge,
        .spdmGetMeasurements] : List Instr), exec i s = .next s)) ∧
  (∀ (s : State),
    let up := s.plat.boot = 1 ∨ s.plat.boot = 3
    (s.arg.a = 4800 ∨ s.arg.a = 4000 ∨ s.arg.a = 3200 →
      (s.plat.ddr = true → up → exec .envelopeSelect s = .next { s with plat := { s.plat with envNext := s.plat.envNext ++ [(s.arg.a, s.now)] } }) ∧
      (s.plat.ddr = false → s.plat.boot ≠ 3 → exec .envelopeSelect s = .next { s with plat := { s.plat with envelope := s.arg.a } }) ∧
      (s.plat.ddr = false → s.plat.boot = 3 → exec .envelopeSelect s = .next s)) ∧
    (s.arg.a ∉ [4800, 4000, 3200] → exec .envelopeSelect s = .next s) ∧
    (s.arg.flag = true ∨ s.plat.dillAt + 240000000000 ≤ s.now →
      exec .dillCommit s = .next { s with plat := { s.plat with dillNv := s.plat.dill, dillTick := s.tick, dillAt := s.now } }) ∧
    (s.arg.flag = false → s.now < s.plat.dillAt + 240000000000 → exec .dillCommit s = .next s) ∧
    (up → s.plat.spdm.session = true → exec .dillRead s = .next { s with plat := { s.plat with dillOut := dillImage s.plat } }) ∧
    (¬ up ∨ s.plat.spdm.session = false → exec .dillRead s = .next s) ∧
    (s.plat.tempAt + 4000000000 ≤ s.now →
      ∃ t, exec .temperatureSample s = .next t ∧ t.plat.tempAt = s.now ∧ t.mem = s.mem ∧ t.ctxs = s.ctxs ∧
        ∀ u v, u < 16 → s.arg.list[u]? = some v →
          let k := 17 * 2 ^ 20 + (u * 16 + min (Nat.log2 v) 15)
          tget 0 t.plat.dill k = min (tget 0 s.plat.dill k + 1) (2 ^ 64 - 1)) ∧
    (s.now < s.plat.tempAt + 4000000000 → exec .temperatureSample s = .next s) ∧
    (s.arg.a < 4 →
      let k := 18 * 2 ^ 20 + s.arg.a
      exec .supplyDroop s = .next (s.modPlat fun p => { p with dill := tput p.dill k (min (tget 0 p.dill k + 1) (2 ^ 64 - 1)) })) ∧
    (4 ≤ s.arg.a → exec .supplyDroop s = .next s))

/-- R283, R334, R340, R348, R353, R408, R409, R418: the management core gives a core to an interface, or takes it back, at once where the
core holds nothing and no record is due to its ring, with its retention timeouts at 50 ms and no ring records of before, and else marks it as moving while a task runs on or a record is due;
names the interface of a Thyme slot, which it clears; allots a group, clears its MIS where asked, and takes it back; and sets SH, a tag
that no other interface holds, FOWN, and ceilings, under which a quantum stays.
Completes: `mgmtAssignCore`, `mgmtSetThymeIfc`, `mgmtSetGroup`, `mgmtSetFabricItems`, `mgmtSetQuantumCeiling`. -/
def Obligations.Management : Prop :=
  ∀ (s : State), s.plat.boot = 1 ∨ s.plat.boot = 3 →
    let a := s.arg.a
    let b := s.arg.b
    let c := s.arg.c
    let dest := if b = 0 then none else some (b - 1)
    (a < 1024 → b ≤ 64 → (s.core a).moving = none →
      ((s.core a).own = dest → exec .mgmtAssignCore s = .next s) ∧
      ((s.core a).own ≠ dest →
        ((s.core a).queue = [] → (s.core a).reserved = [] → (∀ n, n < 8 → (s.ctx (a * 8 + n)).st = .free) →
          recordsDue s a = false →
          ∃ t, exec .mgmtAssignCore s = .next t ∧
            t.core a = { s.core a with own := dest, lastRec := [], ret := (s.core a).ret.map fun r => (r.1, { r.2 with tmo := 50 }) } ∧
            (∀ n, n ≠ a → t.core n = s.core n) ∧ (∀ x ∈ t.ringMem, x ∈ s.ringMem ∧ x.1 / 4096 ≠ a) ∧ t.ctxs = s.ctxs ∧ t.mem = s.mem) ∧
        ((∀ n, n < 8 → (s.ctx (a * 8 + n)).st ≠ .ready ∧ (s.ctx (a * 8 + n)).st ≠ .waiting) →
          (∃ n, n < 8 ∧ (s.ctx (a * 8 + n)).st ≠ .free) ∨ recordsDue s a = true →
          exec .mgmtAssignCore s = .next (s.setCore a { s.core a with moving := some dest })))) ∧
    (a < 256 → b < 7 → c < 1024 → s.arg.d < 64 →
      ∃ t, exec .mgmtSetThymeIfc s = .next t ∧ (tget 0 t.thyme (thymeKey a b c)).toNat / 2 ^ 25 = s.arg.d ∧
        (tget 0 t.thyme (thymeKey a b c)).getLsbD 31 = false ∧
        (∀ k, k ≠ thymeKey a b c → tget 0 t.thyme k = tget 0 s.thyme k) ∧
        (hasSlots s a s.arg.d = false → tget 0xFA50 (t.stn a).cmap s.arg.d = 0xFA50 ∧ tget 32 (t.stn a).pace s.arg.d = 32)) ∧
    (a < 4 → b < 256 → c < 64 → s.arg.flag = true →
      exec .mgmtSetGroup s = .next (s.modDie a fun y =>
        { y with grp := tput y.grp b { tget {} y.grp b with
          ifc := c, allot := true, mis := (tget {} y.grp b).mis && !s.arg.word.getLsbD 15 } })) ∧
    (a < 4 → b < 256 → c < 64 → s.arg.flag = false →
      ∃ t, exec .mgmtSetGroup s = .next t ∧ (tget {} (t.die a).grp b).allot = false ∧ t.mem = s.mem) ∧
    (a < 64 → s.arg.d = 0 → b ≤ 64 → exec .mgmtSetFabricItems s = .next (s.setIfc a { s.ifc a with sh := b })) ∧
    (a < 64 → s.arg.d = 1 → c ≤ 65536 →
      ((c ≠ 0 → ∀ i, tagHolder s (c - 1) = some i → i = a) →
        exec .mgmtSetFabricItems s = .next (s.setIfc a { s.ifc a with ftag := if c = 0 then none else some (c - 1) })) ∧
      (c ≠ 0 → ∀ i, tagHolder s (c - 1) = some i → i ≠ a → exec .mgmtSetFabricItems s = .next s)) ∧
    (a < 64 → s.arg.d = 2 →
      exec .mgmtSetFabricItems s = .next { s with fab :=
        { s.fab with fown := if s.arg.flag then some a else if s.fab.fown = some a then none else s.fab.fown } }) ∧
    (a < 64 →
      let i := b % 2 ^ 32
      let m := c % 2 ^ 40
      exec .mgmtSetQuantumCeiling s = .next (s.setIfc a { s.ifc a with
        qci := i, qcm := m
        qi := if (s.ifc a).qi = (s.ifc a).qci then i else min (s.ifc a).qi i
        qm := if (s.ifc a).qm = (s.ifc a).qcm then m else min (s.ifc a).qm m }))

/-! ### The sequencer -/

/-- R38, R57, R61, R64: a context that may issue a bundle, whose results due have landed (`u`), fetches the bundle at its pc; where its
header and words decode and no check of R50, R55 or R56 fails, the slots that are about to execute are the words present and the active
sticky words, with their sticky indices, in PRES order (S, V0, V1, M, C0, C1), and nothing else of the state changes but cached translations
and counts of corrected errors. A context that may not issue leaves the state as it is.
Completes: `bundleIssue`. -/
def Obligations.BundleIssues : Prop :=
  ∀ (s : State),
    let a := s.arg.a
    (canIssue s a = false → exec .bundleIssue s = .next s) ∧
    ∀ (h : Header) (l : List (Slot × Word)), canIssue s a = true →
    let u := (landDue s a false).modCtx a fun c => if c.group.isEmpty then { c with sg := c.s } else c
    let c := u.ctx a
    lateDue u a = none → c.wakeFault = none → fetchBundle u a c.pc.toNat = .ok (h, l) →
    ((c.rep = 0 ∨ c.group = []) → c.group.length < 16) →
    checkBundle u a h c.rep ((issued c c.rep l).map fun p => (p.1, p.2.1)) = [] →
    ∃ t, exec .bundleIssue s = .next t ∧ t.iss.on = true ∧ t.iss.cid = a ∧ t.iss.pc = c.pc ∧ t.iss.len = 8 + 8 * l.length ∧
      t.iss.rep = c.rep ∧ t.iss.repN = h.rep ∧ t.iss.stop = h.stop ∧ t.iss.bimm = h.bimm ∧ t.iss.flts = [] ∧ t.iss.stall = false ∧
      t.iss.effs = [] ∧
      (∀ sl j i, (sl, j, i) ∈ t.iss.todo ↔ ∃ w, (sl, w, j) ∈ issued c c.rep l ∧ decodeSlot sl w = .ok i) ∧
      (t.iss.todo.map (·.1)).Sublist [.s, .v0, .v1, .m, .c0, .c1] ∧
      t.ctxs = u.ctxs ∧ t.ops = u.ops ∧ t.mem = s.mem ∧ t.spad = s.spad ∧ t.ifcs = s.ifcs

/-- R57, R59, R60, R64, R119, R380, R411: the commit of a bundle whose slots found nothing but results to land, and whose charge of at
least one unit its context's budget covers (a handler's in a handler, none in a command stream), where no asynchronous fault is due: the results join those in flight, the
charge is paid, the pc moves past the bundle once its repetitions are done, `rep` counts them, STOP at the last closes the group, and no
register, no other context and no memory changes.
Completes: `bundleCommit`.
R59, R63, R144, R148, R154–R158, R160, R375, R382, R418: what one effect that a bundle held does at the commit of its bundle, beside what every
commit does: a transfer, which stands in the last repetition of a STOP bundle, closes the group and goes to its target; a witness register, the continuation, a status register's flags cleared by ones,
a barrier's start, local arrival and rearming; a return from the handler to what the trap saved, once nothing is in flight; the kill of a task,
whose chain stays with its interface; a software trap, at the bundle after it; and an item of the interface. An asynchronous fault that is
due takes the bundle's place. -/
def Obligations.BundleCommits : Prop :=
  (∀ (s : State) (ls : List Landing), s.iss.on = true → s.iss.cid = s.arg.a → s.iss.hdr = none → s.iss.stall = false →
    s.iss.flts = [] → s.iss.viol = none → s.iss.effs = ls.map .land → s.iss.yield = false →
    let i := s.iss
    let c := s.ctx i.cid
    (c.queued = [] ∨ c.resume ≠ none) →
    fitsBudget c (isStream i.cid) (max 1 i.ci) i.cm = true → (∀ l ∈ c.landing, l.stop = false) →
    ∃ t, exec .bundleCommit s = .next t ∧ t.iss = {} ∧
      (t.ctx i.cid).landing = c.landing ++ ls ∧ (t.ctx i.cid).n = c.n + 1 ∧
      (c.resume = none → i.cid < 8192 → (t.ctx i.cid).bi = c.bi - max 1 i.ci ∧ (t.ctx i.cid).bm = c.bm - i.cm) ∧
      (c.resume = none → 8192 ≤ i.cid → (t.ctx i.cid).bi = c.bi ∧ (t.ctx i.cid).bm = c.bm) ∧
      (c.resume ≠ none → (t.ctx i.cid).hb = c.hb - max 1 i.ci ∧ (t.ctx i.cid).bi = c.bi ∧ (t.ctx i.cid).bm = c.bm) ∧
      (i.rep < i.repN → (t.ctx i.cid).pc = i.pc ∧ (t.ctx i.cid).rep = i.rep + 1) ∧
      (i.repN ≤ i.rep → (t.ctx i.cid).pc = i.pc + BitVec.ofNat 64 i.len ∧ (t.ctx i.cid).rep = 0) ∧
      (i.repN ≤ i.rep → i.stop = true → (t.ctx i.cid).group = [] ∧ (t.ctx i.cid).sticky = []) ∧
      (i.repN ≤ i.rep → i.stop = false → (t.ctx i.cid).group = c.group ++ i.grp.toList) ∧
      (t.ctx i.cid).s = c.s ∧ (t.ctx i.cid).k = c.k ∧ (t.ctx i.cid).w = c.w ∧ (t.ctx i.cid).b = c.b ∧ (t.ctx i.cid).v0 = c.v0 ∧
      (t.ctx i.cid).v1 = c.v1 ∧ (t.ctx i.cid).acc = c.acc ∧ (t.ctx i.cid).td = c.td ∧ (t.ctx i.cid).a0 = c.a0 ∧
      (t.ctx i.cid).a1 = c.a1 ∧ (t.ctx i.cid).mrow = c.mrow ∧ (t.ctx i.cid).flt = c.flt ∧ (t.ctx i.cid).resume = c.resume ∧
      (∀ n, n ≠ i.cid → t.ctx n = s.ctx n) ∧ t.mem = s.mem ∧ t.spad = s.spad ∧ t.ops = s.ops ∧ t.ifcs = s.ifcs) ∧
  (∀ (s : State), s.iss.on = true → s.iss.cid = s.arg.a → s.iss.hdr = none → s.iss.stall = false → s.iss.flts = [] →
    let i := s.iss
    let c := s.ctx i.cid
    (c.queued ≠ [] → c.resume = none → c.st = .running → exec .bundleCommit s = exec .asyncFaultDelivery s) ∧
    ∀ (e : Eff), s.iss.viol = none → s.iss.effs = [e] → s.iss.yield = false → (c.queued = [] ∨ c.resume ≠ none) →
    fitsBudget c (isStream i.cid) (max 1 i.ci) i.cm = true → (∀ l ∈ c.landing, l.stop = false) →
    let pc := if i.repN ≤ i.rep then i.pc + BitVec.ofNat 64 i.len else i.pc
    let runs := fun (p : State → Ctx → Prop) => ∃ t, exec .bundleCommit s = .next t ∧ t.iss = {} ∧ p t (t.ctx i.cid)
    let on := fun (t : State) (d : Ctx) => d.pc = pc ∧ d.n = c.n + 1 ∧ d.landing = c.landing ∧ d.s = c.s ∧ d.k = c.k ∧ t.mem = s.mem ∧ t.ops = s.ops ∧
      ∀ n, n ≠ i.cid → t.ctx n = s.ctx n
    (∀ a, e = .jump a → i.repN ≤ i.rep → i.stop = true → runs fun t d => d.pc = a ∧ d.rep = 0 ∧ d.group = [] ∧ d.sticky = [] ∧ d.n = c.n + 1 ∧ d.s = c.s ∧ d.k = c.k ∧ t.mem = s.mem) ∧
    (∀ r v, e = .wset r v → runs fun t d => on t d ∧ tget {} d.w r = { val := wNorm v } ∧ (∀ q, q ≠ r → tget {} d.w q = tget {} c.w q)) ∧
    (∀ a, e = .cont a → runs fun t d => on t d ∧ d.cont = a ∧ d.w = c.w) ∧
    (∀ r m, e = .w1c r m → runs fun t d => on t d ∧
      d.v0.stat = (if r = 0 then c.v0.stat &&& ~~~m else c.v0.stat) ∧ d.v1.stat = (if r = 1 then c.v1.stat &&& ~~~m else c.v1.stat) ∧
      d.mxStat = (if 2 ≤ r then c.mxStat &&& ~~~m else c.mxStat)) ∧
    (∀ b n, e = .bari b n → runs fun t d => on t d ∧
      tget {} d.b b = { gen := (tget {} c.b b).gen, exp := if n = 0 then 0 else BitVec.ofNat 12 n, arm := decide (n ≠ 0) }) ∧
    (∀ b w, e = .barl b w → runs fun t d => on t d ∧
      let x : Barrier := tget {} c.b b
      let last := decide (x.arr + 1 = x.exp)
      (x.arm = false → tget {} d.b b = x) ∧ (x.arm = true → x.done = true → tget {} d.b b = { x with ovf := true }) ∧
      (x.arm = true → x.done = false → tget {} d.b b =
        { x with w := wMerge x.w w, arr := x.arr + 1, done := last, gen := if last then x.gen + 1 else x.gen })) ∧
    (∀ b, e = .rearm b → runs fun t d => on t d ∧
      let x : Barrier := tget {} c.b b
      tget {} d.b b = if x.arm ∧ x.done then { x with arr := 0, done := false, w := 0 } else x) ∧
    (∀ r, e = .tret → c.landing = [] → scalesOpen s { cid := i.cid, uid := c.uid } = false → c.resume = some r → runs fun t d =>
      d.resume = none ∧ d.st = .running ∧ d.pc = r.pc ∧ d.rep = r.rep ∧ d.sticky = r.sticky ∧ d.group = [] ∧ d.s = c.s ∧ d.k = c.k ∧
        d.landing = r.landing.map (fun l => { l with due := c.n + l.due }) ∧ t.mem = s.mem) ∧
    (∀ n, e = .tkill n → i.cid < 8192 → c.resumedByPolicy = false → c.queued = [] → c.chain.length < 8 → runs fun t d =>
      d = {} ∧ (t.ifc c.ifc).tkillChain = c.chain ++
        [{ addr := c.flt.addr, tick := s.tick, code := c.flt.code, level := 4, policy := 0, cls := 5, cause := n, retries := 0 }]) ∧
    (∀ n, e = .swtrap n → i.cid < 8192 → c.resume = none → c.lb.handler ≠ 0 → runs fun t d =>
      d.st = .inHandler ∧ d.pc = c.lb.handler ∧ d.hb = 4096 ∧ d.landing = [] ∧ d.flt.cls = 2 ∧ d.flt.code = Code.swtrap.num ∧ d.flt.addr = i.pc ∧
        d.flt.mask = 1 ∧ d.flt.cause % 65536 = n % 65536 ∧ d.s = c.s ∧ d.k = c.k ∧ t.mem = s.mem ∧ ∃ z, d.resume = some z ∧ z.pc = pc) ∧
    (∀ n a b, e = .item n a b →
      let x := s.ifc c.ifc
      let sets := fun (y : Ifc) => runs fun t d => on t d ∧ t.ifc c.ifc = y
      (n = 0 → sets { x with xlat := mixBits b x.xlat 0xFFFF0000000003FE }) ∧ (n = 1 → sets { x with qi := b.toNat % 2 ^ 32 }) ∧
      (n = 2 → sets { x with qm := b.toNat % 2 ^ 40 }) ∧
      (n = 3 → sets { x with polCore := b.toNat % 4, polCluster := b.toNat / 4 % 4, polIfc := b.toNat / 16 % 4 }) ∧
      (n = 4 → sets { x with dumpBase := a, dumpSize := b, dumpW := 0, dumpA := 0 }) ∧ (n = 5 → sets { x with dumpA := x.dumpA + b.toNat }) ∧
      (n = 6 → sets { x with evb := b }) ∧
      (n = 14 → runs fun t _ => (t.ifc c.ifc).frozen = false ∧ ∀ k ∈ frozenCtxs s c.ifc, (t.ctx k).st = .free)))

/-- R64, R169, R208: the results in flight of a context that may issue its next bundle, due at that bundle, land, and the others stay in
flight; of one result that lands alone, the register it names takes its value, and what it does not name stays. (`unland` puts back what
an attempt that did not commit had landed, which lands anew.)
Completes: `resultLanding`. -/
def Obligations.ResultsLand : Prop :=
  ∀ (s : State),
    let a := s.arg.a
    let c := unland (s.ctx a)
    let due := fun (l : Landing) => l.late.isNone && !l.stop && decide (l.due ≤ c.n)
    let mix := fun (l : Landing) (old : Word) => (l.val.setWidth 64 &&& l.mask.setWidth 64) ||| (old &&& ~~~l.mask.setWidth 64)
    (canIssue s a = false → exec .resultLanding s = .next s) ∧
    (canIssue s a = true → ∃ t, exec .resultLanding s = .next t ∧
      let d := t.ctx a
      d.landing = c.landing.filter (!due ·) ∧ (∀ n, n ≠ a → t.ctx n = s.ctx n) ∧ t.mem = s.mem ∧ d.pc = c.pc ∧ d.bi = c.bi ∧ d.w = c.w ∧
      ∀ l, c.landing.filter due = [l] →
        (∀ r, l.dst = .s r → tget 0 d.s r = mix l (tget 0 c.s r) ∧ (∀ q, q ≠ r → tget 0 d.s q = tget 0 c.s q) ∧ d.k = c.k ∧ d.v0 = c.v0) ∧
        (∀ r, l.dst = .k r → r < 8 → d.k.getLsbD r = l.val.getLsbD 0 ∧ (∀ q, q ≠ r → d.k.getLsbD q = c.k.getLsbD q) ∧ d.s = c.s) ∧
        (∀ f r, l.dst = .v f r → tget 0 (d.vf f).r r = (l.val &&& l.mask) ||| (tget 0 (c.vf f).r r &&& ~~~l.mask) ∧
          (∀ q, q ≠ r → tget 0 (d.vf f).r q = tget 0 (c.vf f).r q) ∧ d.vf (!f) = c.vf (!f) ∧ d.s = c.s ∧
          (l.mask = BitVec.allOnes 2048 → l.eph = true → (r, s.cycle + 4096) ∈ (d.vf f).eph)) ∧
        (∀ f r, l.dst = .q f r → tget 0 (d.vf f).q r = mix l (tget 0 (c.vf f).q r) ∧
          (∀ q, q ≠ r → tget 0 (d.vf f).q q = tget 0 (c.vf f).q q) ∧ d.vf (!f) = c.vf (!f) ∧ (d.vf f).r = (c.vf f).r) ∧
        (l.dst = .mrow → d.mrow = l.val ∧ d.s = c.s) ∧
        (∀ r, l.dst = .td r → l.mask.setWidth 256 = BitVec.allOnes 256 → tget 0 d.td r = l.val.setWidth 256 ∧ d.s = c.s) ∧
        (∀ r, l.dst = .a true r → tget 0 d.a1 r = mix l (tget 0 c.a1 r) ∧ d.a0 = c.a0 ∧ d.s = c.s) ∧
        (∀ r, l.dst = .a false r → tget 0 d.a0 r = mix l (tget 0 c.a0 r) ∧ d.a1 = c.a1 ∧ d.s = c.s))

/-- R67, R103, R113, R115, R160, R386: a yield bundle that has committed takes its context off the core once nothing of it is in flight: the
context is ready at once where the condition that the bundle named holds, or where it named none, and waits for it otherwise. A `tret` that
waits for late results of its handler returns once they have landed. The wait counts towards a hang unless nothing that it waits for does.
Completes: `yieldBundle`.
R167, R170, R386: a task whose bundle has waited 2^20 cycles is given to containment with `HANG`, class 6; an ephemeral register past
its deadline is marked expired and keeps its contents; a refresh cycle passes to the next row of a good page that holds no ephemeral register,
if there is one, in the cycle that is that row's own, and changes no register.
Completes: `hangDetect`, `ephemeralExpiry`, `refreshCycle`. -/
def Obligations.YieldsAndSlowSteps : Prop :=
  (∀ (s : State),
    let a := s.arg.a
    let c := s.ctx a
    let waits := exec .yieldBundle s = .next (s.setCtx a
      { c with stallT := if drainIdle s a then c.stallT else c.stallT + (s.now - c.lastTry), lastTry := s.now })
    (c.returning = false → c.yield = none ∨ (c.st ≠ .running ∧ c.st ≠ .inHandler) → exec .yieldBundle s = .next s) ∧
    (c.returning = true → c.st ≠ .inHandler → exec .yieldBundle s = .next s) ∧
    (c.returning = true → c.st = .inHandler →
      (stillLanding s a = true → waits) ∧
      (stillLanding s a = false → ∀ r, c.resume = some r → ∃ t, exec .yieldBundle s = .next t ∧
        let d := t.ctx a
        d.returning = false ∧ d.resume = none ∧ d.st = .running ∧ d.pc = r.pc ∧ d.rep = r.rep ∧ d.sticky = r.sticky ∧ t.mem = s.mem ∧
          d.landing = r.landing.map (fun l => { l with due := c.n + l.due - 1 }))) ∧
    ∀ (w : Wait), c.returning = false → c.yield = some w → c.st = .running ∨ c.st = .inHandler → (∀ l, w ≠ .queue l) →
      (stillDraining s a = true → waits) ∧
      (stillDraining s a = false → ∃ t, exec .yieldBundle s = .next t ∧
        (c.queued ≠ [] → c.resume = none → (t.ctx a).st = .ready) ∧
        (c.queued = [] ∨ c.resume ≠ none → (∀ x, w ≠ .topup x) →
          (waitMet s a w = true → (t.ctx a).st = .ready) ∧ (waitMet s a w = false → (t.ctx a).st = .waiting ∧ (t.ctx a).wait = w)) ∧
        (c.queued = [] ∨ c.resume ≠ none → ∀ x, w = .topup x → c.topped = false → (t.ctx a).st = .waiting ∧ (t.ctx a).wait = w) ∧
        (t.ctx a).yield = none ∧ (t.core (coreOf a)).run = none ∧ (t.ctx a).pc = c.pc ∧
        (∀ n, n ≠ a → t.ctx n = s.ctx n) ∧ t.mem = s.mem)) ∧
  (∀ (s : State),
    let a := s.arg.a
    let c := s.ctx a
    let x := c.vf s.arg.flag
    (a < 8192 → c.st = .running ∨ c.st = .inHandler → 2330168 < c.stallT →
      let f : Flt := { cls := 6, code := Code.hang.num, addr := c.pc, rep := c.rep, tick := s.tick }
      exec .hangDetect s = .next (contain (s.setCtx a (toContain s.cycle f f c)) a f true false)) ∧
    (8192 ≤ a ∨ (c.st ≠ .running ∧ c.st ≠ .inHandler) ∨ c.stallT ≤ 2330168 → exec .hangDetect s = .next s) ∧
    (∀ d, x.eph.find? (·.1 == s.arg.b) = some d →
      (d.2 ≤ s.cycle → ∃ t, exec .ephemeralExpiry s = .next t ∧ s.arg.b ∈ ((t.ctx a).vf s.arg.flag).expired ∧
        (∀ e ∈ ((t.ctx a).vf s.arg.flag).eph, e ∈ x.eph ∧ e.1 ≠ s.arg.b) ∧
        ((t.ctx a).vf s.arg.flag).r = x.r ∧ (t.ctx a).s = c.s ∧ (∀ n, n ≠ a → t.ctx n = s.ctx n)) ∧
      (s.cycle < d.2 → exec .ephemeralExpiry s = .next s)) ∧
    (x.eph.find? (·.1 == s.arg.b) = none → exec .ephemeralExpiry s = .next s) ∧
    ∃ t, exec .refreshCycle s = .next t ∧ t.ctxs = s.ctxs ∧ t.mem = s.mem ∧
      let f := s.arg.flag
      let row := fun (k : Core) => if f then k.refresh1 else k.refresh0
      let at' := fun (k : Core) => if f then k.refreshAt1 else k.refreshAt0
      let r := row (s.core a)
      let n := rowsOn s a f r
      (∀ k, 0 < k → k < n → rowRefreshed s a f ((r + k) % 2048) = false) ∧
      (s.cycle < at' (s.core a) + n → t.core a = s.core a) ∧
      (at' (s.core a) + n ≤ s.cycle → at' (t.core a) = s.cycle ∧ row (t.core a) = (r + n) % 2048 ∧
        ((∃ k, k < 2048 ∧ rowRefreshed s a f k = true) → rowRefreshed s a f (row (t.core a)) = true)))

/-- R375, R376, R379, R381, R411: an asynchronous fault at the head of a context's queue, at a bundle in which no slot has faulted, or while a yield
drains, outside a handler, discards the bundle and enters the handler of its block, or of its interface for a command stream: pc, `rep`, sticky words and the results in flight are saved (with those
that an attempt had landed, put back: `unland`), the fault registers say what faulted, the handler has a budget of 4,096 and starts at
its address with no repetition, no sticky word and nothing in flight. Elsewhere it stays queued.
Completes: `asyncFaultDelivery`. -/
def Obligations.AsyncFaultsTrap : Prop :=
  ∀ (s : State),
    let a := s.arg.a
    let c := unland (s.ctx a)
    let h := if isStream a then (s.ifc c.ifc).handler else c.lb.handler
    let here := (s.iss.on = true ∧ s.iss.cid = a ∧ s.iss.hdr = none ∧ s.iss.flts = []) ∨ (s.iss.on = false ∧ c.yield ≠ none)
    (c.queued = [] ∨ c.st ≠ .running ∨ c.resume ≠ none ∨ ¬ here → exec .asyncFaultDelivery s = .next s) ∧
    ∀ (f : Flt) (fs : List Flt), here → c.queued = f :: fs → c.st = .running → c.resume = none → h ≠ 0 →
    (isStream a = false → f.cls ≠ 6) →
    ∃ t, exec .asyncFaultDelivery s = .next t ∧ t.iss = {} ∧ (t.ctx a).queued = fs ∧ (t.ctx a).pc = h ∧ (t.ctx a).rep = 0 ∧
      (t.ctx a).sticky = [] ∧ (t.ctx a).landing = [] ∧ (t.ctx a).hb = 4096 ∧ (t.ctx a).st = .inHandler ∧ (t.ctx a).yield = none ∧
      (t.ctx a).resume = some { pc := c.pc, rep := c.rep, sticky := c.sticky, landing := c.landing.map fun l => { l with due := l.due + 1 - c.n } } ∧
      (t.ctx a).flt.cls = f.cls ∧ (t.ctx a).flt.code = f.code ∧ (t.ctx a).flt.addr = (if f.here then c.pc else f.addr) ∧ (t.ctx a).flt.mask = f.mask ∧ (t.ctx a).flt.rep = c.rep ∧
      (t.ctx a).s = c.s ∧ (t.ctx a).k = c.k ∧ (t.ctx a).w = c.w ∧ (∀ n, n ≠ a → t.ctx n = s.ctx n) ∧ t.mem = s.mem

/-! ### Queues and the core scheduler -/

/-- R107–R109, R111, R113: an entry reaches a core's queue, its own or where its interface has lost that core another of its set; one
held outside finds a place, or stays held; a start witness that is satisfied makes an entry ready to admit, since the tick at which it
became so, and one that fails gives the entry to containment; the scheduler of a core that runs nothing picks, of the ready contexts with
the highest current priority, the one that has been ready the longest, and it runs at its block's priority.
Completes: `launchEnqueue`, `heldEntryPlace`, `startWitnessSatisfied`, `schedulerPick`.
R68, R104, R111, R112, R128: the first in order of a core's entries (by priority, then by the tick at which it became ready), one of a
launch that fits the core and its pools while no aged entry holds it back, is admitted to the lowest free context: s0 is the argument, s1
the task's name, the pc the entry address, the continuation and the budgets as the block and the entry say, and every other register is
zero; the latencies are the image header's. A core that moves, that has no free context or no entry to consider admits nothing.
Completes: `admission`. -/
def Obligations.QueuesAndAdmission : Prop :=
  (∀ (s : State),
    let put := fun (u : State) (q : QEntry) (core : Nat) => u.modCore core fun k =>
      { k with queue := k.queue ++ [{ q with age := k.committed, st := 0 }] }
    (∀ o q core, s.op? s.arg.a = some o → o.kind = .enqueue q core →
      (placeable s q.ifc core = true → exec .launchEnqueue s = .next (put (s.dropOp o.id) q core)) ∧
      (placeable s q.ifc core = false →
        ∀ c, bestCore (s.dropOp o.id) (openCores (s.dropOp o.id) q.ifc (placement q.lb)) = some c →
          exec .launchEnqueue s = .next (put (s.dropOp o.id) q c))) ∧
    (∀ q, s.heldQ.find? (·.id == s.arg.a) = some q → q.st ≠ 1 → q.evict = false →
      let u := { s with heldQ := s.heldQ.filter (·.id != q.id) }
      (∀ core, bestCore u (openCores u q.ifc (placement q.lb)) = some core → exec .heldEntryPlace s = .next (put u q core)) ∧
      (bestCore u (openCores u q.ifc (placement q.lb)) = none → exec .heldEntryPlace s = .next s)) ∧
    (∀ q, s.heldQ.find? (·.id == s.arg.a) = some q → q.st = 1 ∨ q.evict = true →
      let u := { s with heldQ := s.heldQ.filter (·.id != q.id) }
      let v := if q.st = 1 then placeCapable u q ((placement q.lb).getD 0 0) else placeRecord u q none
      exec .heldEntryPlace s = .next (if v.heldQ.any (·.id == q.id) then s else v)) ∧
    (∀ q, (s.core s.arg.a).queue.find? (·.id == s.arg.b) = some q → q.pend = true →
      (startFails s q = none → sat s q.lb.wstart = true →
        exec .startWitnessSatisfied s = .next (s.modCore s.arg.a fun k =>
          { k with queue := k.queue.map fun x => if x.id == q.id then
              { x with pend := false, rtick := x.met.getD s.tick, met := none, age := (s.core s.arg.a).committed } else x })) ∧
      (startFails s q = none → sat s q.lb.wstart = false → exec .startWitnessSatisfied s = .next s) ∧
      (startFails s q = some .wpoison →
        exec .startWitnessSatisfied s = .next (containEntry (unqueue s s.arg.a q.id) q s.arg.a Code.wpoison.num 0 0))) ∧
    ((s.core s.arg.a).run = none → (∃ m, m < 8 ∧ (s.ctx (s.arg.a * 8 + m)).st = .ready) →
      ∃ t n, exec .schedulerPick s = .next t ∧ n < 8 ∧
        let cid := s.arg.a * 8 + n
        (s.ctx cid).st = .ready ∧
        (∀ m, m < 8 → (s.ctx (s.arg.a * 8 + m)).st = .ready → (s.ctx (s.arg.a * 8 + m)).epri < (s.ctx cid).epri ∨
          ((s.ctx (s.arg.a * 8 + m)).epri = (s.ctx cid).epri ∧ (s.ctx cid).rtick ≤ (s.ctx (s.arg.a * 8 + m)).rtick)) ∧
        (t.core s.arg.a).run = some n ∧ (t.ctx cid).st = (if (s.ctx cid).resume.isSome then .inHandler else .running) ∧
        (t.ctx cid).epri = (s.ctx cid).lb.prio ∧ (t.ctx cid).pc = (s.ctx cid).pc ∧ (∀ m, m ≠ cid → t.ctx m = s.ctx m)) ∧
    ((s.core s.arg.a).run ≠ none ∨ (∀ m, m < 8 → (s.ctx (s.arg.a * 8 + m)).st ≠ .ready) → exec .schedulerPick s = .next s)) ∧
  (∀ (s : State),
    let core := s.arg.a
    let k := s.core core
    let may := fun (x : QEntry) => x.pend = false ∧ (x.evict = true → x.topped = true)
    (1024 ≤ core ∨ k.moving ≠ none ∨ freeContext s core = none ∨ (∀ x ∈ coreEntries s core, ¬ may x) → exec .admission s = .next s) ∧
    ∀ (q : QEntry) (cid : Nat) (bs : List Byte) (lat : Machine.Lat) (off : Nat), core < 1024 → k.moving = none → k.own = some q.ifc →
    q ∈ coreEntries s core → q.pend = false → q.evict = false → freeContext s core = some cid →
    (∀ x ∈ coreEntries s core, may x → x = q ∨ x.prio < q.prio ∨ (x.prio = q.prio ∧ q.rtick < x.rtick)) →
    (∀ x ∈ coreEntries s core, may x → x.prio = 6 → 6 ≤ x.lb.prio) →
    capable k q.lb = true → poolsHold s core q.lb = true → (∀ g, some g ∈ q.lb.ge → allotted s (dieOf core) g q.ifc = true) →
    loadVa (unqueue s core q.id) q.ifc q.lb.image.toNat 64 = .ok bs → imageHeader (leNat bs) = some (lat, off) →
    ∃ t, exec .admission s = .next t ∧ (t.core core).queue = k.queue.filter (·.id != q.id) ∧
      let c := t.ctx cid
      c.st = .ready ∧ c.ifc = q.ifc ∧ c.tseq = q.tseq ∧ c.pc = q.lb.entry ∧ c.cont = q.lb.cont ∧ c.bi = q.bi ∧ c.bm = q.bm ∧ c.lat = lat ∧
        tget 0 c.s 0 = q.lb.arg ∧
        tget 0 c.s 1 = BitVec.ofNat 64 (q.ifc * 2 ^ 58 + core * 2 ^ 48 + cid % 8 * 2 ^ 45 + q.tseq % 2 ^ 40) ∧
        (∀ n, 1 < n → tget 0 c.s n = 0) ∧ c.k = 1 ∧ c.w = [] ∧ c.v0.r = [] ∧ c.acc = [] ∧ c.resume = none ∧
        c.pages.length = q.lb.spp ∧ (∀ p ∈ c.pages, p.st = .zero) ∧ (∀ n, n ≠ cid → t.ctx n = s.ctx n))

/-- R114, R115, R119, R121, R122, R130, R260, R381: 8,192 commits raise what stayed ready or queued by one level; a wait that holds ends,
at the tick since which it held, one on a poisoned witness with a fault; a top-up fills the budgets of its task, up to their width,
wherever the task is; an `exit` that waited for queue space is tried again once an entry is free in every set.
Completes: `priorityAging`, `contextWake`, `exitQueueRetry`, `budgetTopupApply`.
R106, R120, R248, R387, R421: a context whose eviction has begun, of which nothing is in flight and whose pages the mesh lets cross, is
written to its save area, its registers first, then its retained pages; its context is free afterwards and its record is placed. A save
that fails is fatal to the task. The dump of a context that a freeze stopped is written once nothing of it is in flight. M operations that
an engine fault holds end first (log entry 121).
Completes: `evictionSaveDone`. -/
def Obligations.WaitsBudgetsEvictions : Prop :=
  (∀ (s : State),
    (let k := s.core s.arg.a
     let up := fun (q : QEntry) => if q.pend = false ∧ q.prio < 6 ∧ q.age + 8192 ≤ k.committed then
       { q with prio := q.prio + 1, age := q.age + 8192 } else q
     ∃ t, exec .priorityAging s = .next t ∧ (t.core s.arg.a).queue = k.queue.map up ∧ t.mem = s.mem ∧
       ∀ n, n < 8 →
         let c := s.ctx (s.arg.a * 8 + n)
         t.ctx (s.arg.a * 8 + n) = if c.st = .ready ∧ c.epri < 6 ∧ c.age + 8192 ≤ k.committed then
           { c with epri := c.epri + 1, age := c.age + 8192 } else c) ∧
    (let a := s.arg.a
     let c := s.ctx a
     let ready := fun (c : Ctx) => { c with st := .ready, rtick := c.met.getD s.tick, met := none, age := (s.core (coreOf a)).committed }
     let woken := fun (c : Ctx) => exec .contextWake s = .next (s.setCtx a (ready c))
     (c.st ≠ .waiting → exec .contextWake s = .next s ∧ exec .exitQueueRetry s = .next s) ∧
     (c.st = .waiting →
       (c.queued ≠ [] → c.resume = none → woken c) ∧
       (c.queued = [] ∨ c.resume ≠ none →
         (c.wait = .none → woken c) ∧
         (∀ r, c.wait = .witness r → (tget {} c.w r).pend = none →
           (wPsn (tget {} c.w r).val = false → sat s (tget {} c.w r).val = true → woken c) ∧
           (wPsn (tget {} c.w r).val = true → wNull (tget {} c.w r).val = false →
             woken { c with wakeFault := some { cls := 1, code := Code.wpoison.num } })) ∧
         (∀ b, c.wait = .barrier b → (tget {} c.b b).arm = false ∨ (tget {} c.b b).done = true → woken c) ∧
         (∀ e, c.wait = .group e → (∀ o ∈ s.ops, o.own.cid = a → o.own.uid = c.uid → ∀ g, o.kind = .gld g → g.e ≠ e) → woken c) ∧
         (c.wait = .ring → ringMet s a = true → woken { c with rrp := (s.core (coreOf a)).ringCount }) ∧
         (c.wait = .budget → c.topped = true → woken c) ∧
         (∀ r, c.wait = .topup (.witness r) → c.topped = true → (tget {} c.w r).pend = none → wPsn (tget {} c.w r).val = false →
           sat s (tget {} c.w r).val = true → woken { c with wait := .witness r }) ∧
         (waitMet s a c.wait = false → (∀ x, c.wait ≠ .topup x) → exec .contextWake s = .next s)) ∧
       (c.wait = .queue [] → exec .exitQueueRetry s = .next (s.setCtx a (ready c))) ∧
       (c.wait ≠ .queue [] → exec .exitQueueRetry s = .next s))) ∧
    (∀ o ifc tseq i m, s.op? s.arg.a = some o → o.kind = .topup ifc tseq i m →
      ∃ t, exec .budgetTopupApply s = .next t ∧ t.op? o.id = none ∧ t.mem = s.mem ∧
        (∀ cid, cid < 8192 → (s.ctx cid).ifc = ifc → (s.ctx cid).tseq = tseq → (s.ctx cid).st ≠ .free → (s.ctx cid).st ≠ .frozen →
          (t.ctx cid).bi = min ((s.ctx cid).bi + i) (2 ^ 32 - 1) ∧ (t.ctx cid).bm = min ((s.ctx cid).bm + m) (2 ^ 40 - 1) ∧
          (t.ctx cid).exh = false ∧ (t.ctx cid).topped = true ∧ (t.ctx cid).pc = (s.ctx cid).pc) ∧
        ∀ n, (t.core n).queue = (s.core n).queue.map fun q => if q.ifc = ifc ∧ q.tseq = tseq then
          { q with bi := min (q.bi + i) (2 ^ 32 - 1), bm := min (q.bm + m) (2 ^ 40 - 1), topped := true } else q)) ∧
  (∀ (s : State),
    let a := s.arg.a
    let u := if (s.ctx a).st = .frozen ∨ (s.ctx a).evicting = true then dropHeld s a else s
    let c := u.ctx a
    ((s.ctx a).st = .frozen ∨ (s.ctx a).evicting = true →
      ∀ o ∈ u.ops, o ∈ s.ops ∧ ¬ (o.own.cid = a ∧ o.own.uid = (s.ctx a).uid ∧ o.held = true)) ∧
    (saveQuiet u a = false ∨ (c.st ≠ .frozen ∧ c.st ≠ .evicted) → exec .evictionSaveDone s = .next u) ∧
    (saveQuiet u a = true → c.st = .frozen → c.dying = true →
      ∃ t, exec .evictionSaveDone s = .next t ∧ (t.ctx a).dying = false ∧ (t.ctx a).st = .frozen) ∧
    (saveQuiet u a = true → c.st = .evicted → c.evicting = true → backOpen u a = true →
      (∀ e, saveCtx (landScales u a true) a = .error e → exec .evictionSaveDone s = .next (saveFails (landScales u a true) a e.1 e.2)) ∧
      ∀ t, saveCtx (landScales u a true) a = .ok t →
        exec .evictionSaveDone s = .next (saveDone t a) ∧
        ((t.ctx a).dying = false → (saveDone t a).ctx a = {}) ∧
        ((t.ctx a).dying = false → ownedCores t (recordOf (t.ctx a) t.nextId (dieOf (coreOf a)) t.tick) ≠ [] →
          ((saveDone t a).heldQ ++ ((saveDone t a).cores.flatMap fun k => k.2.queue ++ k.2.reserved.filterMap (·.2))).any
            (fun q => q.evict && q.lb == (t.ctx a).lb && q.tseq == (t.ctx a).tseq) = true)))

/-! ### Memory after commit -/

/-- R251, R270, R276, R295, R301, R310, R349: a store whose inputs are satisfied (at a home: at a tick after theirs), which no older store of its task meets and which nothing
holds at its homes, writes its pieces of this part, each through its view and into the core's own copy of the line, with the perform tick
joined to its witness, and ends unless pieces of it are still on the fabric; its pieces for other parts are sent first, cut at lines.
What a write left in the other view goes when it has performed there too. One piece of device memory, spelt out: those bytes, no others.
Completes: `storePerform`, `writePerformedInBothViews`.
R279, R280, R281: an atomic, integer or `.f32`, at its home in device memory, which nothing holds up: the word takes the new value of
its function, the old value arrives, extended by the type, for the register that awaits it, and the operation ends; on a word with a mark
it writes nothing and fails with a fault (R279), and a remote one is sent once to its home.
Completes: `atomicPerform`. -/
def Obligations.StoresPerform : Prop :=
  ((∀ (s : State) (o : Op) (x : StoreOp), s.op? s.arg.a = some o → o.kind = .store x →
    let here := x.left.filter (!·.loc.isGlob)
    let far := x.left.filter (·.loc.isGlob)
    let u := here.foldl (fun s p => l1Write (writeView s o.id o.own x.sw p) (coreOf o.own.cid) p) s
    let acc := here.foldl (fun w p => wMerge w (mkWit (scopeOf p.loc) false false s.tick)) x.acc
    let v := u.setOp o.id (.store { x with left := far, acc := acc })
    let home := wNull o.win = true ∨ (sat s o.win = true ∧ wTick o.win < s.tick)
    let held := ¬ home ∨ olderMeets s o (here.map (·.seg)) = true ∨ writeHeld s (coreOf o.own.cid) (here.map (·.seg)) = true
    (far ≠ [] → x.await = 0 → olderMeets s o (far.map (·.seg)) = false → exec .storePerform s = .next (sendStore s o x far)) ∧
    (far ≠ [] → x.await = 0 → olderMeets s o (far.map (·.seg)) = true → exec .storePerform s = .next s) ∧
    (far = [] ∨ x.await ≠ 0 → here = [] ∨ held → exec .storePerform s = .next s) ∧
    (far = [] → x.await = 0 → here ≠ [] → ¬ held →
      exec .storePerform s = .next ((v.account o.own false (wMerge acc o.win)).finish o (wMerge acc o.win))) ∧
    (x.await ≠ 0 → here ≠ [] → ¬ held → exec .storePerform s = .next v)) ∧
  (∀ (s : State) (o : Op) (x : StoreOp) (a : Nat) (bs : List Byte), s.op? s.arg.a = some o → o.kind = .store x →
    x.left = [⟨.glob a, bs⟩] → x.await = 0 → bs ≠ [] → a % 256 + bs.length ≤ 256 → olderMeets s o [⟨.glob a, bs.length⟩] = false →
    exec .storePerform s = .next ((fabRequest s o.id 0 (fld a 62 51)
      { kind := .store, tag := tagOf s o.own.ifc, off := fld a 50 0, len := bs.length, data := bs, wit := o.win } (a / 256)).setOp o.id
        (.store { x with await := 1 }))) ∧
  (∀ (s : State) (o : Op) (x : StoreOp) (a : Nat) (bs : List Byte), s.op? s.arg.a = some o → o.kind = .store x →
    x.left = [⟨.dev a, bs⟩] → x.await = 0 → satHome s o.win = true → olderMeets s o [⟨.dev a, bs.length⟩] = false →
    writeHeld s (coreOf o.own.cid) [⟨.dev a, bs.length⟩] = false →
    ∃ t, exec .storePerform s = .next t ∧ t.op? o.id = none ∧ (∀ i, i < bs.length → memGet t.mem (a + i) = bs.getD i 0) ∧
      (∀ b, b < a ∨ a + bs.length ≤ b → memGet t.mem b = memGet s.mem b) ∧ t.spad = s.spad ∧ t.ringMem = s.ringMem ∧
      t.hostMem = s.hostMem ∧ (∀ n, { t.ctx n with w := (s.ctx n).w, wsto := (s.ctx n).wsto } = s.ctx n) ∧ t.ifcs = s.ifcs) ∧
  ∀ s : State, exec .writePerformedInBothViews s = .next { s with views := s.views.filter (·.id != s.arg.a) }) ∧
  (∀ (s : State) (o : Op) (x : AtomicOp), s.op? s.arg.a = some o → o.kind = .atomic x →
    let n := tySize x.ty
    let g : Seg := ⟨x.loc, n⟩
    (olderMeets s o [g] = true → exec .atomicPerform s = .next s) ∧
    (olderMeets s o [g] = false →
      (∀ a, x.loc = .glob a →
        (x.sent = true → exec .atomicPerform s = .next s) ∧
        (x.sent = false → exec .atomicPerform s = .next (fabRequest (s.setOp o.id (.atomic { x with sent := true })) o.id 0 (fld a 62 51)
          { kind := .atomic, tag := tagOf s o.own.ifc, off := fld a 50 0, len := n, op := x.fn, ty := x.ty.toNat + (if x.f then 8 else 0),
            v := x.v, cmp := x.cmp, wit := o.win } (a / 256)))) ∧
      (x.loc.isGlob = false →
        (delivered s o.id = false ∨ satHome s o.win = false ∨ writeHeld s (coreOf o.own.cid) [g] = true → exec .atomicPerform s = .next s) ∧
        (delivered s o.id = true → satHome s o.win = true → writeHeld s (coreOf o.own.cid) [g] = false →
          (∀ c b, badSeg s 0 [g] = some (c, b) → exec .atomicPerform s = .next (atomicFails (markPoison s [g]) o x c.num)) ∧
          ∀ a, x.loc = .dev a → a % n = 0 → badSeg s 0 [g] = none →
            let w := 8 * n
            let m := leNat (memRead s.mem a n)
            let v := x.v.toNat % 2 ^ w
            let least := if intOf (x.ty < 4) w m ≤ intOf (x.ty < 4) w v then m else v
            let most := if intOf (x.ty < 4) w m ≤ intOf (x.ty < 4) w v then v else m
            ∃ t, exec .atomicPerform s = .next t ∧ t.op? o.id = none ∧
              (x.f = false → x.fn < 8 → leNat (memRead t.mem a n) =
                ([(m + v) % 2 ^ w, least, most, m &&& v, m ||| v, m ^^^ v, v, if m = x.cmp.toNat % 2 ^ w then v else m].getD x.fn 0)) ∧
              (x.f = true → x.fn < 3 → x.ty.toNat % 4 = 2 → leNat (memRead t.mem a n) = atomNew x.fn true x.ty m x.v.toNat x.cmp.toNat) ∧
              (∀ b, b < a ∨ a + n ≤ b → memGet t.mem b = memGet s.mem b) ∧ t.spad = s.spad ∧
              (s.holds? o.own = true → ∀ l ∈ (s.ctx o.own.cid).landing, l.late = some o.id →
                { l with val := (ext64 x.ty m).zeroExtend 2048, late := none } ∈ (t.ctx o.own.cid).landing)))))

/-- R268, R269, R271, R274, R275, R278, R396, R402, R445: the caches change no memory. The sectors of a line of this part that were asked for
fill L1 from its home, with the tick of the fill (a copy that is there keeps its own); a line of another part is asked for once from its home;
a line past its life leaves; a cluster changes its mode with its caches empty, once no line of it is awaited; a sector fills its slice, once a
way is free, an error is counted by its class and unit and one that is uncorrectable is marked, and a fill that no read asked for poisons a
sector known to be bad; a walk that succeeds installs its leaf, and one that fails installs nothing. Sectors that are bad stay out of L1 (log
entry 119).
Completes: `l1Fill`, `l1LineExpiry`, `l1ModeChange`, `l2Fill`, `translationWalk`.
R106, R188, R190, R246, R340: a refill that was asked for brings a page from its backing, across a mesh whose slots are open, after
which the page is present; a backing that cannot be read contains the task; a page whose task has ended and that an engine still uses
takes its bytes as well. The first chunk that a port lacks of the next eight arrives in its place.
Completes: `pageRefillComplete`, `portChunkArrival`. -/
def Obligations.CachesAndFills : Prop :=
  (∀ (s : State),
    let a := s.arg.a
    let away := fun (o : Op) => match o.kind with | .rload c .. => stationOf c == a | _ => false
    let pa := a / 64 * 64
    let u := { s with l2 := l2Touch s.l2 (pa / 256) (secMask pa 64) 0 }
    (s.op? a = none → exec .l1Fill s = .next s) ∧
    (∀ o core line lo n p, s.op? a = some o → o.kind = .rload core line lo n p →
      (2 ^ 55 ≤ line →
        (s.fab.sends.any (·.op == o.id) = true → exec .l1Fill s = .next s) ∧
        (s.fab.sends.any (·.op == o.id) = false → exec .l1Fill s = .next (fabRequest s o.id 0 (fld (line * 256 + lo * 64) 62 51)
          { kind := .load, tag := tagOf s o.own.ifc, off := fld (line * 256 + lo * 64) 50 0, len := 64 * n, wit := o.win } line))) ∧
      (line < 2 ^ 55 → delivered s o.id = false ∨ satHome s o.win = false ∨ l2Full s.l2 line = true → exec .l1Fill s = .next s) ∧
      (line < 2 ^ 55 → delivered s o.id = true → satHome s o.win = true → l2Full s.l2 line = false →
        ∃ t, exec .l1Fill s = .next t ∧ t.op? o.id = none ∧ t.mem = s.mem ∧ t.ctxs = s.ctxs ∧ t.spad = s.spad ∧
          ∀ q, lo ≤ q → q < lo + n → secFault s (line * 256 + q * 64) = none →
            ∃ x, (t.core (l1Core s core line)).l1.head? = some x ∧ x.line = line ∧ x.glob = false ∧ x.bad = false ∧
              (l1Find s core line false o.win = none → x.tick = s.tick ∧ (q, memRead s.mem (line * 256 + q * 64) 64) ∈ x.secs) ∧
              (∀ y, l1Find s core line false o.win = some y → x.tick = y.tick ∧ (∀ k ∈ y.secs, k ∈ x.secs) ∧
                ((∀ k ∈ y.secs, k.1 ≠ q) → (q, memRead s.mem (line * 256 + q * 64) 64) ∈ x.secs)))) ∧
    (∃ t, exec .l1LineExpiry s = .next t ∧ (∀ x ∈ (t.core a).l1, x ∈ (s.core a).l1 ∧ (x.line = s.arg.b → l1Live s x = true)) ∧
      (∀ x ∈ (s.core a).l1, x.line ≠ s.arg.b ∨ l1Live s x = true → x ∈ (t.core a).l1) ∧ t.mem = s.mem ∧ t.ctxs = s.ctxs) ∧
    ((s.stn a).fusePend = none ∨ s.ops.any away = true → exec .l1ModeChange s = .next s) ∧
    (∀ b, (s.stn a).fusePend = some b → s.ops.any away = false →
      ∃ t, exec .l1ModeChange s = .next t ∧ (t.stn a).fused = b ∧ (t.stn a).fusePend = none ∧
        (∀ k, k < 4 → (t.core (a * 4 + k)).l1 = []) ∧ t.mem = s.mem ∧ t.spad = s.spad) ∧
    (tierOk s (pa / 2 ^ 44) (pa % 2 ^ 44) 64 = false ∨ l2Full s.l2 (pa / 256) = true → exec .l2Fill s = .next s) ∧
    (tierOk s (pa / 2 ^ 44) (pa % 2 ^ 44) 64 = true → l2Full s.l2 (pa / 256) = false →
      let stack := 3 * (pa / (192 * 2 ^ 30)) + pa / 256 % 3
      let channel := (pa - 2 ^ 44) / 2 ^ 38
      let bad := { u with ue := s.ue ++ [a / 64].filter (!s.ue.contains ·) }
      (s.arg.flag = true → s.arg.b = 1 → exec .l2Fill s = .next (if pa < 2 ^ 44 then dillAdd u 6 stack else dillAdd u 8 channel)) ∧
      (s.arg.flag = true → s.arg.b = 2 → exec .l2Fill s = .next (dillAdd bad 1 (homeDie pa * 512 + sliceOf pa))) ∧
      (s.arg.flag = true → s.arg.b = 3 → exec .l2Fill s = .next (dillAdd u 0 (homeDie pa * 512 + sliceOf pa))) ∧
      (s.arg.flag = true → s.arg.b ∉ [1, 2, 3] → exec .l2Fill s = .next (if pa < 2 ^ 44 then dillAdd bad 7 stack else dillAdd bad 9 channel)) ∧
      (s.arg.flag = false → exec .l2Fill s = .next (markPoison u [⟨.dev pa, 64⟩]))) ∧
    (walkIfc s a = none ∨ kindOf s.arg.b ≠ 0 → exec .translationWalk s = .next s) ∧
    (∀ ifc, walkIfc s a = some ifc → kindOf s.arg.b = 0 →
      let w : Who := { core := a, ifc := ifc, pages := [] }
      (∀ x, walk s ifc s.arg.b = .error x →
        ∃ t, exec .translationWalk s = .next t ∧ t.cores = s.cores ∧ t.stations = s.stations ∧ t.mem = s.mem ∧ t.ctxs = s.ctxs) ∧
      ∀ e lvl, walk s ifc s.arg.b = .ok (e, lvl) →
        exec .translationWalk s = .next (installXlat (noteCe s (walkSegs s w s.arg.b)) w
          { ifc := ifc, va := s.arg.b / pageSize lvl * pageSize lvl, size := pageSize lvl, pte := BitVec.ofNat 64 e, gen := xlatGen s ifc }))) ∧
  (∀ (s : State),
    let a := s.arg.a
    let c := s.ctx a
    (∀ p, s.arg.flag = false → c.pages[s.arg.b]? = some p → p.st = .fill → s.arg.b ∈ c.refill → c.st ≠ .free →
      (∀ src, resolve s (portWho (coreOf a) c.ifc) { loc := false } false (backingVa c.lb s.arg.b) 65536 = .ok src →
        (crossesTo s c.ifc src (.sp (cidStation a * 2 ^ 21)) = false → exec .pageRefillComplete s = .next s) ∧
        (crossesTo s c.ifc src (.sp (cidStation a * 2 ^ 21)) = true →
          ∃ t, exec .pageRefillComplete s = .next t ∧ (t.ctx a).pages[s.arg.b]? = some { p with st := .present } ∧
            (t.ctx a).refill = c.refill.erase s.arg.b ∧
            t.spad = (writeSegs s (pageSegs (cidStation a) p.phys) (readSegs s src)).spad ∧
            (p.phys < 32 → (∀ q ∈ c.pages, q.phys = p.phys → q.st ≠ .zero) → ∀ j, j ≠ s.arg.b → (t.ctx a).pages[j]? = c.pages[j]?) ∧
            (t.ctx a).s = c.s ∧ t.mem = s.mem)) ∧
      ∀ e x, resolve s (portWho (coreOf a) c.ifc) { loc := false } false (backingVa c.lb s.arg.b) 65536 = .error (e, x) →
        let f : Flt := { cls := 1, code := e.num, addr := BitVec.ofNat 64 x, tick := s.tick }
        exec .pageRefillComplete s = .next (contain (noteWalk s (portWho (coreOf a) c.ifc) x) a f true false)) ∧
    (∀ p, s.arg.flag = false → c.pages[s.arg.b]? = some p → p.st ≠ .fill ∨ s.arg.b ∉ c.refill ∨ c.st = .free →
      exec .pageRefillComplete s = .next s) ∧
    (s.arg.flag = false → c.pages[s.arg.b]? = none → exec .pageRefillComplete s = .next s) ∧
    (∀ x src, s.arg.flag = true → ((s.stn a).orphans.find? fun x => x.phys == s.arg.b && x.asked) = some x →
      resolve s (portWho (a * 4) x.ifc) { loc := false } false x.va 65536 = .ok src → crossesTo s x.ifc src (.sp (a * 2 ^ 21)) = true →
      exec .pageRefillComplete s = .next ((moveSegs (touchXlat s (portWho (a * 4) x.ifc) x.va 65536) src (pageSegs a s.arg.b)).modStn a fun t =>
        { t with orphans := t.orphans.filter (·.phys != s.arg.b) })) ∧
    let p := tget {} (c.vf s.arg.flag).ports s.arg.b
    let lacks := fun j => !p.chunks.any (·.pos == j)
    (c.st = .free ∨ c.st = .evicted ∨ c.st = .frozen ∨ p.conf = false ∨ satHome s p.wit = false ∨ (aheadOf p 8).find? lacks = none →
      exec .portChunkArrival s = .next s) ∧
    (c.st ≠ .free → c.st ≠ .evicted → c.st ≠ .frozen → p.conf = true → satHome s p.wit = true → ∀ j, (aheadOf p 8).find? lacks = some j →
      (∀ e x, resolve s (s.who a) accPort false (pAddr p j) (pBytes p.rcd) = .error (e, x) →
        ∃ t, exec .portChunkArrival s = .next t ∧ t.mem = s.mem ∧
          (tget {} ((t.ctx a).vf s.arg.flag).ports s.arg.b).chunks =
            p.chunks ++ [{ pos := j, bytes := [], fault := some (e.num, x), tick := s.tick }]) ∧
      ∀ segs u bs, resolve s (s.who a) accPort false (pAddr p j) (pBytes p.rcd) = .ok segs → (∀ g ∈ segs, ∃ x, g.loc = .dev x) →
        storePending s a segs = false → fusing s (coreOf a) = false → l2Waits s segs = false →
        l1Read (touchXlat s (s.who a) (pAddr p j) (pBytes p.rcd)) (coreOf a) p.wit segs = (u, .ok bs) →
        ∃ t k, exec .portChunkArrival s = .next t ∧ (tget {} ((t.ctx a).vf s.arg.flag).ports s.arg.b).chunks = p.chunks ++ [k] ∧
          k.pos = j ∧ k.bytes = bs ∧ k.fault = none ∧ k.tick = s.tick ∧ k.runs = segs.map runOf ∧ t.mem = s.mem))

/-- R156, R157, R296, R300: a `barv` that has arrived at the barrier of the task that it names joins its witness, counts, completes the
barrier when it is the last that is awaited, and answers with a landed witness merged with its inputs; a barrier that takes none answers
with a poisoned one, and a message not yet delivered waits. A witness that is old becomes null, which changes no answer of `sat`, and a
register that awaits one, or whose witness is not old, keeps it; so do the inputs that an operation holds.
Completes: `barrierArrival`, `witnessCollapse`. -/
def Obligations.ArrivalsAndOldWitnesses : Prop :=
  (∀ (s : State) (o : Op) (cid ifc tseq b : Nat) (w : Word), s.op? s.arg.a = some o → o.kind = .barv cid ifc tseq b w →
    (delivered s o.id = false → exec .barrierArrival s = .next s) ∧
    (delivered s o.id = true →
      (∀ u, arriveAt s cid ifc tseq b w = (u, false) →
        exec .barrierArrival s = .next (u.finish o (wMerge (mkWit 2 true false s.tick) w))) ∧
      ((s.ctx cid).st ≠ .free → (s.ctx cid).st ≠ .evicted → (s.ctx cid).ifc = ifc → (s.ctx cid).tseq = tseq →
        let x := tget {} (s.ctx cid).b b
        x.arm = true → x.done = false → x.arr.toNat + 1 < 2 ^ 12 →
        ∃ t, exec .barrierArrival s = .next t ∧ t.op? o.id = none ∧
          let y := tget {} (t.ctx cid).b b
          y.w = wMerge x.w w ∧ y.arr.toNat = x.arr.toNat + 1 ∧ y.done = decide (x.exp.toNat = x.arr.toNat + 1) ∧
            (y.done = true → y.gen = x.gen + 1) ∧
            (∀ r, o.wo = some r → s.holds? o.own = true → (tget {} (s.ctx o.own.cid).w r).pend = some o.id →
              tget {} (t.ctx o.own.cid).w r = { val := wNorm (wMerge (mkWit 2 false false s.tick) w) }) ∧
            (t.ctx cid).s = (s.ctx cid).s ∧ t.mem = s.mem))) ∧
  ∀ (s : State),
    let x := tget {} (s.ctx s.arg.a).w s.arg.b
    (s.arg.flag = false → x.pend ≠ none ∨ oldWit s x.val = false → ∃ t, exec .witnessCollapse s = .next t ∧ ∀ n, t.ctx n = s.ctx n) ∧
    (s.arg.flag = false → x.pend = none → oldWit s x.val = true →
      ∃ t, exec .witnessCollapse s = .next t ∧ tget {} (t.ctx s.arg.a).w s.arg.b = {} ∧ sat s x.val = true ∧
        (∀ r, r ≠ s.arg.b → tget {} (t.ctx s.arg.a).w r = tget {} (s.ctx s.arg.a).w r) ∧ (∀ n, n ≠ s.arg.a → t.ctx n = s.ctx n)) ∧
    (s.arg.flag = true → ∃ t, exec .witnessCollapse s = .next t ∧ t.ctxs = s.ctxs ∧
      t.ops = s.ops.map fun o => if o.id = s.arg.a ∧ oldWit s o.win = true then { o with win := 0 } else o)

/-! ### The matrix engine and the die's power -/

/-- R215, R228, R229, R235, R236, R437–R439: the next block of the multiply at the head of a core's array is fetched once nothing holds it
up, its lines pinned in order as far as ways are free and, once they are all there, its units asked for, unless they are granted already; a die grants the blocks asked of it, in the order of R439, that its remainder
covers, and charges each: its units join TOT and the cycles for which it was held join THR, in units of 1,024; a new period sets the budget
from the envelope, which a change takes at the first period 1 ms after its request, and the start-up eighths.
Completes: `matrixBlockPowerRequest`, `powerGrantDecision`, `accountingPeriodStart`. -/
def Obligations.Power : Prop :=
  ∀ (s : State),
    let d := s.arg.a
    (arrayOp s d = none → exec .matrixBlockPowerRequest s = .next s) ∧
    (∀ o m, arrayOp s d = some (o, m) →
      let segs := ((nextBlock m).1 ++ (nextBlock m).2).flatten
      let idle := m.asked ≠ none ∨ (m.blk < m.granted ∧ blockHere m = true) ∨ m.blocks ≤ m.blk ∨ tileFree s o m = false ∨
        regBad s o m = true ∨ badBlock s m ≠ none ∨ readOpen s o segs = false
      let x := fetchBlock s m
      (idle → exec .matrixBlockPowerRequest s = .next s) ∧
      (¬ idle → x.wait = true ∨ m.blk < m.granted →
        exec .matrixBlockPowerRequest s = .next (x.s.setOp o.id (.m { m with pins := x.pins, got := x.got }))) ∧
      (¬ idle → x.wait = false → m.granted ≤ m.blk → (∀ n ∈ devLines ((nextBlock m).1 ++ (nextBlock m).2), n ∈ x.got) ∧
        exec .matrixBlockPowerRequest s = .next (x.s.setOp o.id
          (.m { m with asked := some (askUnits s m), askTick := s.now, heldPeriods := 0, pins := x.pins, got := x.got })))) ∧
    (∃ t, exec .powerGrantDecision s = .next t ∧ t.mem = s.mem ∧
      (t.die d).left = (dieAsks s d).foldl (fun n p => if n < p.2.2 then n else n - p.2.2) (s.die d).left) ∧
    ((∀ p ∈ dieAsks s d, (s.die d).left < p.2.2) → exec .powerGrantDecision s = .next s) ∧
    (∀ o m u rest, dieAsks s d = (o, m, u) :: rest → u ≤ (s.die d).left → (∀ p ∈ rest, (s.die d).left - u < p.2.2) →
      s.holds? o.own = true →
      let x := s.ctx o.own.cid
      let held := x.mxHeld + (s.cycle - m.askTick * 9 / 20)
      ∃ t, exec .powerGrantDecision s = .next t ∧ (t.die d).left = (s.die d).left - u ∧
        t.ops = (s.setOp o.id (.m { m with asked := none, granted := m.blk + 1, units := m.units + u })).ops ∧
        (t.ctx o.own.cid).mxPwr.toNat / 2 ^ 16 % 2 ^ 32 = min (x.mxPwr.toNat / 2 ^ 16 % 2 ^ 32 + u) (2 ^ 32 - 1) ∧
        (m.asked ≠ none → (t.ctx o.own.cid).mxHeld = held ∧ (t.ctx o.own.cid).mxPwr.toNat / 2 ^ 48 = min (held / 1024) 65535)) ∧
    let k := s.cycle / 1024
    let due := s.plat.envNext.filter fun x => decide (x.2 + 4000000 ≤ k * 1024 * 20 / 9)
    let env := match due.getLast? with
      | some x => x.1
      | none => s.plat.envelope
    (4 ≤ d ∨ k ≤ (s.die d).period → exec .accountingPeriodStart s = .next s) ∧
    (d < 4 → (s.die d).period < k →
      ∃ t, exec .accountingPeriodStart s = .next t ∧ (t.die d).period = k ∧ t.plat.envelope = env ∧
        (∀ x ∈ t.plat.envNext, x ∈ s.plat.envNext ∧ x ∉ due) ∧ (t.die d).left = (t.die d).budget ∧ t.mem = s.mem ∧ (dieAsks s d = [] → t.ops = s.ops) ∧
        (s.plat.arrays = false → (t.die d).budget = 0) ∧
        ∀ w n, (w, n) ∈ [(4800, 2097152), (4000, 1316816), (3200, 536480)] → env = w → s.plat.arrays = true →
          (t.die d).budget = n * s.plat.eighths / 8)

/-- R89, R215, R224, R227, R231–R233, R236–R239: what the engine does to the tiles of a task in its context, once an operation's turn has
come: a granted block folds into the tile, and the last one ends the multiply and reports its flags; a drained row arrives for `mrow`,
and is zeroed where asked; rows are stored with their flags and their witness, and loaded; a tile is zeroed or copied; scale bytes land in
their register at their bundle; and bad data, or a register
with an uncorrectable error, stop an operation with an engine fault, which reports what it had folded or loaded, holds the
younger operations of the task and counts them.
Completes: `mmaPerform`, `mdrnPerform`, `mstPerform`, `mldPerform`, `tileOpPerform`, `msclLanding`, `engineFault`. -/
def Obligations.MatrixPerforms : Prop :=
  ∀ (s : State) (o : Op), s.op? s.arg.a = some o → s.holds? o.own = true →
    let c := s.ctx o.own.cid
    let younger := fun (x : Op) => x.id != o.id && !((olderOps s o).map (·.id)).contains x.id && x.own.cid == o.own.cid &&
      x.own.uid == o.own.uid && x.mOpen && !x.held
    (∀ m s1 s2 ba bb, o.kind = .m m → m.onArray = true → o.held = false → m.blk < m.granted → m.blk < m.blocks → arrayTurn s o = true →
      tileFree s o m = true → blockHere m = true → regBad s o m = false → badBlock s m = none →
      readOpen s o ((nextBlock m).1 ++ (nextBlock m).2).flatten = true → readLines s m.tda o.win (nextBlock m).1 = (s1, ba) → readLines s1 m.tdb o.win (nextBlock m).2 = (s2, bb) →
      let acc := if m.zero && m.blk == 0 then (zeroTile c m.acc).acc else c.acc
      let r := foldBlock m.fa m.fb m.sa m.sb (m.ka / 32 + m.blk) (m.kb / 32 + m.blk) ba bb acc (m.acc * 128)
      ∃ t, exec .mmaPerform s = .next t ∧ (t.ctx o.own.cid).acc = r.1 ∧ t.mem = s.mem ∧ t.spad = s.spad ∧
        (∀ n, n ≠ o.own.cid → t.ctx n = s.ctx n) ∧
        (m.blk + 1 < m.blocks → ∃ o', t.op? o.id = some o' ∧
          o'.kind = .m { m with blk := m.blk + 1, pins := m.pins.filter (laterLines m).contains, fl := m.fl ||| r.2.zeroExtend 8,
                                prevA := (ba.headD []).take 8, prevB := (bb.headD []).take 8 }) ∧
        (m.blk + 1 = m.blocks → t.op? o.id = none ∧
          (t.ctx o.own.cid).mxStat = c.mxStat ||| (m.fl ||| r.2.zeroExtend 8).zeroExtend 64 ∧
          (t.ctx o.own.cid).mxPwr.toNat % 2 ^ 16 = min m.units 16384)) ∧
    (∀ m, o.kind = .m m → m.kind = .mdrn → o.held = false → tileFree s o m = true → regBad s o m = false →
      ∃ t, exec .mdrnPerform s = .next t ∧ t.op? o.id = none ∧
        (∀ l ∈ c.landing, l.late = some o.id → { l with val := tget 0 c.acc (m.acc * 128 + m.row), late := none } ∈ (t.ctx o.own.cid).landing) ∧
        tget 0 (t.ctx o.own.cid).acc (m.acc * 128 + m.row) = (if m.clr then 0 else tget 0 c.acc (m.acc * 128 + m.row)) ∧
        ∀ k, k ≠ m.acc * 128 + m.row → tget 0 (t.ctx o.own.cid).acc k = tget 0 c.acc k) ∧
    (∀ m, o.kind = .m m → m.kind = .mst → o.held = false → tileFree s o m = true → regBad s o m = false → satHome s o.win = true →
      heldSegs s o m.linesA.flatten = false → writeHeld s (coreOf o.own.cid) m.linesA.flatten = false →
      let r := storeRows c m
      let ps := (m.linesA.zip r.1).flatMap fun p => piecesOf p.1 p.2
      let v := ps.foldl (fun s p => l1Write (writeView s o.id o.own (tdSwz m.tda) p) (coreOf o.own.cid) p) s
      ∃ t, exec .mstPerform s = .next t ∧ t.op? o.id = none ∧ (t.ctx o.own.cid).acc = c.acc ∧
        (t.ctx o.own.cid).mxStat = c.mxStat ||| r.2.zeroExtend 64 ∧ t.mem = v.mem ∧ t.spad = v.spad ∧ t.views = v.views ∧
        (t.ctx o.own.cid).wsto = wMerge c.wsto (ps.foldl (fun w p => wMerge w (mkWit (scopeOf p.loc) false false s.tick)) o.win)) ∧
    (∀ m s1 rows, o.kind = .m m → m.kind = .mld → o.held = false → tileFree s o m = true → regBad s o m = false → readReady s o m.linesA.flatten = true →
      badLine s (tileRows m) = none → readLines s m.tda o.win m.linesA = (s1, rows) →
      ∃ t, exec .mldPerform s = .next t ∧ t.op? o.id = none ∧ (t.ctx o.own.cid).acc = (loadRows m rows c).acc ∧ t.mem = s.mem) ∧
    (∀ m, o.kind = .m m → o.held = false → tileFree s o m = true → regBad s o m = false →
      (m.kind = .mzero → ∃ t, exec .tileOpPerform s = .next t ∧ t.op? o.id = none ∧
        (∀ r, r < 128 → tget 0 (t.ctx o.own.cid).acc (m.acc * 128 + r) = 0) ∧
        ∀ k, k / 128 ≠ m.acc → tget 0 (t.ctx o.own.cid).acc k = tget 0 c.acc k) ∧
      (m.kind = .mmov → ∃ t, exec .tileOpPerform s = .next t ∧ t.op? o.id = none ∧
        (∀ r, r < 128 → tget 0 (t.ctx o.own.cid).acc (m.acc * 128 + r) = tget 0 c.acc (m.acc2 * 128 + r)) ∧
        ∀ k, k / 128 ≠ m.acc → tget 0 (t.ctx o.own.cid).acc k = tget 0 c.acc k)) ∧
    (∀ m, o.kind = .m m → o.held = true ∨ tileFree s o m = false →
      exec .mdrnPerform s = .next s ∧ exec .mstPerform s = .next s ∧ exec .mldPerform s = .next s ∧ exec .tileOpPerform s = .next s ∧
        exec .mmaPerform s = .next s ∧ exec .engineFault s = .next s) ∧
    (∀ e va segs due v bs, o.kind = .mscl e va segs due [] → msclReady s o e segs = true → badSeg s 0 segs = none → o.own.uid = c.uid →
      (∀ p ∈ s.ops, p.id = o.id → p = o) → (∀ p ∈ s.ops, p.own.cid = o.own.cid → ∀ e va g n d, p.kind = .mscl e va g n d → d = []) →
      readIn s false o.win segs = (v, bs) → bs ≠ [] →
      ∃ t, exec .msclLanding s = .next t ∧ t.mem = s.mem ∧
        (due ≤ c.n → t.op? o.id = none ∧ (∀ i, i < bs.length → tget 0 (t.ctx o.own.cid).e (e * 1024 + i) = bs.getD i 0) ∧
          ∀ k, k < e * 1024 ∨ e * 1024 + bs.length ≤ k → tget 0 (t.ctx o.own.cid).e k = tget 0 c.e k) ∧
        (c.n < due → (t.ctx o.own.cid).e = c.e ∧ t.op? o.id = some { o with kind := .mscl e va segs due bs })) ∧
    (s.residence o.own = some o.own.cid → c.queued.length < (if c.resume.isSome then 4 else 5) → satHome s o.win = true → o.held = false →
      let n := (s.ops.filter younger).length
      let stops := fun (t : State) (f : Flt) => t.op? o.id = none ∧ t.mem = s.mem ∧ (t.ctx o.own.cid).queued = c.queued ++ [f] ∧
        ∀ x ∈ s.ops, younger x = true → ∃ y ∈ t.ops, y.id = x.id ∧ y.held = true
      let told := fun (t : State) (k : Code) (a : Word) => stops t { cls := 4, code := k.num, mask := 8, addr := a, tick := s.tick }
      (∀ m, o.kind = .m m → tileFree s o m = true → (m.onArray = true → arrayTurn s o = true) → regBad s o m = true →
        ∃ t, exec .engineFault s = .next t ∧ stops t { cls := 4, code := Code.memue.num, mask := 8, tick := s.tick, here := true } ∧
          (t.ctx o.own.cid).acc = c.acc ∧ t.spad = s.spad ∧
          (m.kind = .mdrn → (t.ctx o.own.cid).landing = c.landing.filter (·.late != some o.id))) ∧
      (∀ m k a g, o.kind = .m m → m.onArray = true → tileFree s o m = true → arrayTurn s o = true → regBad s o m = false →
        readOpen s o ((nextBlock m).1 ++ (nextBlock m).2).flatten = true → badBlock s m = some (k, a, g) →
        ∃ t, exec .engineFault s = .next t ∧ told t k a ∧
          (t.ctx o.own.cid).acc = (if m.zero && m.blk == 0 then zeroTile c m.acc else c).acc ∧
          (t.ctx o.own.cid).mxStat = c.mxStat ||| m.fl.zeroExtend 64 ∧
          (t.ctx o.own.cid).mxK = BitVec.ofNat 64 (2 ^ 63 + n % 16 * 2 ^ 59 + m.acc % 8 * 2 ^ 56 + m.j % 256 * 2 ^ 48 +
            (m.ka + 32 * m.blk) % 65536 * 2 ^ 32 + (m.kb + 32 * m.blk) % 65536 * 2 ^ 16 + m.blk % 64)) ∧
      (∀ m k a g s1 rows, o.kind = .m m → m.kind = .mld → tileFree s o m = true → regBad s o m = false →
        readReady s o m.linesA.flatten = true → badLine s (tileRows m) = some (k, a, g) →
        readLines s m.tda o.win (m.linesA.take (goodRows s m)) = (s1, rows) →
        ∃ t, exec .engineFault s = .next t ∧ told t k a ∧ (t.ctx o.own.cid).acc = (loadRows m rows c).acc ∧
          (t.ctx o.own.cid).mxK = BitVec.ofNat 64 (n % 16 * 2 ^ 59)) ∧
      (∀ e va segs due k off, o.kind = .mscl e va segs due [] → msclReady s o e segs = true → badSeg s 0 segs = some (k, off) →
        ∃ t, exec .engineFault s = .next t ∧ told t k (BitVec.ofNat 64 ((va.toNat + off) / 64 * 64)) ∧ (t.ctx o.own.cid).e = c.e ∧
          (t.ctx o.own.cid).mxK = BitVec.ofNat 64 (n % 16 * 2 ^ 59)))

/-! ### Copies, ranges and joins -/

/-- R131, R246, R253–R263, R278, R282, R298, R340, R430: a copy whose inputs are satisfied starts when its channel is free, an `mcst` with
its source read; its next tile, whose banks it locks unless another copy has (log entry 50), moves in order, when nothing holds it up, up to an
error; when all have moved, or an error stopped it, it
ends with its record and its witness; a branch of an `mcst` is written, or dropped where its task is gone; a range control and a `wb` do
their work on the lines and end; a join answers; and a write into a marked page waits while Bay shadows or drains it.
Completes: `copyStart`, `copyTileComplete`, `copyComplete`, `mcstBranchArrival`, `l2RangeComplete`, `groupJoinArrival`,
`markedPageWrite`. -/
def Obligations.CopiesRun : Prop :=
  ∀ (s : State) (o : Op), s.op? s.arg.a = some o →
    (satHome s o.win = false → exec .copyStart s = .next s ∧ exec .l2RangeComplete s = .next s ∧ exec .markedPageWrite s = .next s) ∧
    (∀ x, o.kind = .copy x → satHome s o.win = true →
      (x.started = true ∨ chanWaits s o x.core x.ch = true → exec .copyStart s = .next s) ∧
      (x.started = false → chanWaits s o x.core x.ch = false →
        exec .copyStart s = .next (lockTile
          (beginTick (takeChan (s.setOp o.id (.copy { x with started := true, last := s.tick })) x.core x.ch o) o.id) o.id))) ∧
    (∀ x v bs e, o.kind = .mcst x → satHome s o.win = true → x.started = false → chanWaits s o x.core x.ch = false →
      let src := sectorLocs s o.who ((List.range (x.len / 64)).map fun i => x.src.toNat + 64 * i)
      engineWaits s o src = false → tileLocked s x.core src = false → fillGate s (opPages o x.src.toNat x.len) = none →
      readAscending o.who false o.win (x.len / 64) x.src.toNat s = (v, bs, e) →
      exec .copyStart s = .next (sweepPages (beginTick (takeChan (v.setOp o.id
        (.mcst { x with started := true, data := overlaid (ownShift v o x) bs, stop := e })) x.core x.ch o) o.id) (cidStation o.own.cid))) ∧
    (∀ x t i e, o.kind = .copy x → x.started = true → x.stop = none → x.pos < x.total →
      let l := copyTile' x
      let dst := sectorLocs s o.who (l.map (·.1))
      let src := sectorLocs s o.who (l.map (·.2))
      heldSegs s o dst = false → lockedOut s o x = false →
      (dst.any fun g => marked s g.loc g.len) = false → engineWaits s o (dst ++ src) = false → fillGate s (physPages (dst ++ src)) = none →
      sectorsCross s o.own.ifc src dst = true → copySectors o x l.length x.pos s = (t, i, e) →
      ∃ u, exec .copyTileComplete s = .next u ∧ u.mem = t.mem ∧ u.spad = t.spad ∧ (e = none → i = x.pos + l.length) ∧
        (∃ k, u.ops = (t.setOp o.id (.copy { x with pos := i, lock := k, stop := e, last := t.tick })).ops) ∧
        ((tget {} (t.core x.core).chans x.ch).run = some o.id → (tget {} (u.core x.core).chans x.ch).wp = 64 * i)) ∧
    (∀ x, o.kind = .copy x → lockedOut s o x = true → exec .copyTileComplete s = .next s) ∧
    (∀ x, o.kind = .copy x → x.started = true →
      let w := if x.stop.isSome then wMerge (mkWit (opScope o) true false s.tick) o.win else if x.total = 0 then 0
        else wMerge (mkWit (copyScope x) false false x.last) o.win
      let u := copyEnd s o x.core x.ch x.kind (64 * x.pos) (if x.stop.isSome then 1 else 0) (x.stop.getD 0) 0 w
      (x.stop = none → x.pos < x.total → exec .copyComplete s = .next s) ∧
      (x.stop ≠ none ∨ x.total ≤ x.pos → exec .copyComplete s = .next u ∧ u.op? o.id = none ∧
        memRead u.ringMem (x.core * 4096 + (s.core x.core).ringCount.toNat % 256 * 16) 16 =
          ringEntry (s.core x.core).ringCount.toNat (64 * x.pos) (x.stop.getD 0) 0 x.kind (if x.stop.isSome then 1 else 0) x.ch (ctxNo o.own.cid) w)) ∧
    (∀ x, o.kind = .mcst x → x.started = true → (∀ b ∈ x.br, b.done = true ∨ b.dropped = true) →
      let any := x.br.any (·.done)
      let w := if x.stop.isSome then wMerge (mkWit (opScope o) true false s.tick) o.win else if any then wMerge x.acc o.win else 0
      exec .copyComplete s = .next (copyEnd s o x.core x.ch 2 (if any then x.data.length else 0)
        (if x.stop.isSome then 1 else if x.br.any (·.dropped) then 2 else 0) (x.stop.getD 0) (dropMask x) w)) ∧
    (∀ x b, o.kind = .mcst x → (x.br.find? fun b => b.idx == s.arg.b && !b.done && !b.dropped) = some b →
      let dst := spSegs (cidStation b.cid) ((s.ctx b.cid).pages.map (·.phys)) false (x.data.length / 65536 + 2)
        (b.page * 65536 + b.sect * 64) x.data.length
      let after := fun (b' : Branch) => x.br.map fun y => if y.idx == b.idx then b' else y
      let ends := fun (u : State) (br : List Branch) =>
        if br.any (·.done) && br.all fun y => y.done || y.dropped then modChan u x.core x.ch o.id fun k => { k with wp := x.data.length } else u
      let gone := after { b with dropped := true }
      let here := after { b with done := true }
      let w := mkWit (if cidStation b.cid = stationOf x.core then 1 else 2) false false s.tick
      (x.started = false → exec .mcstBranchArrival s = .next s) ∧
      (x.started = true → branchTaken s o b x.len = false →
        exec .mcstBranchArrival s = .next (ends (s.setOp o.id (.mcst { x with br := gone })) gone)) ∧
      (x.started = true → branchTaken s o b x.len = true → fillGate s (physPages dst) = none → heldSegs s o dst = false →
        tileLocked s x.core dst = false →
        crossesTo s o.own.ifc (sectorLocs s o.who ((List.range (x.len / 64)).map fun i => x.src.toNat + 64 * i)) (.sp (cidStation b.cid * 2 ^ 21)) = true →
        exec .mcstBranchArrival s = .next (ends ((joinViews (writeSegs s dst x.data) s.tick).setOp o.id
          (.mcst { x with br := here, acc := wMerge x.acc w })) here))) ∧
    (∀ pa, o.kind = .wb pa → satHome s o.win = true →
      ∃ t, exec .l2RangeComplete s = .next t ∧ t.op? o.id = none ∧ t.mem = s.mem) ∧
    (∀ k va n d v res, o.kind = .l2range k va n d → satHome s o.win = true →
      rangeWork o.who k (n / 65536 + 2) (va.toNat + d) (n - d) s = (v, res) →
      ∃ t, exec .l2RangeComplete s = .next t ∧ t.mem = s.mem ∧ t.spad = s.spad ∧ t.l2 = v.l2 ∧
        (∀ a, res = .wait a → ∃ p, t.op? o.id = some p ∧ p.kind = .l2range k va n (a - va.toNat)) ∧
        (res = .done ∨ res = .bad → t.op? o.id = none)) ∧
    (∀ e g d, o.kind = .join e g d →
      (delivered s o.id = false → exec .groupJoinArrival s = .next s) ∧
      (delivered s o.id = true → s.holds? o.own = false → exec .groupJoinArrival s = .next (s.dropOp o.id)) ∧
      (delivered s o.id = true → s.holds? o.own = true →
        let r := joinGroup s o.own.cid e g none
        exec .groupJoinArrival s = .next ((r.1.landLate o.own o.id (BitVec.ofNat 2048 r.2)).dropOp o.id))) ∧
    (satHome s o.win = true → exec .markedPageWrite s = .next
      (((nextWrites s o).filter fun g => marked s g.loc g.len).foldl (fun s g => bayAdmit s g.loc g.len) (noteWaits s))) ∧
    (∀ x a n, o.kind = .store x → satHome s o.win = true → x.left = [⟨.dev a, n⟩] → marked s (.dev a) n.length = true →
      exec .markedPageWrite s = .next (bayAdmit (noteWaits s) (.dev a) n.length))

/-- R284–R288, R290: a group load that reaches its slice joins the entry of its sequence, fails with it where their operands differ, is
served alone behind one that has released or after a member that has passed it, waits where all 32 entries are taken, and otherwise opens
an entry that expects every other member that has not passed it; one that waited for a free entry goes on; an entry whose timer is over
releases its requests together and trails, and one that trails ends at its time; the requests of a release are written with the same
bytes, each with its record (its 16 bytes as R259 lays them out) and its witness; one whose task has left and whose pages are back writes
nothing and records 0 bytes (log entry 109).
Completes: `gldRequestArrival`, `gldHoldEntryFreed`, `holdTimerExpiry`, `trailingEntryTimeout`, `groupFillComplete`. -/
def Obligations.GroupLoadsRun : Prop :=
  ∀ (s : State),
    (∀ o x, gldOf s s.arg.a = some (o, x) →
      let slice := (gldHome x).1
      let exp := ((gldGroup s x).mem.filter fun m => m.1 != o.own.cid && !seqAbove m.2.2 x.q).map fun m => (m.1, m.2.1)
      let mine := fun (h : Hold) => h.slice == slice && h.die == x.die && h.g == x.g && h.q == x.q
      let passed := (gldGroup s x).mem.any fun m => m.1 != o.own.cid && seqAbove m.2.2 x.q
      (x.stat ≠ 0 → exec .gldRequestArrival s = .next s) ∧
      (x.stat = 0 → ∀ h, s.holds.find? mine = some h →
        (h.src ≠ x.src ∨ h.len ≠ x.len ∨ h.mis = true → exec .gldRequestArrival s = .next (gldMismatch s h o x)) ∧
        (h.src = x.src → h.len = x.len → h.mis = false →
          let came := fun (y : Hold) => if y.id == h.id then
              { y with exp := y.exp.filter (·.1 != o.own.cid), reqs := if h.trailing then y.reqs else y.reqs ++ [o.id] }
            else y
          let u := { s with holds := s.holds.map came }
          (h.trailing = true → exec .gldRequestArrival s = .next (settleHolds (serveAlone u o x (some h.released)))) ∧
          (h.trailing = false → exec .gldRequestArrival s = .next (settleHolds (u.setOp o.id (.gld { x with stat := 2 })))))) ∧
      (x.stat = 0 → s.holds.find? mine = none →
        (passed = true → exec .gldRequestArrival s = .next
          (serveAlone s o x (((gldGroup s x).rel.reverse.find? (·.1 == x.q)).map (·.2)))) ∧
        (passed = false → 32 ≤ (s.holds.filter (·.slice == slice)).length →
          exec .gldRequestArrival s = .next (s.setOp o.id (.gld { x with stat := 1, exp := exp }))) ∧
        (passed = false → (s.holds.filter (·.slice == slice)).length < 32 →
          exec .gldRequestArrival s = .next (openHold s o x exp)))) ∧
    (let full := 32 ≤ (s.holds.filter (·.slice == s.arg.a)).length
      let next := s.ops.findSome? fun o => match o.kind with
        | .gld x => if x.stat == 1 && (gldHome x).1 == s.arg.a then some (o, x) else none
        | _ => none
      (full ∨ next = none → exec .gldHoldEntryFreed s = .next s) ∧
      ∀ o x, ¬ full → next = some (o, x) →
        (gldEntry s x = none → exec .gldHoldEntryFreed s = .next (openHold s o x x.exp)) ∧
        ∀ h, gldEntry s x = some h → exec .gldHoldEntryFreed s = .next (gldJoin s h o x)) ∧
    (∀ h, s.holds.find? (·.id == s.arg.a) = some h →
      (h.trailing = true ∨ s.tick < h.until' → exec .holdTimerExpiry s = .next s) ∧
      (h.trailing = false → h.until' ≤ s.tick → exec .holdTimerExpiry s = .next (settleHolds (holdRelease s h.id)) ∧
        ((∀ g ∈ s.holds, g.trailing = false → g.exp ≠ []) →
          ∃ t, exec .holdTimerExpiry s = .next t ∧ t.mem = s.mem ∧ t.ctxs = s.ctxs ∧
            (∀ o ∈ s.ops, ∀ x, o.kind = .gld x → o.id ∈ h.reqs → { o with kind := .gld { x with stat := 4, peers := h.reqs } } ∈ t.ops) ∧
            ∃ g ∈ t.holds, g.id = h.id ∧ g.trailing = true ∧ g.exp = h.exp ∧ g.released = s.tick))) ∧
    (s.holds.find? (·.id == s.arg.a) = none → exec .holdTimerExpiry s = .next s) ∧
    exec .trailingEntryTimeout s = .next { s with
      holds := s.holds.filter fun h => !(h.id == s.arg.a && h.trailing && decide (h.until' ≤ s.tick)) } ∧
    (∀ o x, gldOf s s.arg.a = some (o, x) →
      let core := coreOf o.own.cid
      let n := (s.core core).ringCount
      let to' : Loc := .sp (cidStation o.own.cid * 2 ^ 21)
      let ends := fun (t : State) (count stat : Nat) (w : Word) => t.op? o.id = none ∧ (t.core core).ringCount = n + 1 ∧
        memRead t.ringMem (core * 4096 + n.toNat % 256 * 16) 16 = ringEntry n.toNat count (if stat = 0 then 0 else x.code) 0 4 stat 0 (ctxNo o.own.cid) w
      (x.stat < 3 → exec .groupFillComplete s = .next s) ∧
      (3 ≤ x.stat → x.read = false → peersSat s x = false ∨ l2Waits s x.segs = true → exec .groupFillComplete s = .next s) ∧
      (3 ≤ x.stat → x.read = false → peersSat s x = true → l2Waits s x.segs = false →
        (∀ u bs c, readUpTo s false 0 x.segs = (u, bs, c) → ∀ k ∈ x.peers, ∀ p y, gldOf s k = some (p, y) →
          ∃ q, gldOf (gldRead s x) k = some (q, { y with read := true, data := bs, code := (c.map (·.num)).getD 0 })) ∧
        ∀ p y, gldOf (gldRead s x) o.id = some (p, y) → exec .groupFillComplete s = .next (gldFill (gldRead s x) p y)) ∧
      (3 ≤ x.stat → x.read = true → x.gone = true →
        ∃ t, exec .groupFillComplete s = .next t ∧ t.mem = s.mem ∧ t.spad = s.spad ∧ ends t 0 0 (wMerge (mkWit 1 false false s.tick) o.win)) ∧
      ∀ dst, 3 ≤ x.stat → x.read = true → x.gone = false →
        resolve s o.who { wr := true, dev := false } x.sw x.dst.toNat x.data.length = .ok dst →
        (heldSegs s o dst = true → exec .groupFillComplete s = .next s) ∧
        (heldSegs s o dst = false → fillGate s (physPages dst) = none → crossesTo s o.own.ifc x.segs to' = false →
          exec .groupFillComplete s = .next s) ∧
        (heldSegs s o dst = false → fillGate s (physPages dst) = none → crossesTo s o.own.ifc x.segs to' = true →
          let w := wMerge (mkWit 1 (x.code != 0) false s.tick) o.win
          ∃ t, exec .groupFillComplete s = .next t ∧ t.mem = (writeSegs s dst x.data).mem ∧ t.spad = (writeSegs s dst x.data).spad ∧
            ends t x.data.length (if x.code = 0 then 0 else 1) w ∧
            ∀ r, o.wo = some r → s.holds? o.own = true → (tget {} (s.ctx o.own.cid).w r).pend = some o.id →
              tget {} (t.ctx o.own.cid).w r = { val := wNorm w }))

/-! ### Notices, pulls, walks and the mesh -/

/-- R16, R316–R319, R322, R323, R326, R331, R332, R366, R367: a delivered notice becomes pending at its consumer, is declined where its
task is gone, has a standing decline or lacks the pages, and stays with its sender while the table is full, until there is room; one for
another part enters the table of its optical port; one pending longer than DL is declined; an answer clears its bit, and the last releases
the slot; a slot past its deadline faults its holder once, or is released with an event where the holder is not on the core; a notice
of an optical port is forwarded to its part, in its table until its consumer's station has accepted it, and one from another part enters
the port's table, if it has room, and goes on to its consumer's station.
Completes: `noticeArrival`, `noticeResend`, `autoDecline`, `retentionAnswer`, `retentionTimeout`, `remoteNoticeForward`. -/
def Obligations.NoticesRun : Prop :=
  ∀ (s : State),
    (∀ o n, s.op? s.arg.a = some o → o.kind = .notice n →
      let gone := fun (u : State) => sendAnswer (leaveTable (u.dropOp o.id) o.id n) n (cidStation n.cons)
      let here := n.st = 0 ∧ delivered s o.id = true ∧ (n.rem = false ∨ n.inc = true)
      let c := s.ctx n.cons
      (n.st ≠ 0 ∨ delivered s o.id = false → exec .noticeArrival s = .next s) ∧
      (here → consumerThere s n = false → exec .noticeArrival s = .next (gone s)) ∧
      (here → consumerThere s n = true → n.tag.toNat ∈ c.standing →
        exec .noticeArrival s = .next (gone (s.modCtx n.cons fun c => { c with standing := c.standing.erase n.tag.toNat }))) ∧
      (here → consumerThere s n = true → n.tag.toNat ∉ c.standing → c.pages.length < blockPages n →
        exec .noticeArrival s = .next (gone s)) ∧
      (here → consumerThere s n = true → n.tag.toNat ∉ c.standing → blockPages n ≤ c.pages.length →
        (∀ i, freeIdx s (cidStation n.cons) = some i →
          let u := s.setOp o.id (.notice { n with st := 2, atick := s.tick, tidx := i })
          (n.inc = false → exec .noticeArrival s = .next u) ∧
          (n.inc = true → ∃ t m, exec .noticeArrival s = .next t ∧ t.ops = u.ops ∧ o.id ∉ (t.port n.port).notices ∧
            t.fab.sends = s.fab.sends ++ [m] ∧ m.kind = 7 ∧ m.piece = 1 ∧ m.part = n.part)) ∧
        (freeIdx s (cidStation n.cons) = none → exec .noticeArrival s = .next (s.setOp o.id (.notice { n with st := 1 })))) ∧
      (n.st = 0 → delivered s o.id = true → n.rem = true → n.inc = false → o.id ∉ (s.port n.port).notices →
        ((s.port n.port).notices.length < 1024 →
          exec .noticeArrival s = .next (s.modPort n.port fun x => { x with notices := x.notices ++ [o.id] })) ∧
        (1024 ≤ (s.port n.port).notices.length → exec .noticeArrival s = .next (s.setOp o.id (.notice { n with st := 1 })))) ∧
      let away := n.rem = true ∧ n.inc = false
      let room := (away ∧ (s.port n.port).notices.length < 1024) ∨ (¬ away ∧ freeIdx s (cidStation n.cons) ≠ none)
      (n.st = 1 → room →
        exec .noticeResend s = .next (sendChive (s.setOp o.id (.notice { n with st := 0 })) o.id (noticeSrc n) (noticeDst n))) ∧
      (n.st ≠ 1 ∨ ¬ room → exec .noticeResend s = .next s)) ∧
    (∀ o n, s.op? s.arg.b = some o → o.kind = .notice n →
      let late := n.st = 2 ∧ cidStation n.cons = s.arg.a ∧ (s.ctx n.cons).dl ≠ 0 ∧ (s.ctx n.cons).dl * 4000 < s.tick - n.atick
      (late → exec .autoDecline s = .next (sendAnswer (leaveTable (s.dropOp o.id) o.id n) n (cidStation n.cons))) ∧
      (¬ late → exec .autoDecline s = .next s)) ∧
    (∀ core slot gen idx,
      (∃ o, s.arg.a ≠ 0 ∧ s.op? s.arg.a = some o ∧ o.kind = .answer core slot gen idx ∧ delivered s o.id = true) ∨
        (s.arg.a = 0 ∧ s.arg.b % 1024 = core ∧ s.arg.c % 64 = slot ∧ s.arg.d / 8 = gen ∧ s.arg.d % 8 = idx) →
      let r := tget {} (s.core core).ret slot
      let asked := r.holder ≠ none ∧ r.gen.toNat = gen ∧ r.out.getLsbD idx = true
      ∃ t, exec .retentionAnswer s = .next t ∧ t.mem = s.mem ∧ (s.arg.a ≠ 0 → t.op? s.arg.a = none) ∧
        (asked → 2 ≤ r.count → tget {} (t.core core).ret slot = { r with out := r.out &&& ~~~(1#8 <<< idx), count := r.count - 1 }) ∧
        (asked → r.count ≤ 1 → tget {} (t.core core).ret slot = { gen := r.gen, tmo := r.tmo }) ∧
        (¬ asked → tget {} (t.core core).ret slot = r)) ∧
    ((tget {} (s.core s.arg.a).ret s.arg.b).holder = none → exec .retentionTimeout s = .next s) ∧
    (∀ o, (tget {} (s.core s.arg.a).ret s.arg.b).holder = some o →
      let r := tget {} (s.core s.arg.a).ret s.arg.b
      let code := Code.rettmo.num
      let cause := s.arg.b + 256 * r.out.toNat
      (s.tick < r.deadline → exec .retentionTimeout s = .next s) ∧
      (∀ cid, r.deadline ≤ s.tick → s.residence o = some cid → coreOf cid = s.arg.a →
        (r.raised = true → exec .retentionTimeout s = .next s) ∧
        (r.raised = false → (s.ctx cid).queued.length < (if (s.ctx cid).resume.isSome then 4 else 5) →
          ∃ t, exec .retentionTimeout s = .next t ∧ tget {} (t.core s.arg.a).ret s.arg.b = { r with raised := true } ∧
            (t.ctx cid).queued = (s.ctx cid).queued ++ [{ cls := 3, code := code, addr := r.addr, cause := cause, tick := s.tick }])) ∧
      (r.deadline ≤ s.tick → holderResident s s.arg.a o = false → s.holds? o = false ∨ (s.ctx o.cid).dying = false →
        exec .retentionTimeout s = .next (postEvent (releaseSlot (if r.raised then s else dillAdd s 15 s.arg.a) s.arg.a s.arg.b)
          o.ifc 3 o.tseq cause code r.addr))) ∧
    (∀ o n, s.arg.a ≠ 0 → s.op? s.arg.a = some o → o.kind = .notice n →
      let held := o.id ∈ (s.port n.port).notices ∧ n.inc = false
      (¬ held ∨ (s.arg.flag = true ↔ n.st ≠ 3) → exec .remoteNoticeForward s = .next s) ∧
      (held → s.arg.flag = true → n.st = 3 →
        ∃ t, exec .remoteNoticeForward s = .next t ∧ o.id ∉ (t.port n.port).notices ∧ t.ops = s.ops ∧ t.mem = s.mem) ∧
      (held → s.arg.flag = false → n.st ≠ 3 →
        ∃ t, exec .remoteNoticeForward s = .next t ∧ o.id ∈ (t.port n.port).notices ∧ t.mem = s.mem ∧
          ∃ o' m, t.op? o.id = some o' ∧ o'.kind = .notice { n with st := 3 } ∧ t.fab.sends = s.fab.sends ++ [m] ∧ m.kind = 7 ∧
            m.part = n.part ∧ m.req = noticeReq s n)) ∧
    (s.arg.a = 0 → s.arg.req.port < 32 →
      let n := noticeOf s.arg.req s.arg.req.src
      n.cons < 8192 →
      (1024 ≤ (s.port n.port).notices.length → exec .remoteNoticeForward s = .next s) ∧
      ((s.port n.port).notices.length < 1024 →
        ∃ t m, exec .remoteNoticeForward s = .next t ∧ t.mem = s.mem ∧ t.chive = s.chive ++ [m] ∧ m.src = portStation n.port ∧
          m.dst = cidStation n.cons ∧ (t.port n.port).notices = (s.port n.port).notices ++ [m.op] ∧
          t.ops = s.ops ++ [{ id := m.op, own := { cid := n.cons, uid := 0, ifc := n.cifc }, win := n.win, kind := .notice n }]))

/-- R327–R330, R332, R333, R335–R337, R353: Sage starts the pull that it picks: the lowest free run is taken, the mailbox takes its entry
and counts, and the budget is charged; the next request of a pull, within the credit of the revolution, is read at its producer or goes to
the producer's part, and in a later cycle its bytes reach the run, the last followed by zeros to the end of the run, or a refused one stops
the pull; which ends with the answer to its producer and with its record of R259, whose witness is of the tick of the last bytes or of the stop; the next tile of a walk moves once every target has granted it, in either direction, or the walk aborts.
Completes: `pullStart`, `pullRead`, `pullComplete`, `walkTileMove`. -/
def Obligations.PullsAndWalks : Prop :=
  ∀ (s : State),
    (sagePick s s.arg.a = none → exec .pullStart s = .next s) ∧
    (∀ o n run, sagePick s s.arg.a = some (o, n) → lowestRun (s.ctx n.cons).lm (blockPages n) = some run →
      let c := s.ctx n.cons
      let at' := c.mb.toNat + 32 * (c.pn.toNat % 64)
      let v := s.modCtx n.cons fun c => { c with lm := c.lm &&& ~~~(BitVec.ofNat 32 ((2 ^ blockPages n - 1) * 2 ^ run)), pn := c.pn + 1,
                                                 bm := c.bm - n.size / 64 }
      let op : Op := { id := o.id, own := { cid := n.cons, uid := c.uid, ifc := c.ifc, tseq := c.tseq }, win := n.win,
                       pages := c.pages.map (·.phys), tick := s.tick, kind := .pull { no := n, run := run, mb := c.pn.toNat % 64 } }
      let begun := fun (u : State) => { u with ops := u.ops.map fun x => if x.id == o.id then op else x }
      (c.mb = 0 → exec .pullStart s = .next (begun v)) ∧
      (∀ segs, c.mb ≠ 0 → fillPages c at' 32 = [] → heldPages s n.cons at' 32 = [] →
        resolve v (v.who n.cons) { wr := true, dev := false } false at' 32 = .ok segs →
        exec .pullStart s = .next (begun (writeSegs v segs (mailboxEntry n run))))) ∧
    (∀ o p, s.op? s.arg.a = some o → o.kind = .pull p →
      let n := p.no
      let st := cidStation o.own.cid
      let k := nextRequest s n p.pos
      let va := n.addr.toNat + p.pos
      let at' := fun (pos len : Nat) => spSegs st o.pages false 3 (p.run * 65536 + pos) len
      let dst := at' p.pos (match p.got with | some (_, bs, _) => bs.length | none => k)
      let idle := p.stop ≠ none ∨ p.asked = true ∨ n.size ≤ p.pos ∨ satHome s o.win = false ∨ heldSegs s o dst = true
      (idle → exec .pullRead s = .next s) ∧
      (¬ idle → ∀ u, fillGate s (physPages dst) = some u → exec .pullRead s = .next u) ∧
      (¬ idle → fillGate s (physPages dst) = none → ∀ r bs c, p.got = some (r, bs, c) →
        (s.inCycle r = true → exec .pullRead s = .next s) ∧
        (s.inCycle r = false → ∀ x, bs = [] → c = some x → exec .pullRead s = .next
          (s.setOp o.id (.pull { p with stop := some x, last := s.tick, asked := false, got := none }))) ∧
        (s.inCycle r = false → bs ≠ [] → c = none →
          let u := writeSegs s dst bs
          let pos := p.pos + bs.length
          let rest := blockPages n * 65536 - pos
          ∃ t q, exec .pullRead s = .next t ∧ t.op? o.id = some q ∧
            q.kind = .pull { p with pos := pos, last := s.tick, asked := false, got := none } ∧
            (pos < n.size → t.spad = u.spad) ∧ (n.size ≤ pos → t.spad = (writeSegs u (at' pos rest) (List.replicate rest 0)).spad))) ∧
      (¬ idle → fillGate s (physPages dst) = none → p.got = none → ingressOpen s n p.pos = false → exec .pullRead s = .next s) ∧
      (¬ idle → fillGate s (physPages dst) = none → p.got = none → ingressOpen s n p.pos = true → n.inc = true →
        pathOpen s n.cifc (portStation (pullPort s n p.pos), 5) (st, 4) = true →
        let v := (takeCredit s n p.pos k).setOp o.id (.pull { p with asked := true })
        exec .pullRead s = .next (fabRequest v o.id (p.pos / 8192) n.part
          { kind := .pull, tag := tagOf v n.cifc, off := va, len := k, op := n.pcore * 64 + n.slot, ty := n.gen, wit := n.win }
          ((2 ^ 63 + n.part * 2 ^ 51 + va) / 256))) ∧
      ∀ u bs e, ¬ idle → fillGate s (physPages dst) = none → p.got = none → ingressOpen s n p.pos = true → n.inc = false →
        let src := blockSpan s n.pcore n.cifc n.slot va k
        crossesTo s n.cifc src (.sp (st * 2 ^ 21)) = true → blockWaits s n.pcore n.slot n.gen n.win src = false →
        blockRead (takeCredit s n p.pos k) n.pcore n.cifc n.slot n.gen va k n.win = (u, bs, e) →
        exec .pullRead s = .next (u.setOp o.id (.pull { p with got := some (u.tick, bs, e.map (·.num)) }))) ∧
    (∀ o p, s.op? s.arg.a = some o → o.id < s.nextId → o.kind = .pull p →
      let core := coreOf o.own.cid
      let n := (s.core core).ringCount
      (p.stop = none → p.pos < p.no.size → exec .pullComplete s = .next s) ∧
      (p.stop ≠ none ∨ p.no.size ≤ p.pos →
        let stat := match p.stop with
          | none => 0
          | some c => if c = Code.nstale.num then 3 else if c = Code.peergone.num then 4 else 1
        let w := wMerge (mkWit 1 p.stop.isSome false p.last) o.win
        ∃ t, exec .pullComplete s = .next t ∧ t.op? o.id = none ∧ t.mem = s.mem ∧ t.spad = s.spad ∧ (t.core core).ringCount = n + 1 ∧
          memRead t.ringMem (core * 4096 + n.toNat % 256 * 16) 16 = ringEntry n.toNat p.pos (p.stop.getD 0) p.mb 5 stat 0 (ctxNo o.own.cid) w ∧
          (p.no.inc = false → ∃ a ∈ t.ops, a.kind = .answer p.no.pcore p.no.slot p.no.gen p.no.idx) ∧
          (p.no.inc = true → ∃ m ∈ t.fab.sends, m.kind = 7 ∧ m.part = p.no.part ∧ m.req.seq = p.no.idx ∧
            m.req.op = p.no.pcore * 64 + p.no.slot ∧ m.req.ty = p.no.gen))) ∧
    (tget none (s.stn s.arg.a).walks s.arg.b = none → exec .walkTileMove s = .next s) ∧
    (∀ w o, tget none (s.stn s.arg.a).walks s.arg.b = some w → s.op? w.op = some o →
      let d := w.desc.toNat
      let store := fld d 440 440 = 1
      let n := walkRows d * walkLen d
      let win := (permitsOf w w.tile).foldl wMerge o.win
      let buf := w.tgts.flatMap fun p => bufSegs s d w.tile p.2.cid
      let live := s.holds? o.own = true
      let held := ¬ store ∧ ∃ p ∈ w.tgts, ∃ r ∈ tileBuf d w.tile, heldPages s p.2.cid r.1 r.2 ≠ []
      let granted := (∀ g ∈ w.grants, w.tile < g) ∧ satHome s o.win = true ∧ (∀ x ∈ permitsOf w w.tile, satHome s x = true) ∧
        (live → n ≤ (s.ctx o.own.cid).bm)
      (¬ granted ∨ held → exec .walkTileMove s = .next s) ∧
      (granted → ¬ held → fillGate s (physPages buf) = none →
        (∀ c, tileMem s o d w.tile (decide store) = .error c →
          exec .walkTileMove s = .next (abortWalk (noteWalk s (walkWho o) c) s.arg.a s.arg.b)) ∧
        ∀ mem, tileMem s o d w.tile (decide store) = .ok mem → l2Waits s mem = false →
          (store → (∀ g ∈ mem, marked s g.loc g.len = false) ∧ fillsBefore s win buf = false) →
          (store → crossesBack s o.own.ifc (.sp (s.arg.a * 2 ^ 21)) mem = true) →
          (¬ store → crossesTo s o.own.ifc mem (.sp (s.arg.a * 2 ^ 21)) = true) →
          let src := if store then bufSegs s d w.tile ((w.tgts.head?.map (·.2.cid)).getD 0) else mem
          (∀ c off, badSeg s 0 src = some (c, off) →
            exec .walkTileMove s = .next (abortWalk (markPoison s (segAt src off)) s.arg.a s.arg.b)) ∧
          (∀ v bs, badSeg s 0 src = none →
            readIn (touchRows s o d w.tile) (decide store && fld d 441 441 == 1) win src = (v, bs) →
            let u := if store then writeSegs v mem bs else w.tgts.foldl (fun s p => writeSegs s (bufSegs s d w.tile p.2.cid) bs) v
            let u := if live then u.modCtx o.own.cid fun c => { c with bm := c.bm - n } else u
            ∃ t, exec .walkTileMove s = .next t ∧
              t = tileMoved u s.arg.a s.arg.b w o (wMerge (mkWit (if store then 2 else 1) false false u.tick) win) ∧
              t.mem = u.mem ∧ t.spad = u.spad ∧
              (w.tile + 1 ≠ walkTiles d → ∃ w', tget none (t.stn s.arg.a).walks s.arg.b = some w' ∧ w'.tile = w.tile + 1 ∧
                w'.grants = w.grants) ∧
              (w.tile + 1 = walkTiles d → tget none (t.stn s.arg.a).walks s.arg.b = none ∧ t.op? w.op = none))))

/-- R333, R340–R343, R353, R419: a die's new revolution puts its staged Thyme writes into force, keeping each entry's interface, and
renews the credits of its stations, die 0's those of the optical ports; eight replays of a link within 1 ms halve its width; a Chive
message arrives, is sent again after 2 µs without an acknowledgement, and is given up after the eighth time, which ends its operation
unless it had arrived.
Completes: `thymeRevolution`, `meshCrcReplay`, `chiveMessageArrival`, `chiveResendTimeout`.
R426, R430–R433, R435: Bay reads the next page, from its shadow or from the live page, when none of its lines waits; the mark and the
shadow go, and the page's lines leave in order as far as the mesh and the interface's share let them; a page with an error stops the drain;
a drain whose pages have all been acknowledged, or that was stopped, ends with its record of 128 bytes and its witness, and the interface has
no snapshot; an interface that does not drain is left as it is.
Completes: `bayDrainPage`, `snapshotComplete`. -/
def Obligations.MeshAndSnapshots : Prop :=
  (∀ (s : State),
    let a := s.arg.a
    let mine := fun (p : Nat × BitVec 32) => p.1 / 7168 / 64 = a
    (4 ≤ a ∨ s.cycle / 1024 ≤ tget 0 s.thymeAt a → exec .thymeRevolution s = .next s) ∧
    (a < 4 → tget 0 s.thymeAt a < s.cycle / 1024 →
      ∃ t, exec .thymeRevolution s = .next t ∧ t.thymeStaged = s.thymeStaged.filter (fun p => !decide (mine p)) ∧
        (∀ k x, (k, x) ∈ s.thymeStaged → mine (k, x) → (∀ y, (k, y) ∈ s.thymeStaged → y = x) →
          tget 0 t.thyme k = (x &&& BitVec.ofNat 32 (2 ^ 31 + 7 * 2 ^ 22)) ||| (tget 0 s.thyme k &&& BitVec.ofNat 32 (63 * 2 ^ 25))) ∧
        (∀ j, (∀ x, (j, x) ∈ s.thymeStaged → ¬ mine (j, x)) → tget 0 t.thyme j = tget 0 s.thyme j) ∧
        tget 0 t.thymeAt a = s.cycle / 1024 ∧ (∀ n, n / 64 = a → (t.stn n).credit = []) ∧ (a = 0 → ∀ n, (t.port n).credit = []) ∧
        t.mem = s.mem) ∧
    (256 ≤ a ∨ 7 ≤ s.arg.b → exec .meshCrcReplay s = .next s) ∧
    (a < 256 → s.arg.b < 7 →
      let l := (tget [] (s.stn a).replays s.arg.b).filter (fun t => decide (s.tick < t + 4000000)) ++ [s.tick]
      ∃ t, exec .meshCrcReplay s = .next t ∧ tget [] (t.stn a).replays s.arg.b = l ∧ t.mem = s.mem ∧
        (8 ≤ l.length → s.arg.b ∈ (t.stn a).half) ∧ (l.length < 8 → (t.stn a).half = (s.stn a).half)) ∧
    (s.arg.flag = false → exec .chiveMessageArrival s = .next { s with chive := s.chive.filter fun m => m.id != a }) ∧
    (s.arg.flag = true → exec .chiveMessageArrival s = .next { s with
      chive := s.chive.map fun m => if m.id == a then { m with arrived := true } else m }) ∧
    (s.chive.find? (·.id == a) = none → exec .chiveResendTimeout s = .next s) ∧
    (∀ m, s.chive.find? (·.id == a) = some m →
      let rest := { s with chive := s.chive.filter (·.id != a) }
      (s.now < m.sent + 8000 → exec .chiveResendTimeout s = .next s) ∧
      (m.sent + 8000 ≤ s.now → m.resends < 8 → exec .chiveResendTimeout s = .next { s with
        chive := s.chive.map fun x => if x.id == a then { x with sent := s.now, resends := x.resends + 1 } else x }) ∧
      (m.sent + 8000 ≤ s.now → 8 ≤ m.resends →
        (m.arrived = true → exec .chiveResendTimeout s = .next rest) ∧
        (m.arrived = false → exec .chiveResendTimeout s = .next (chiveLost (dillAdd rest 13 m.src) m.op))))) ∧
  (∀ (s : State),
    let a := s.arg.a
    let x := (s.ifc a).snap
    (x.st ≠ 2 ∨ (x.out = [] ∧ x.todo = []) → exec .bayDrainPage s = .next s) ∧
    (∀ l r, x.st = 2 → x.out = l :: r → bayMay s a l = false →
      ∃ t, exec .bayDrainPage s = .next t ∧ t.fab.sends = s.fab.sends ∧ (t.ifc a).snap = x ∧ t.mem = s.mem) ∧
    (∀ l, x.st = 2 → x.out = [l] → bayMay s a l = true →
      ∃ t m, exec .bayDrainPage s = .next t ∧ t.fab.sends = s.fab.sends ++ [m] ∧ m.op = x.op ∧ m.part = l.addr / 2 ^ 51 % 4096 ∧
        m.req.off = l.addr % 2 ^ 51 ∧ m.req.data = l.data ∧ t.mem = s.mem ∧ (t.ifc a).snap = { x with out := [], await := x.await + 1 }) ∧
    (∀ vp pg r, x.st = 2 → x.out = [] → x.todo = (vp, pg) :: r →
      let src := match x.shadows.find? (·.1 == vp) with
        | some h => h.2.2
        | none => [⟨.dev (pg * 65536), 65536⟩]
      (∀ c off, badSeg s 0 src = some (c, off) →
        ∃ t, exec .bayDrainPage s = .next t ∧ t.fab.sends = s.fab.sends ∧ t.mem = s.mem ∧ (t.ifc a).snap =
          { x with marks := [], shadows := [], todo := [], out := [], stat := 1, fcode := c.num, last := s.tick }) ∧
      (badSeg s 0 src = none →
        ∃ t ms, exec .bayDrainPage s = .next t ∧ t.mem = s.mem ∧ t.fab.sends = s.fab.sends ++ ms ∧ (∀ m ∈ ms, m.op = x.op) ∧
          let y := (t.ifc a).snap
          ms.map (·.req.data) ++ y.out.map (·.data) = chunksOf 256 256 (readSegs s src) ∧ y.await = x.await + ms.length ∧
            y.sent = x.sent ++ [{ off := imageOff x vp, data := readSegs s src, left := 256 }] ∧ (∀ m ∈ y.marks, m.1 ≠ vp) ∧
            (∀ m ∈ y.shadows, m.1 ≠ vp) ∧ (∀ m ∈ y.todo, m.1 ≠ vp) ∧ y.stored = x.stored ∧ y.st = 2)) ∧
    (x.st ≠ 2 ∨ (x.stat = 0 ∧ (x.todo ≠ [] ∨ x.out ≠ [] ∨ x.await ≠ 0)) → exec .snapshotComplete s = .next s) ∧
    (x.st = 2 → (x.todo = [] ∧ x.out = [] ∧ x.await = 0) ∨ x.stat ≠ 0 →
      ∃ t, exec .snapshotComplete s = .next t ∧ (t.ifc a).snap = {} ∧ t.op? x.op = none ∧
        (∀ p, resolve s (ifcWho a) { wr := true, loc := false } false (x.rcd.toNat / 2 ^ 192 % 2 ^ 64) 128 = .ok [⟨.dev p, 128⟩] →
          marked s (.dev p) 128 = false →
          memRead t.mem p 128 = leBytes 8 (x.stat + 256 * x.fcode) ++
            wordBytes [BitVec.ofNat 64 x.stored.length, BitVec.ofNat 64 x.shad, BitVec.ofNat 64 x.waits, BitVec.ofNat 64 s.tick, x.step,
              BitVec.ofNat 64 x.skip, 0] ++ sha512 (imageBytes x)) ∧
        ∀ o r, s.op? x.op = some o → o.wo = some r → s.holds? o.own = true → (tget {} (s.ctx o.own.cid).w r).pend = some o.id →
          tget {} (t.ctx o.own.cid).w r = { val := wNorm (wMerge (mkWit 3 (x.stat != 0) false x.last) o.win) }))

/-! ### The fabric -/

/-- R345, R346, R351, R352, R365, R366, R418, R419, R463: a replay of a link is counted and its retry buffer sent again, and the seventeenth
within 1 ms takes it down; a link that goes down tells its far end on the links that are left, which take its traffic; one whose far end
is down carries no more; a circuit port starts a slot with its whole allowance; a drained and locked part has its circuits switched; and
relock puts the staged items, the modes of the ports, the new group and its index into force, keeps the allowance of a peer whose slot goes on,
and ends the drain.
Completes: `linkCrcRetry`, `linkDown`, `linkDownFlitReceipt`, `circuitSlotBoundary`, `circuitSwitch`, `relock`. -/
def Obligations.LinksAndCircuits : Prop :=
  ∀ (s : State),
    let p := s.arg.a
    let l := s.arg.b
    let x := s.port p
    let up := p < 32 ∧ l < 4 ∧ x.linkUp.getLsbD l = true
    let lost := fun (t : State) => (t.port p).linkUp = x.linkUp &&& ~~~(1#4 <<< l) ∧ t.mem = s.mem ∧
      (∀ k ∈ linksUp (t.port p), ∃ y ∈ t.fab.out, y.kind = 8 ∧ y.port = p ∧ y.link = k ∧ y.piece = l) ∧
      ∀ m ∈ t.fab.sends, m.departed = none → m.part ≠ s.fab.part → m.port = p → m.link = l → m.kind = 1 ∨ m.kind = 2
    let r := (tget [] x.replays l).filter (fun t => decide (s.tick < t + 4000000)) ++ [s.tick]
    (¬ up → exec .linkCrcRetry s = .next s ∧ exec .linkDown s = .next s) ∧
    (up → r.length ≤ 16 → ∃ t y, exec .linkCrcRetry s = .next t ∧ tget [] (t.port p).replays l = r ∧ (t.port p).linkUp = x.linkUp ∧
      t.mem = s.mem ∧ t.fab.out = s.fab.out ++ [y] ∧ y.kind = 9 ∧ y.port = p ∧ y.link = l ∧ y.piece = (tget [] x.retry l).length) ∧
    (up → 16 < r.length → ∃ t, exec .linkCrcRetry s = .next t ∧ lost t) ∧
    (up → ∃ t, exec .linkDown s = .next t ∧ lost t ∧ ∀ q, q ≠ p → { t.port q with seqOut := (s.port q).seqOut } = s.port q) ∧
    (32 ≤ p ∨ 4 ≤ l ∨ l ∈ x.peerDown → exec .linkDownFlitReceipt s = .next s) ∧
    (p < 32 → l < 4 → l ∉ x.peerDown →
      ∃ t, exec .linkDownFlitReceipt s = .next t ∧ (t.port p).peerDown = x.peerDown ++ [l] ∧ l ∉ linksUp (t.port p) ∧
        ∀ m ∈ t.fab.sends, m.departed = none → m.part ≠ s.fab.part → m.port = p → m.link = l → m.kind = 1 ∨ m.kind = 2) ∧
    (32 ≤ p ∨ x.circuit = false ∨ s.fab.drain = 2 → exec .circuitSlotBoundary s = .next s) ∧
    (p < 32 → x.circuit = true → s.fab.drain ≠ 2 →
      (slotNow x s.tick = none →
        exec .circuitSlotBoundary s = .next (s.modPort p fun x => { x with slot := none, dark := true })) ∧
      ∀ k peer dark, slotNow x s.tick = some (k, peer, dark) →
        (x.slot = some k → exec .circuitSlotBoundary s = .next (s.modPort p fun x => { x with dark := dark })) ∧
        (x.slot ≠ some k → exec .circuitSlotBoundary s = .next (s.modPort p fun x =>
          { x with slot := some k, dark := dark, sentSlot := 0, slotAllow := allowNow x s.tick, sentPeer := some peer }))) ∧
    (s.fab.drain ≠ 1 ∨ s.fab.locked = false ∨ s.fab.drainWit ≠ none → exec .circuitSwitch s = .next s) ∧
    (s.fab.drain = 1 → s.fab.locked = true → s.fab.drainWit = none →
      ∃ t, exec .circuitSwitch s = .next t ∧ t.fab.drain = 2 ∧ t.fab.sends = s.fab.sends ∧ t.mem = s.mem) ∧
    (s.fab.drain ≠ 2 → exec .relock s = .next s) ∧
    (s.fab.drain = 2 →
      ∃ t, exec .relock s = .next t ∧ t.fab.drain = 0 ∧ t.fab.locked = false ∧ t.fab.part = p ∧ t.fab.members = s.arg.list ∧
        t.fab.group = s.fab.nextGroup.getD 0 ∧ t.fab.closed = [] ∧ t.fab.staged = [] ∧ t.fab.windowN = s.tick / t.fab.window ∧
        (∀ q, q < 32 → (t.port q).circuit = s.arg.c.testBit q ∧ (t.port q).sw = s.arg.d / 2 ^ (8 * q) % 256) ∧
        (∀ m ∈ t.fab.sends, m.held = false) ∧
        (∀ q k peer dark, q < 32 → s.fab.staged = [] → s.arg.c.testBit q = true → slotNow (s.port q) s.tick = some (k, peer, dark) →
          (t.port q).sentPeer = some peer ∧
          ((s.port q).sentPeer = some peer → (t.port q).slotAllow = (s.port q).slotAllow ∧ (t.port q).sentSlot = (s.port q).sentSlot) ∧
          ((s.port q).sentPeer ≠ some peer → (t.port q).slotAllow = allowNow (s.port q) s.tick ∧ (t.port q).sentSlot = 0)) ∧
        (∀ a v, s.fab.staged = [(9, a, v)] →
          tget 0 (t.port (a % 32)).sched (fld a 11 8) = v &&& ~~~(BitVec.ofNat 64 (7 * 2 ^ 36))) ∧
        (∀ a v, s.fab.staged = [(10, a, v)] → (t.port (a % 32)).t0 = v) ∧
        (∀ a v, s.fab.staged = [(11, a, v)] → tget 0 t.fab.route (a % 4096) = v.setWidth 32) ∧
        (∀ a v, s.fab.staged = [(12, a, v)] → t.fab.window = 4000 * 2 ^ (v.toNat % 8)) ∧
        (∀ a v, s.fab.staged = [(13, a, v)] → (t.port (a % 32)).callmax = v.toNat))

/-- R354–R356, R365, R420: a window that ends puts a close marker behind what each queue holds, on every link of every path of every peer,
unless the part drains or has no peer; a marker of a peer moves the peer's last closed window on its link, in order; the drain markers of
a peer on every path stand in for its close markers, and the last that the part waits for ends its `fdrain`; and a wait for a window ends
at the start of the fifth window after it: of an engine's operation, of a context, and of a start.
Completes: `windowEnd`, `closeMarkerReceipt`, `drainMarkerReceipt`, `windowTimeout`. -/
def Obligations.Windows : Prop :=
  ∀ (s : State),
    let now := s.tick / s.fab.window
    (now ≤ s.fab.windowN → exec .windowEnd s = .next s) ∧
    (s.fab.windowN < now → s.peers = [] ∨ s.fab.drain ≠ 0 →
      exec .windowEnd s = .next { s with fab := { s.fab with windowN := now } }) ∧
    (s.fab.windowN < now → s.peers ≠ [] → s.fab.drain = 0 →
      ∃ t ms, exec .windowEnd s = .next t ∧ t.fab.windowN = s.fab.windowN + 1 ∧ t.fab.sends = s.fab.sends ++ ms ∧ t.mem = s.mem ∧
        (∀ m ∈ ms, m.kind = 1 ∧ m.window = s.fab.windowN) ∧
        ms.map (fun m => (m.part, m.port, m.link)) =
          s.peers.flatMap fun p => (routePorts s p).flatMap fun q => (linksUp (s.port q)).map fun l => (p, q, l)) ∧
    (let k := s.arg.a * 128 + s.arg.b * 4 + s.arg.c
      let next := s.arg.b < 32 ∧ s.arg.c < 4 ∧ s.arg.d ≤ max (tget 0 s.fab.closed k) (tget 0 s.fab.drainStand s.arg.a) ∧
        tget 0 s.fab.closed k ≤ s.arg.d
      (next → exec .closeMarkerReceipt s = .next (s.modFab fun f => { f with closed := tput f.closed k (s.arg.d + 1) })) ∧
      (¬ next → exec .closeMarkerReceipt s = .next s) ∧
      let had := 32 ≤ s.arg.b ∨ 4 ≤ s.arg.c ∨ s.arg.a ∉ s.peers ∨ k ∈ s.fab.drained
      let seen := s.fab.drained ++ [k]
      (had → exec .drainMarkerReceipt s = .next s) ∧
      (¬ had → ∃ t, exec .drainMarkerReceipt s = .next t ∧ t.fab.drained = seen ∧
        ((∀ j ∈ pathKeys s s.arg.a, j ∈ seen) → tget 0 t.fab.drainStand s.arg.a = 2 ^ 60) ∧
        (∀ o id, (∀ p ∈ s.peers, ∀ j ∈ pathKeys s p, j ∈ seen) → s.fab.drain ≠ 0 → s.fab.drainWit = some id → s.op? id = some o →
          t.fab.drainWit = none ∧ t.op? id = none))) ∧
    (s.tick < (s.arg.a + 5) * s.fab.window → exec .windowTimeout s = .next s) ∧
    ((s.arg.a + 5) * s.fab.window ≤ s.tick →
      let n := s.arg.a
      let ops := s.ops.filter fun o => waitsOn s n o.win
      let ctxs := s.ctxs.filter fun p => match p.2.wait with | .witness r => waitsOn s n (tget {} p.2.w r).val | _ => false
      let starts := s.cores.flatMap fun p => (p.2.queue.filter fun q => q.pend && waitsOn s n q.lb.wstart).map fun q => (p.1, q)
      ((∀ p ∈ s.ctxs, ∀ r, p.2.wait ≠ .witness r) → (∀ p ∈ s.cores, ∀ q ∈ p.2.queue, q.pend = false) →
        exec .windowTimeout s = .next (ops.foldl (fun s o => timeOutOp s o) s)) ∧
      (ops = [] → (∀ p ∈ s.cores, ∀ q ∈ p.2.queue, q.pend = false) →
        exec .windowTimeout s = .next (ctxs.foldl (fun s p => wakeCtx s p.1) s)) ∧
      (∀ k q, ops = [] → ctxs = [] → starts = [(k, q)] →
        exec .windowTimeout s =
          .next (containEntry (unqueue s k q.id) q k Code.wintmo.num 0 ((winTimedOut s q.lb.wstart).getD 0))) ∧
      ∀ o k va x y, ops = [o] → o.kind = .l2range k va x y → timeOutOp s o = s.finish o (wMerge (mkWit (opScope o) true false s.tick) o.win))

/-- R276, R345, R347, R349, R350, R357–R360, R362, R366, R459: a message whose way is free leaves the part, its flits kept in the link's retry buffer, and a request awaits its reply;
one for this part is served here, one whose peer is gone fails, and one held, waiting or without a way stays; a request from another part
is answered at its port once it may be served, the reply in the port's queue; a reply ends the request that it answers, and a refusal of a fire-and-forget store faults;
a request without a reply for 8 µs is sent again, eight times; cached replies age out after 64 µs.
Completes: `fabricRequestDepart`, `fabricRequestArrival`, `fabricReplyArrival`, `retransmitTimeout`, `replyCacheExpiry`.
R276, R357, R358, R405, R430: a store of another part that its tag's interface lets in is written here, after the snapshots of what it
overwrites, and the reply says so; the same request again has the same reply and writes nothing; one at or below FLOOR is stale; and one
that the tag's interface does not let in is refused. -/
def Obligations.Requests : Prop :=
  (∀ (s : State),
    let a := s.arg.a
    let r := s.arg.req
    (s.fab.sends.find? (·.id == a) = none → exec .fabricRequestDepart s = .next s ∧ exec .retransmitTimeout s = .next s) ∧
    (∀ m, s.fab.sends.find? (·.id == a) = some m →
      let own := m.part = s.fab.part ∧ m.kind = 0
      let gone := (m.kind = 0 ∨ m.kind = 3 ∨ m.kind = 5) ∧ s.fab.drain = 0 ∧ peerGone s m.part = true
      let copy := m.kind = 10 ∧ s.fab.drain = 0 ∧ m.dests.any (peerGone s) = true
      let lost := m.kind = 0 ∧ s.fab.drain = 0 ∧ routePorts s m.part = []
      let waits := m.departed ≠ none ∨ m.held = true
      (own → exec .fabricRequestDepart s = .next (serveOwn s m)) ∧
      (¬ own → waits → exec .fabricRequestDepart s = .next s) ∧
      (¬ own → ¬ waits → gone → exec .fabricRequestDepart s = .next (fabGone s m)) ∧
      (¬ own → ¬ waits → copy → exec .fabricRequestDepart s = .next (copyLeaves s m)) ∧
      (¬ own → ¬ waits → ¬ gone → lost → exec .fabricRequestDepart s = .next (noRoute s m)) ∧
      (¬ own → ¬ waits → ¬ gone → ¬ copy → ¬ lost → mayDepart s m = false → exec .fabricRequestDepart s = .next s) ∧
      (¬ own → ¬ waits → ¬ gone → ¬ copy → ¬ lost → mayDepart s m = true →
        ∃ t y, exec .fabricRequestDepart s = .next t ∧ t.mem = s.mem ∧ t.fab.out = s.fab.out ++ [y] ∧ y.req = m.req ∧ y.port = m.port ∧
          y.link = m.link ∧ y.part = m.part ∧ y.kind = m.kind ∧ y.departed = some s.tick ∧
          (let l := tget [] (s.port m.port).retry m.link ++ flitsOf m;
            tget [] (t.port m.port).retry m.link = l.drop (l.length - 512)) ∧
          ((m.kind = 0 ∧ m.req.ff = false) ∨ m.kind = 5 ∨ m.kind = 10 → t.fab.sends = s.fab.sends.map fun z =>
            if z.id == m.id then { z with departed := some s.tick, window := s.tick / s.fab.window } else z) ∧
          (m.kind ≠ 0 → m.kind ≠ 5 → m.kind ≠ 10 → t.fab.sends = s.fab.sends.filter (·.id != m.id))) ∧
      let idle := m.kind ≠ 0 ∨ m.departed = none ∨ s.fab.drain ≠ 0 ∨ timerOf s m < 32000
      (idle → exec .retransmitTimeout s = .next s) ∧
      (¬ idle → m.resent < 8 → exec .retransmitTimeout s = .next (s.modFab fun f =>
        { f with sends := f.sends.filter (·.id != m.id) ++
          [{ m with departed := none, ran := 0, resent := m.resent + 1, port := (sendPath s m).1, link := (sendPath s m).2 }] })) ∧
      (¬ idle → 8 ≤ m.resent → exec .retransmitTimeout s = .next (takeReply s m goneReply))) ∧
    (32 ≤ r.port → exec .fabricRequestArrival s = .next s) ∧
    (r.port < 32 → servable s r = false → exec .fabricRequestArrival s = .next (wakePages s r)) ∧
    (r.port < 32 → servable s r = true →
      let z := answer s r
      (r.ff = true → z.2.outcome = .performed → exec .fabricRequestArrival s = .next z.1) ∧
      (r.ff = false ∨ z.2.outcome ≠ .performed →
        ∃ t y, exec .fabricRequestArrival s = .next t ∧ t.fab.sends = z.1.fab.sends ++ [y] ∧ t.fab.out = z.1.fab.out ∧ t.mem = z.1.mem ∧ y.kind = 3 ∧
          y.part = r.src ∧ y.port = r.port ∧ y.rep = some { z.2 with id := r.opId, piece := r.piece })) ∧
    (s.arg.flag = true → exec .fabricReplyArrival s =
      .next (ffRefused s s.arg.b r ((outCode s.arg.reply.outcome).getD Code.xprot.num))) ∧
    (let asked := s.fab.sends.find? fun m => m.op == s.arg.reply.id && m.piece == s.arg.reply.piece &&
        (m.departed.isSome || decide (0 < m.resent));
      (s.arg.flag = false → asked = none → exec .fabricReplyArrival s = .next s) ∧
      ∀ m, s.arg.flag = false → asked = some m → exec .fabricReplyArrival s = .next (takeReply s m s.arg.reply)) ∧
    (32 ≤ a → exec .replyCacheExpiry s = .next s) ∧
    (a < 32 →
      ∃ t, exec .replyCacheExpiry s = .next t ∧ (∀ c ∈ (t.port a).cache, c ∈ (s.port a).cache ∧ s.tick < c.tick + 256000) ∧
        (∀ c ∈ (s.port a).cache, s.tick < c.tick + 256000 → c ∈ (t.port a).cache) ∧
        ∀ c ∈ (s.port a).cache, c.tick + 256000 ≤ s.tick → ∃ f, floorOf (t.port a) c.src c.port = some f ∧ c.seq ≤ f)) ∧
  (∀ (s : State) (r : FabReq), r.kind = .store → r.ff = false →
    let cached := (s.port r.port).cache.find? fun c => c.src == r.src && c.port == r.srcPort && c.seq == r.seq
    (∀ c, cached = some c → answer s r = (s, c.reply)) ∧
    (∀ f, cached = none → floorOf (s.port r.port) r.src r.srcPort = some f → r.seq ≤ f → (answer s r).2.outcome = .atstale ∧ (answer s r).1 = s) ∧
    (cached = none → (∀ f, floorOf (s.port r.port) r.src r.srcPort = some f → f < r.seq) →
      (reqSegs s r = none → (answer s r).2.outcome = .refused ∧ (answer s r).1.mem = s.mem ∧ (answer s r).1.spad = s.spad) ∧
      (∀ i segs, reqSegs s r = some (i, segs) →
        (answer s r).2.outcome = .performed ∧ (answer s r).2.tick = s.tick + 96 ∧
        (answer s r).1.mem = (writeSegs (admitSegs (touchExport s r.port i r.off) segs) segs r.data).mem) ∧
      (answer (answer s r).1 r).2 = (answer s r).2 ∧ (answer (answer s r).1 r).1 = (answer s r).1))

/-- R298, R340, R360, R362–R364, R368–R372, R455: the source of a fabric store or a contribution is read once its inputs are satisfied and
nothing holds it up, and its copies are queued, a multicast's one copy toward the switches, which they split into a branch for each
destination; a ticket is numbered, waited for,
done with, called while fewer than CALLMAX are open, and skipped when it is not done in time, for this part and for another; a reduction
slot is allotted with its generation, takes each member's contribution once, delivers to all when the last has come or when its timer is
over, and its result is written with its record.
Completes: `fabricStoreSourceRead`, `switchMulticastSplit`, `ticketRequestArrival`, `ticketCall`, `ticketTimeout`, `reductionSlotAlloc`,
`reductionContribution`, `reductionTimeout`, `reductionResultWrite`.
R368–R371: what a reduction delivers: sums of integers modulo 2^32 whatever the order, the greatest and the least signed integer, and
zero bits in `miss` for the members that came. -/
def Obligations.TicketsAndReductions : Prop :=
  (∀ (s : State),
    let a := s.arg.a
    let q := s.arg.req
    let x := s.port a
    (s.fab.sends.find? (·.id == a) = none → exec .switchMulticastSplit s = .next s) ∧
    (∀ m, s.fab.sends.find? (·.id == a) = some m →
      (m.kind ≠ 10 ∨ m.departed = none → exec .switchMulticastSplit s = .next s) ∧
      (m.kind = 10 → m.departed ≠ none → m.dests.any (peerGone s) = true → exec .switchMulticastSplit s = .next (copyLeaves s m)) ∧
      (m.kind = 10 → m.departed ≠ none → m.dests.any (peerGone s) = false →
        ∃ t bs, exec .switchMulticastSplit s = .next t ∧ t.fab.out = s.fab.out ++ bs ∧ bs.map (·.part) = m.dests ∧
          (∀ b ∈ bs, b.kind = 0 ∧ b.op = m.op ∧ b.port = m.port ∧ b.link = m.link ∧ b.departed = some s.tick ∧ b.req.data = m.req.data ∧
            b.req.off = m.req.off) ∧
          t.fab.sends = s.fab.sends.filter (·.id != m.id) ++ (if m.req.ff then [] else bs))) ∧
    (∀ o, s.op? a = some o →
      (satHome s o.win = false → exec .fabricStoreSourceRead s = .next s) ∧
      (∀ x bs t e, satHome s o.win = true → o.kind = .fst x → x.read = false → sourceWaits s o x.src.toNat x.len = false →
        fillGate s (opPages o x.src.toNat x.len) = none → sourceWay s o x.src.toNat x.len (fstPorts s x) = true →
        readAscending o.who false o.win (x.len / 64) x.src.toNat s = (t, bs, e) →
        let y : FstOp := { x with read := true, data := bs, stop := e }
        let v := sweepPages (t.setOp o.id (.fst y)) (cidStation o.own.cid)
        exec .fabricStoreSourceRead s = .next (sendFst v o (if x.mc = true ∧ v.fab.drain = 0 then inGroup v y else y))) ∧
      (∀ x bs t e, satHome s o.win = true → o.kind = .rsto x → x.read = false → sourceWaits s o x.src.toNat (4 * x.count) = false →
        fillGate s (opPages o x.src.toNat (4 * x.count)) = none →
        sourceWay s o x.src.toNat (4 * x.count) (fun _ => rstoPorts s x) = true →
        readAscending o.who false o.win ((4 * x.count + 63) / 64) x.src.toNat s = (t, bs, e) →
        let y : RstoOp := { x with read := true, data := bs.take (4 * x.count) }
        (e = none → exec .fabricStoreSourceRead s =
          .next (sendContribution (sweepPages (t.setOp o.id (.rsto y)) (cidStation o.own.cid)) o y)) ∧
        ∀ c, e = some c → exec .fabricStoreSourceRead s = .next (rstoEnd t o 0 (some c) 0)) ∧
      (a ≠ 0 → ∀ part p, part ≠ s.fab.part → (∃ n, o.kind = .tkget part p n ∨ o.kind = .tkwait part p n ∨ o.kind = .tkdone part p n) →
        exec .ticketRequestArrival s = .next s) ∧
      (∀ p tmo n, a ≠ 0 → o.kind = .tkget s.fab.part p tmo → freeTicket (s.port p) = some n → s.holds? o.own = true →
        ∃ t, exec .ticketRequestArrival s = .next t ∧ (t.port p).tickets = (s.port p).tickets ++ [{ num := n, tmo := tmo }] ∧
          t.op? o.id = none ∧ ∀ l ∈ (s.ctx o.own.cid).landing, l.late = some o.id →
            { l with val := (BitVec.ofNat 64 (n % 4096 * 2 ^ 32 + p * 2 ^ 16 + s.fab.part)).zeroExtend 2048, late := none } ∈
              (t.ctx o.own.cid).landing) ∧
      (∀ p tmo, a ≠ 0 → o.kind = .tkget s.fab.part p tmo → freeTicket (s.port p) = none →
        exec .ticketRequestArrival s = .next (takeTicket s o false 0)) ∧
      (∀ p n k, a ≠ 0 → o.kind = .tkwait s.fab.part p n → (s.port p).tickets.find? (·.num == n) = some k → o.id ∉ k.waiters →
        o.id < 2 ^ 64 → (∀ j ∈ (s.port p).tickets, j.num = n → j = k) →
        (k.called ≠ none → exec .ticketRequestArrival s = .next (s.finish o (mkWit 2 false false s.tick))) ∧
        (k.called = none → exec .ticketRequestArrival s = .next (s.modPort p fun x =>
          { x with tickets := x.tickets.map fun t => if t.num == n then { t with waiters := t.waiters ++ [o.id] } else t }))) ∧
      (∀ p n, a ≠ 0 → o.kind = .tkwait s.fab.part p n → (s.port p).tickets.find? (·.num == n) = none →
        exec .ticketRequestArrival s = .next (s.finish o (mkWit 2 true false s.tick))) ∧
      (∀ p n, a ≠ 0 → o.kind = .tkdone s.fab.part p n →
        let r := ticketDone s p n
        exec .ticketRequestArrival s = .next ((r.1.landLate o.own o.id ((BitVec.ofNat 64 r.2).zeroExtend 2048)).dropOp o.id))) ∧
    (a = 0 → q.port < 32 → exec .ticketRequestArrival s = .next (ticketFrom s q)) ∧
    (32 ≤ a ∨ x.callmax ≤ (x.tickets.filter (·.called.isSome)).length ∨ x.tickets.find? (·.called.isNone) = none →
      exec .ticketCall s = .next s) ∧
    (∀ k, a < 32 → (x.tickets.filter (·.called.isSome)).length < x.callmax → x.tickets.find? (·.called.isNone) = some k →
      exec .ticketCall s = .next (k.waiters.foldl (fun s w => tellWaiter s a w) (s.modPort a fun x =>
        { x with tickets := x.tickets.map fun y => if y.num == k.num then { y with called := some s.tick } else y }))) ∧
    (∀ k c, a < 32 → x.tickets.find? (·.num == s.arg.b) = some k → k.called = some c →
      (s.tick < c + k.tmo * 4000 → exec .ticketTimeout s = .next s) ∧
      (c + k.tmo * 4000 ≤ s.tick → ∃ t, exec .ticketTimeout s = .next t ∧
        (t.port a).tickets = x.tickets.filter (·.num != k.num) ∧ (t.port a).skipped = x.skipped ++ [k.num])) ∧
    (∀ o desc, a ≠ 0 → s.op? a = some o → o.kind = .rslot desc →
      let r := allotRed s desc s.fab.part
      let open' := s.fab.drain = 0 ∧ swReached s (fld desc.toNat 319 312) = true
      (¬ open' → exec .reductionSlotAlloc s = .next s) ∧
      (open' → exec .reductionSlotAlloc s = .next ((r.1.landLate o.own o.id (r.2.zeroExtend 2048)).dropOp o.id))) ∧
    (a = 0 → let r := allotRed s (BitVec.ofNat 512 (leNat (q.data.take 64))) q.src
      ∃ t y, exec .reductionSlotAlloc s = .next t ∧ t.fab.red = r.1.fab.red ∧ t.fab.out = s.fab.out ++ [y] ∧ y.part = q.src ∧
        y.rep = some { id := q.v.toNat, val := r.2, tick := s.tick }) ∧
    (∀ o x, a ≠ 0 → s.op? a = some o → o.kind = .rsto x →
      let away := x.read = false ∨ x.arrived = true ∨ s.fab.sends.any (·.op == o.id) = true
      (away → exec .reductionContribution s = .next s) ∧
      (∀ t, ¬ away → contribute (s.setOp o.id (.rsto { x with arrived := true })) (s.fab.part % 256) o.id x.handle x.data = (t, none) →
        exec .reductionContribution s = .next t) ∧
      (∀ t c, ¬ away → contribute (s.setOp o.id (.rsto { x with arrived := true })) (s.fab.part % 256) o.id x.handle x.data = (t, some c) →
        exec .reductionContribution s = .next (rstoEnd t o 0 (some c) 0))) ∧
    (∀ t, a = 0 → contribute s (q.src % 256) 0 q.v q.data = (t, none) → exec .reductionContribution s = .next t) ∧
    (∀ t c, a = 0 → contribute s (q.src % 256) 0 q.v q.data = (t, some c) →
      ∃ u y, exec .reductionContribution s = .next u ∧ u.fab.red = t.fab.red ∧ u.fab.out = t.fab.out ++ [y] ∧ y.part = q.src ∧
        y.rep = some { outcome := .memfault c, tick := t.tick }) ∧
    (let r := tget {} s.fab.red a;
      (r.busy = false ∨ s.tick < r.due → exec .reductionTimeout s = .next s) ∧
      (r.busy = true → r.due ≤ s.tick →
        ∃ t, exec .reductionTimeout s = .next t ∧ tget {} t.fab.red a = { gen := r.gen + 1 } ∧ t.mem = s.mem)) ∧
    (∀ o x bs, s.op? a = some o → o.kind = .rsto x → x.result = some bs →
      let held := heldSegs s o x.segs = true ∨ ∃ g ∈ x.segs, marked s g.loc g.len = true
      (held → exec .reductionResultWrite s = .next s) ∧
      (∀ t, ¬ held → fillGate s (physPages x.segs) = some t → exec .reductionResultWrite s = .next t) ∧
      (∀ c, ¬ held → fillGate s (physPages x.segs) = none → partBad s x.segs = some c →
        exec .reductionResultWrite s = .next (rstoEnd s o 0 (some c) 0)) ∧
      (¬ held → fillGate s (physPages x.segs) = none → partBad s x.segs = none →
        let core := coreOf o.own.cid
        let n := (s.core core).ringCount
        let w := wMerge (mkWit 3 false false (s.tick + 96)) o.win
        ∃ t, exec .reductionResultWrite s = .next t ∧ t.op? o.id = none ∧ t.mem = (writeSegs s x.segs bs).mem ∧
          t.spad = (writeSegs s x.segs bs).spad ∧ (t.core core).ringCount = n + 1 ∧
          memRead t.ringMem (core * 4096 + n.toNat % 256 * 16) 16 = ringEntry n.toNat (4 * x.count) 0 0 6 0 0 (ctxNo o.own.cid) w))) ∧
  (∀ (l : List (BitVec 32)), l ≠ [] →
    reduceElem 1 0 (l.map BitVec.toNat) = (l.foldl (· + ·) 0).toNat ∧
    (∃ x ∈ l, reduceElem 1 2 (l.map BitVec.toNat) = x.toNat ∧ ∀ y ∈ l, y.toInt ≤ x.toInt) ∧
    ∃ x ∈ l, reduceElem 1 1 (l.map BitVec.toNat) = x.toNat ∧ ∀ y ∈ l, x.toInt ≤ y.toInt)

/-! ### The whole machine -/

/-- R34–R49: the word that the encoder gives a well-formed slot instruction decodes to that instruction, with every operand at every
value that the encoding admits. -/
def Obligations.RoundTrip : Prop :=
  ∀ (i : Instr) (sl : Slot) (w : Word), i.wf = true → encode i = some (sl, w) → decodeSlot sl w = .ok i

/-- R48, R50: every word that decodes is the one word of a well-formed instruction in its own slot: no two words of a slot mean the same
instruction, and a word with a field its entry forbids decodes to nothing. -/
def Obligations.DecodedWords : Prop :=
  ∀ (sl : Slot) (w : Word) (i : Instr), decodeSlot sl w = .ok i → i.wf = true ∧ encode i = some (sl, w)

/-- R35, R41, R45–R48: words built from the manual's encodings, one or more in each of the six slots and in each of the four opcode
maps. -/
def Obligations.SpecWordsDecode : Prop :=
  decodeSlot .v0 0x014000C0500A4000 = .ok (.vadd { file := false, stk := false, fmt := 8, qp := 0, d := 12, a := 40, b := 41, c := 0, e := false, pn := false, sat := false }) ∧
  decodeSlot .s 0x6170246000940010 = .ok (.st { stk := false, ty := 7, kneg := false, k := 0, d := 9, base := 6, wi1 := none, wi2 := none, wo := some 5, addr := 16 }) ∧
  decodeSlot .s 0x26220C7FFFFFFFFB = .ok (.cmplti { stk := false, ty := 2, kneg := false, k := 2, d := 3, a := 7, imm := 0xFFFFFFFFB }) ∧
  decodeSlot .s 0x8000000000862900 = .ok (.wmrg { stk := false, ty := 0, kneg := false, k := 0, d := 0, a := 0, b := 0, c := 0, wi1 := some 1, wi2 := some 2, wo := some 4, fn := 0 }) ∧
  decodeSlot .v1 0x044986405180B04D = .ok (.vfma { file := true, stk := false, fmt := 9, qp := 3, d := 100, a := 40, b := 1538, c := 1545, e := true, pn := false, sat := true }) ∧
  decodeSlot .m 0x02A0106EE300091A = .ok (.mmaz { stk := true, acc := 2, tda := 0, tdb := 1, ea := 0, eb := 1, fa := 11, fb := 11, wi1 := some 3, wi2 := none, wi3 := none, wo := some 4, fn := 3, kstep := 2 }) ∧
  decodeSlot .c0 0x013214D10004E000 = .ok (.cp { file := false, stk := false, ch := 3, d := 4, a := 5, b := 6, wi1 := some 2, wi2 := none, wi3 := none, wo := some 7, step := 0 }) ∧
  decodeSlot .c1 0x40010C9180052000 = .ok (.pub { file := true, stk := false, ch := 0, d := 2, a := 3, b := 4, wi1 := some 3, wi2 := none, wi3 := none, wo := some 9, step := 0 }) ∧
  (decodeHeader false 0x00100042).map (fun h => (presSlots h.pres, h.stop, h.rep, h.yield)) = some ([.v0], true, 0, false)

/-- R34, R38, R50, R57, R59, R67: a turn that issues the bundle of a context that may issue it, whose results due have landed and whose pc
holds a header with one slot and a word that decodes to `i`, with no sticky word, room in its group and no check failed: the step is
`exec` of `i` on the state of the issue, then the commit of the bundle, the yield or the return that still waits, and what follows every turn. Any
bundle runs so, slot by slot in the order of its issue. A turn of an engine or agent is `exec` of its step, and an empty agenda takes the
part's own turn. -/
def Obligations.StepRunsDecoded : Prop :=
  let ends := fun (r : Res) => andThen r fun x => andThen (exec .bundleCommit x) fun y =>
    andThen (if (y.ctx y.arg.a).yield.isSome || (y.ctx y.arg.a).returning then exec .yieldBundle y else .next y) fun z => .next (settle z)
  (∀ (s : State) (cid dt : Nat) (rest : List Turn), s.agenda = { dt := dt, ev := .bundleIssue, arg := { a := cid } } :: rest →
    let s0 := { passTime { s with agenda := rest } dt with arg := { a := cid } }
    (step s = andThen (exec .bundleIssue s0) fun v => ends (runSlots v.iss.todo v)) ∧
    ∀ (hd w : Word) (h : Header) (sl : Slot) (i : Instr), canIssue s0 cid = true →
    let r := (landDue s0 cid false).modCtx cid fun c => if c.group.isEmpty then { c with sg := c.s } else c
    let c := r.ctx cid
    let v := issueBundle s0 cid
    c.group.length < 16 → c.sticky = [] → c.wakeFault = none → lateDue r cid = none → c.pc.toNat % 8 = 0 →
    fetchWord r cid c.pc.toNat = .ok hd → decodeHeader (isStream cid) hd = some h → presSlots h.pres = [sl] →
    fetchWord r cid ((c.pc.toNat + 8) % 2 ^ 64) = .ok w → decodeSlot sl w = .ok i →
    checkBundle r cid h c.rep [(sl, w)] = [] →
    v.ctxs = r.ctxs ∧ v.mem = s.mem ∧ v.iss.pc = c.pc ∧ v.iss.len = 16 ∧ v.iss.effs = [] ∧ v.iss.flts = [] ∧
    step s = ends (andThen (exec i { v with iss := { v.iss with cur := sl, j := 0 } }) fun x => .next (checkQueue x))) ∧
  (∀ (s : State) (dt : Nat) (i : Instr) (a : EvArg) (rest : List Turn), s.agenda = { dt := dt, ev := i, arg := a } :: rest →
    i ≠ .bundleIssue → encode i = none →
    step s = andThen (exec i { passTime { s with agenda := rest } dt with arg := a }) fun t => .next (settle t)) ∧
  ∀ s : State, s.agenda = [] → step s = runTurn (defaultTurn s) { s with rr := s.rr + 1 }

/-- R58: executing a slot of a bundle, whatever its word and its operands, changes no register, no memory, no queue and no engine: every
effect waits in the commit buffer. Loads and translation walks alone may leave traces before commit, in the caches and in the counts of
corrected errors. -/
def Obligations.HeldUntilCommit : Prop :=
  ∀ (i : Instr) (s t : State), (encode i).isSome = true → exec i s = .next t → Held s t

/-- No step stops, and every step keeps the four byte memories in canonical form. -/
def Obligations.MemWfKept : Prop := ∀ s : State, s.MemWf → ∃ t, step s = .next t ∧ t.MemWf

/-- R8, R410, R440: after reset no context holds a task, no interface runs, every register of every page reads 0 and the part does not
yet accept starts; the memories list nothing, in canonical form. The registers whose reset the manual leaves to a launch are 0, k0 is true
and the latencies are those of no image (log entries 2 and 4). -/
def Obligations.ResetState : Prop :=
  let s := State.reset
  s.MemWf ∧ s.now = 0 ∧ s.tick = 0 ∧ s.plat.boot = 0 ∧ s.plat.envelope = 4800 ∧ s.fab.locked = false ∧ s.fab.members = [] ∧
  (∀ n off, registerRead s n off = 0) ∧
  (∀ n, (s.ctx n).st = .free ∧ (s.ctx n).pc = 0 ∧ (∀ r, tget 0 (s.ctx n).s r = 0) ∧ (s.ctx n).k = 1 ∧ (s.ctx n).flt.code = 0 ∧
    (∀ r, tget {} (s.ctx n).w r = {}) ∧ (∀ r, tget {} (s.ctx n).b r = {}) ∧ (∀ r, tget 0 (s.ctx n).v0.r r = 0)) ∧
  (∀ n, (s.core n).own = none ∧ (s.core n).run = none ∧ (s.core n).queue = []) ∧
  (∀ a, memGet s.mem a = 0) ∧ s.ops = [] ∧ s.agenda = []

/-- R293, R294: merging is commutative and associative; null adds nothing; the merge of two witnesses that are not null has the wider
scope, the OR of poison and of WIN, and the later tick; and it covers each input that is not poisoned, unless it covers nothing. -/
def Obligations.MergeAlgebra : Prop :=
  ∀ u v w : Word,
    wMerge u v = wMerge v u ∧ wMerge (wMerge u v) w = wMerge u (wMerge v w) ∧
    (wNull u = true → wNull v = true → wMerge u v = 0) ∧ (wNull u = true → wNull v = false → wMerge u v = wNorm v) ∧
    (wNull u = false → wNull v = false → wScope (wMerge u v) = max (wScope u) (wScope v) ∧ wPsn (wMerge u v) = (wPsn u || wPsn v) ∧
      wWin (wMerge u v) = (wWin u || wWin v) ∧ wTick (wMerge u v) = max (wTick u) (wTick v)) ∧
    (wNull u = false → wPsn u = false →
      wScope u ≤ wScope (wMerge u v) ∧ wTick u ≤ wTick (wMerge u v) ∧ (wWin u = true → wWin (wMerge u v) = true)) ∧
    wNorm (wMerge u v) = wMerge u v ∧ (wNull (wMerge u v) = true → wMerge u v = 0) ∧ (wWin (wMerge u v) = true → wScope (wMerge u v) = 3)

/-- R59, R374–R376, R379, R411: the commit of a bundle of a task or a command stream with a handler, on which slots faulted: nothing that
its slots hold takes effect, and the results that landed for it are in flight again (`unland`); the fault registers take the fault of the
lowest slot and the mask of all; the context is in its handler and will resume at the bundle, at its repetition. A bundle whose fetch or
header faulted traps with its own fault and no slot. -/
def Obligations.PreciseTrap : Prop :=
  ∀ (s : State), s.iss.on = true → s.iss.cid = s.arg.a → s.iss.marks = [] →
    let a := s.arg.a
    let c := unland (s.ctx a)
    let h := if isStream a then (s.ifc c.ifc).handler else c.lb.handler
    c.resume = none → h ≠ 0 →
    let traps := fun (f : Flt) (mask : Nat) => ∃ t, exec .bundleCommit s = .next t ∧ t.iss = {} ∧
      (t.ctx a).flt.cls = f.cls ∧ (t.ctx a).flt.code = f.code ∧ (t.ctx a).flt.addr = (if f.here then c.pc else f.addr) ∧ (t.ctx a).flt.mask = mask ∧
      (t.ctx a).flt.rep = c.rep ∧ (t.ctx a).flt.cause = f.cause % 2 ^ 16 + (if c.qovf ∨ 4 < c.queued.length then 2 ^ 16 else 0) ∧
      (t.ctx a).queued = c.queued.take 4 ∧
      (t.ctx a).pc = h ∧ (t.ctx a).rep = 0 ∧ (t.ctx a).hb = 4096 ∧ (t.ctx a).st = .inHandler ∧ (t.ctx a).sticky = [] ∧
      (t.ctx a).landing = [] ∧
      (t.ctx a).resume = some { pc := c.pc, rep := c.rep, sticky := c.sticky, landing := c.landing.map fun l => { l with due := l.due + 1 - c.n } } ∧
      (t.ctx a).s = c.s ∧ (t.ctx a).k = c.k ∧ (t.ctx a).w = c.w ∧ (t.ctx a).b = c.b ∧ (t.ctx a).v0.r = c.v0.r ∧ (t.ctx a).v1.r = c.v1.r ∧
      (t.ctx a).acc = c.acc ∧ (t.ctx a).bi = c.bi ∧ (t.ctx a).bm = c.bm ∧ (∀ n, n ≠ a → t.ctx n = s.ctx n) ∧ t.mem = s.mem ∧
      t.spad = s.spad ∧ t.ops = s.ops
    (∀ f, s.iss.hdr = some f → isStream a = true ∨ f.cls ≠ 6 → traps f f.mask) ∧
    (∀ sl f, s.iss.hdr = none → s.iss.stall = false → (sl, f) ∈ s.iss.flts → isStream a = true ∨ f.cls ≠ 6 →
      (∀ p ∈ s.iss.flts, p = (sl, f) ∨ slotNo sl < slotNo p.1) →
      ∀ mask, mask < 64 → (∀ x : Slot, mask.testBit (slotNo x) = true ↔ ∃ g, (x, g) ∈ s.iss.flts) → traps f mask)

/-- R18, R19, R272: a line is homed on the die that owns its stack or its DDR channel, in the slice that the bits of its number give;
its home slice's package number counts 512 slices to a die, and its set within the slice is bits 15 to 9. -/
def Obligations.SliceHash : Prop :=
  ∀ pa : Nat,
    let l := BitVec.ofNat 45 (pa / 256)
    BitVec.ofNat 9 (sliceOf pa) =
      l.extractLsb' 0 9 ^^^ l.extractLsb' 9 9 ^^^ l.extractLsb' 18 9 ^^^ l.extractLsb' 27 9 ^^^ l.extractLsb' 36 9 ∧
    sliceOf pa < 512 ∧ BitVec.ofNat 7 (setOf pa) = l.extractLsb' 9 7 ∧ setOf pa < 128 ∧
    (∀ k, k < 12 → k * 2 ^ 36 ≤ pa → pa < (k + 1) * 2 ^ 36 → homeDie pa = k / 3) ∧
    (∀ c, c < 8 → 2 ^ 44 + c * 2 ^ 38 ≤ pa → pa < 2 ^ 44 + (c + 1) * 2 ^ 38 → homeDie pa = c / 2) ∧
    l2Key (pa / 256) / 128 = 512 * homeDie pa + sliceOf pa

/-- R80, R81: an `.e8m0` code E below 255 is 2^(E − 127) and 255 is NaN; the ternary codes 0, 1 and 3 are 0, +1 and −1, and code 2 reads
as 0 with the flag TB. -/
def Obligations.E8m0AndTernary : Prop :=
  (∀ e : Nat, e < 255 → e8m0 e = .fin false 1 ((e : Int) - 127)) ∧ e8m0 255 = .nan false false ∧
  intElem 6 0 = (0, false) ∧ intElem 6 1 = (1, false) ∧ intElem 6 3 = (-1, false) ∧ intElem 6 2 = (0, true)

end
end

