-- ==== Sys2Proof/Laws/State.lean ====
section
/-! SUPPORT. Every update of the state, field by field. -/
namespace Sys2Proof.Machine

/-! ### `setCtx` -/

@[simp] theorem setCtx_now (s : State) (c : Nat) (x : Ctx) : (s.setCtx c x).now = s.now := rfl
@[simp] theorem setCtx_tickBase (s : State) (c : Nat) (x : Ctx) : (s.setCtx c x).tickBase = s.tickBase := rfl
@[simp] theorem setCtx_agenda (s : State) (c : Nat) (x : Ctx) : (s.setCtx c x).agenda = s.agenda := rfl
@[simp] theorem setCtx_arg (s : State) (c : Nat) (x : Ctx) : (s.setCtx c x).arg = s.arg := rfl
@[simp] theorem setCtx_rr (s : State) (c : Nat) (x : Ctx) : (s.setCtx c x).rr = s.rr := rfl
@[simp] theorem setCtx_nextId (s : State) (c : Nat) (x : Ctx) : (s.setCtx c x).nextId = s.nextId := rfl
@[simp] theorem setCtx_fresh (s : State) (c : Nat) (x : Ctx) : (s.setCtx c x).fresh = s.fresh := rfl
@[simp] theorem setCtx_iss (s : State) (c : Nat) (x : Ctx) : (s.setCtx c x).iss = s.iss := rfl
@[simp] theorem setCtx_cores (s : State) (c : Nat) (x : Ctx) : (s.setCtx c x).cores = s.cores := rfl
@[simp] theorem setCtx_stations (s : State) (c : Nat) (x : Ctx) : (s.setCtx c x).stations = s.stations := rfl
@[simp] theorem setCtx_dies (s : State) (c : Nat) (x : Ctx) : (s.setCtx c x).dies = s.dies := rfl
@[simp] theorem setCtx_ifcs (s : State) (c : Nat) (x : Ctx) : (s.setCtx c x).ifcs = s.ifcs := rfl
@[simp] theorem setCtx_ops (s : State) (c : Nat) (x : Ctx) : (s.setCtx c x).ops = s.ops := rfl
@[simp] theorem setCtx_chive (s : State) (c : Nat) (x : Ctx) : (s.setCtx c x).chive = s.chive := rfl
@[simp] theorem setCtx_mem (s : State) (c : Nat) (x : Ctx) : (s.setCtx c x).mem = s.mem := rfl
@[simp] theorem setCtx_spad (s : State) (c : Nat) (x : Ctx) : (s.setCtx c x).spad = s.spad := rfl
@[simp] theorem setCtx_ringMem (s : State) (c : Nat) (x : Ctx) : (s.setCtx c x).ringMem = s.ringMem := rfl
@[simp] theorem setCtx_hostMem (s : State) (c : Nat) (x : Ctx) : (s.setCtx c x).hostMem = s.hostMem := rfl
@[simp] theorem setCtx_poison (s : State) (c : Nat) (x : Ctx) : (s.setCtx c x).poison = s.poison := rfl
@[simp] theorem setCtx_ue (s : State) (c : Nat) (x : Ctx) : (s.setCtx c x).ue = s.ue := rfl
@[simp] theorem setCtx_ce (s : State) (c : Nat) (x : Ctx) : (s.setCtx c x).ce = s.ce := rfl
@[simp] theorem setCtx_spPoison (s : State) (c : Nat) (x : Ctx) : (s.setCtx c x).spPoison = s.spPoison := rfl
@[simp] theorem setCtx_spUe (s : State) (c : Nat) (x : Ctx) : (s.setCtx c x).spUe = s.spUe := rfl
@[simp] theorem setCtx_spCe (s : State) (c : Nat) (x : Ctx) : (s.setCtx c x).spCe = s.spCe := rfl
@[simp] theorem setCtx_l2 (s : State) (c : Nat) (x : Ctx) : (s.setCtx c x).l2 = s.l2 := rfl
@[simp] theorem setCtx_holds (s : State) (c : Nat) (x : Ctx) : (s.setCtx c x).holds = s.holds := rfl
@[simp] theorem setCtx_views (s : State) (c : Nat) (x : Ctx) : (s.setCtx c x).views = s.views := rfl
@[simp] theorem setCtx_thyme (s : State) (c : Nat) (x : Ctx) : (s.setCtx c x).thyme = s.thyme := rfl
@[simp] theorem setCtx_thymeStaged (s : State) (c : Nat) (x : Ctx) : (s.setCtx c x).thymeStaged = s.thymeStaged := rfl
@[simp] theorem setCtx_thymeAt (s : State) (c : Nat) (x : Ctx) : (s.setCtx c x).thymeAt = s.thymeAt := rfl
@[simp] theorem setCtx_heldQ (s : State) (c : Nat) (x : Ctx) : (s.setCtx c x).heldQ = s.heldQ := rfl
@[simp] theorem setCtx_gone (s : State) (c : Nat) (x : Ctx) : (s.setCtx c x).gone = s.gone := rfl
@[simp] theorem setCtx_fab (s : State) (c : Nat) (x : Ctx) : (s.setCtx c x).fab = s.fab := rfl
@[simp] theorem setCtx_plat (s : State) (c : Nat) (x : Ctx) : (s.setCtx c x).plat = s.plat := rfl

/-! ### `modCtx` -/

@[simp] theorem modCtx_now (s : State) (c : Nat) (f : Ctx → Ctx) : (s.modCtx c f).now = s.now := rfl
@[simp] theorem modCtx_tickBase (s : State) (c : Nat) (f : Ctx → Ctx) : (s.modCtx c f).tickBase = s.tickBase := rfl
@[simp] theorem modCtx_agenda (s : State) (c : Nat) (f : Ctx → Ctx) : (s.modCtx c f).agenda = s.agenda := rfl
@[simp] theorem modCtx_arg (s : State) (c : Nat) (f : Ctx → Ctx) : (s.modCtx c f).arg = s.arg := rfl
@[simp] theorem modCtx_rr (s : State) (c : Nat) (f : Ctx → Ctx) : (s.modCtx c f).rr = s.rr := rfl
@[simp] theorem modCtx_nextId (s : State) (c : Nat) (f : Ctx → Ctx) : (s.modCtx c f).nextId = s.nextId := rfl
@[simp] theorem modCtx_fresh (s : State) (c : Nat) (f : Ctx → Ctx) : (s.modCtx c f).fresh = s.fresh := rfl
@[simp] theorem modCtx_iss (s : State) (c : Nat) (f : Ctx → Ctx) : (s.modCtx c f).iss = s.iss := rfl
@[simp] theorem modCtx_cores (s : State) (c : Nat) (f : Ctx → Ctx) : (s.modCtx c f).cores = s.cores := rfl
@[simp] theorem modCtx_stations (s : State) (c : Nat) (f : Ctx → Ctx) : (s.modCtx c f).stations = s.stations := rfl
@[simp] theorem modCtx_dies (s : State) (c : Nat) (f : Ctx → Ctx) : (s.modCtx c f).dies = s.dies := rfl
@[simp] theorem modCtx_ifcs (s : State) (c : Nat) (f : Ctx → Ctx) : (s.modCtx c f).ifcs = s.ifcs := rfl
@[simp] theorem modCtx_ops (s : State) (c : Nat) (f : Ctx → Ctx) : (s.modCtx c f).ops = s.ops := rfl
@[simp] theorem modCtx_chive (s : State) (c : Nat) (f : Ctx → Ctx) : (s.modCtx c f).chive = s.chive := rfl
@[simp] theorem modCtx_mem (s : State) (c : Nat) (f : Ctx → Ctx) : (s.modCtx c f).mem = s.mem := rfl
@[simp] theorem modCtx_spad (s : State) (c : Nat) (f : Ctx → Ctx) : (s.modCtx c f).spad = s.spad := rfl
@[simp] theorem modCtx_ringMem (s : State) (c : Nat) (f : Ctx → Ctx) : (s.modCtx c f).ringMem = s.ringMem := rfl
@[simp] theorem modCtx_hostMem (s : State) (c : Nat) (f : Ctx → Ctx) : (s.modCtx c f).hostMem = s.hostMem := rfl
@[simp] theorem modCtx_poison (s : State) (c : Nat) (f : Ctx → Ctx) : (s.modCtx c f).poison = s.poison := rfl
@[simp] theorem modCtx_ue (s : State) (c : Nat) (f : Ctx → Ctx) : (s.modCtx c f).ue = s.ue := rfl
@[simp] theorem modCtx_ce (s : State) (c : Nat) (f : Ctx → Ctx) : (s.modCtx c f).ce = s.ce := rfl
@[simp] theorem modCtx_spPoison (s : State) (c : Nat) (f : Ctx → Ctx) : (s.modCtx c f).spPoison = s.spPoison := rfl
@[simp] theorem modCtx_spUe (s : State) (c : Nat) (f : Ctx → Ctx) : (s.modCtx c f).spUe = s.spUe := rfl
@[simp] theorem modCtx_spCe (s : State) (c : Nat) (f : Ctx → Ctx) : (s.modCtx c f).spCe = s.spCe := rfl
@[simp] theorem modCtx_l2 (s : State) (c : Nat) (f : Ctx → Ctx) : (s.modCtx c f).l2 = s.l2 := rfl
@[simp] theorem modCtx_holds (s : State) (c : Nat) (f : Ctx → Ctx) : (s.modCtx c f).holds = s.holds := rfl
@[simp] theorem modCtx_views (s : State) (c : Nat) (f : Ctx → Ctx) : (s.modCtx c f).views = s.views := rfl
@[simp] theorem modCtx_thyme (s : State) (c : Nat) (f : Ctx → Ctx) : (s.modCtx c f).thyme = s.thyme := rfl
@[simp] theorem modCtx_thymeStaged (s : State) (c : Nat) (f : Ctx → Ctx) : (s.modCtx c f).thymeStaged = s.thymeStaged := rfl
@[simp] theorem modCtx_thymeAt (s : State) (c : Nat) (f : Ctx → Ctx) : (s.modCtx c f).thymeAt = s.thymeAt := rfl
@[simp] theorem modCtx_heldQ (s : State) (c : Nat) (f : Ctx → Ctx) : (s.modCtx c f).heldQ = s.heldQ := rfl
@[simp] theorem modCtx_gone (s : State) (c : Nat) (f : Ctx → Ctx) : (s.modCtx c f).gone = s.gone := rfl
@[simp] theorem modCtx_fab (s : State) (c : Nat) (f : Ctx → Ctx) : (s.modCtx c f).fab = s.fab := rfl
@[simp] theorem modCtx_plat (s : State) (c : Nat) (f : Ctx → Ctx) : (s.modCtx c f).plat = s.plat := rfl

/-! ### `modCore` -/

@[simp] theorem modCore_now (s : State) (c : Nat) (f : Core → Core) : (s.modCore c f).now = s.now := rfl
@[simp] theorem modCore_tickBase (s : State) (c : Nat) (f : Core → Core) : (s.modCore c f).tickBase = s.tickBase := rfl
@[simp] theorem modCore_agenda (s : State) (c : Nat) (f : Core → Core) : (s.modCore c f).agenda = s.agenda := rfl
@[simp] theorem modCore_arg (s : State) (c : Nat) (f : Core → Core) : (s.modCore c f).arg = s.arg := rfl
@[simp] theorem modCore_rr (s : State) (c : Nat) (f : Core → Core) : (s.modCore c f).rr = s.rr := rfl
@[simp] theorem modCore_nextId (s : State) (c : Nat) (f : Core → Core) : (s.modCore c f).nextId = s.nextId := rfl
@[simp] theorem modCore_fresh (s : State) (c : Nat) (f : Core → Core) : (s.modCore c f).fresh = s.fresh := rfl
@[simp] theorem modCore_iss (s : State) (c : Nat) (f : Core → Core) : (s.modCore c f).iss = s.iss := rfl
@[simp] theorem modCore_ctxs (s : State) (c : Nat) (f : Core → Core) : (s.modCore c f).ctxs = s.ctxs := rfl
@[simp] theorem modCore_stations (s : State) (c : Nat) (f : Core → Core) : (s.modCore c f).stations = s.stations := rfl
@[simp] theorem modCore_dies (s : State) (c : Nat) (f : Core → Core) : (s.modCore c f).dies = s.dies := rfl
@[simp] theorem modCore_ifcs (s : State) (c : Nat) (f : Core → Core) : (s.modCore c f).ifcs = s.ifcs := rfl
@[simp] theorem modCore_ops (s : State) (c : Nat) (f : Core → Core) : (s.modCore c f).ops = s.ops := rfl
@[simp] theorem modCore_chive (s : State) (c : Nat) (f : Core → Core) : (s.modCore c f).chive = s.chive := rfl
@[simp] theorem modCore_mem (s : State) (c : Nat) (f : Core → Core) : (s.modCore c f).mem = s.mem := rfl
@[simp] theorem modCore_spad (s : State) (c : Nat) (f : Core → Core) : (s.modCore c f).spad = s.spad := rfl
@[simp] theorem modCore_ringMem (s : State) (c : Nat) (f : Core → Core) : (s.modCore c f).ringMem = s.ringMem := rfl
@[simp] theorem modCore_hostMem (s : State) (c : Nat) (f : Core → Core) : (s.modCore c f).hostMem = s.hostMem := rfl
@[simp] theorem modCore_poison (s : State) (c : Nat) (f : Core → Core) : (s.modCore c f).poison = s.poison := rfl
@[simp] theorem modCore_ue (s : State) (c : Nat) (f : Core → Core) : (s.modCore c f).ue = s.ue := rfl
@[simp] theorem modCore_ce (s : State) (c : Nat) (f : Core → Core) : (s.modCore c f).ce = s.ce := rfl
@[simp] theorem modCore_spPoison (s : State) (c : Nat) (f : Core → Core) : (s.modCore c f).spPoison = s.spPoison := rfl
@[simp] theorem modCore_spUe (s : State) (c : Nat) (f : Core → Core) : (s.modCore c f).spUe = s.spUe := rfl
@[simp] theorem modCore_spCe (s : State) (c : Nat) (f : Core → Core) : (s.modCore c f).spCe = s.spCe := rfl
@[simp] theorem modCore_l2 (s : State) (c : Nat) (f : Core → Core) : (s.modCore c f).l2 = s.l2 := rfl
@[simp] theorem modCore_holds (s : State) (c : Nat) (f : Core → Core) : (s.modCore c f).holds = s.holds := rfl
@[simp] theorem modCore_views (s : State) (c : Nat) (f : Core → Core) : (s.modCore c f).views = s.views := rfl
@[simp] theorem modCore_thyme (s : State) (c : Nat) (f : Core → Core) : (s.modCore c f).thyme = s.thyme := rfl
@[simp] theorem modCore_thymeStaged (s : State) (c : Nat) (f : Core → Core) : (s.modCore c f).thymeStaged = s.thymeStaged := rfl
@[simp] theorem modCore_thymeAt (s : State) (c : Nat) (f : Core → Core) : (s.modCore c f).thymeAt = s.thymeAt := rfl
@[simp] theorem modCore_heldQ (s : State) (c : Nat) (f : Core → Core) : (s.modCore c f).heldQ = s.heldQ := rfl
@[simp] theorem modCore_gone (s : State) (c : Nat) (f : Core → Core) : (s.modCore c f).gone = s.gone := rfl
@[simp] theorem modCore_fab (s : State) (c : Nat) (f : Core → Core) : (s.modCore c f).fab = s.fab := rfl
@[simp] theorem modCore_plat (s : State) (c : Nat) (f : Core → Core) : (s.modCore c f).plat = s.plat := rfl

/-! ### `modStn` -/

@[simp] theorem modStn_now (s : State) (c : Nat) (f : Station → Station) : (s.modStn c f).now = s.now := rfl
@[simp] theorem modStn_tickBase (s : State) (c : Nat) (f : Station → Station) : (s.modStn c f).tickBase = s.tickBase := rfl
@[simp] theorem modStn_agenda (s : State) (c : Nat) (f : Station → Station) : (s.modStn c f).agenda = s.agenda := rfl
@[simp] theorem modStn_arg (s : State) (c : Nat) (f : Station → Station) : (s.modStn c f).arg = s.arg := rfl
@[simp] theorem modStn_rr (s : State) (c : Nat) (f : Station → Station) : (s.modStn c f).rr = s.rr := rfl
@[simp] theorem modStn_nextId (s : State) (c : Nat) (f : Station → Station) : (s.modStn c f).nextId = s.nextId := rfl
@[simp] theorem modStn_fresh (s : State) (c : Nat) (f : Station → Station) : (s.modStn c f).fresh = s.fresh := rfl
@[simp] theorem modStn_iss (s : State) (c : Nat) (f : Station → Station) : (s.modStn c f).iss = s.iss := rfl
@[simp] theorem modStn_ctxs (s : State) (c : Nat) (f : Station → Station) : (s.modStn c f).ctxs = s.ctxs := rfl
@[simp] theorem modStn_cores (s : State) (c : Nat) (f : Station → Station) : (s.modStn c f).cores = s.cores := rfl
@[simp] theorem modStn_dies (s : State) (c : Nat) (f : Station → Station) : (s.modStn c f).dies = s.dies := rfl
@[simp] theorem modStn_ifcs (s : State) (c : Nat) (f : Station → Station) : (s.modStn c f).ifcs = s.ifcs := rfl
@[simp] theorem modStn_ops (s : State) (c : Nat) (f : Station → Station) : (s.modStn c f).ops = s.ops := rfl
@[simp] theorem modStn_chive (s : State) (c : Nat) (f : Station → Station) : (s.modStn c f).chive = s.chive := rfl
@[simp] theorem modStn_mem (s : State) (c : Nat) (f : Station → Station) : (s.modStn c f).mem = s.mem := rfl
@[simp] theorem modStn_spad (s : State) (c : Nat) (f : Station → Station) : (s.modStn c f).spad = s.spad := rfl
@[simp] theorem modStn_ringMem (s : State) (c : Nat) (f : Station → Station) : (s.modStn c f).ringMem = s.ringMem := rfl
@[simp] theorem modStn_hostMem (s : State) (c : Nat) (f : Station → Station) : (s.modStn c f).hostMem = s.hostMem := rfl
@[simp] theorem modStn_poison (s : State) (c : Nat) (f : Station → Station) : (s.modStn c f).poison = s.poison := rfl
@[simp] theorem modStn_ue (s : State) (c : Nat) (f : Station → Station) : (s.modStn c f).ue = s.ue := rfl
@[simp] theorem modStn_ce (s : State) (c : Nat) (f : Station → Station) : (s.modStn c f).ce = s.ce := rfl
@[simp] theorem modStn_spPoison (s : State) (c : Nat) (f : Station → Station) : (s.modStn c f).spPoison = s.spPoison := rfl
@[simp] theorem modStn_spUe (s : State) (c : Nat) (f : Station → Station) : (s.modStn c f).spUe = s.spUe := rfl
@[simp] theorem modStn_spCe (s : State) (c : Nat) (f : Station → Station) : (s.modStn c f).spCe = s.spCe := rfl
@[simp] theorem modStn_l2 (s : State) (c : Nat) (f : Station → Station) : (s.modStn c f).l2 = s.l2 := rfl
@[simp] theorem modStn_holds (s : State) (c : Nat) (f : Station → Station) : (s.modStn c f).holds = s.holds := rfl
@[simp] theorem modStn_views (s : State) (c : Nat) (f : Station → Station) : (s.modStn c f).views = s.views := rfl
@[simp] theorem modStn_thyme (s : State) (c : Nat) (f : Station → Station) : (s.modStn c f).thyme = s.thyme := rfl
@[simp] theorem modStn_thymeStaged (s : State) (c : Nat) (f : Station → Station) : (s.modStn c f).thymeStaged = s.thymeStaged := rfl
@[simp] theorem modStn_thymeAt (s : State) (c : Nat) (f : Station → Station) : (s.modStn c f).thymeAt = s.thymeAt := rfl
@[simp] theorem modStn_heldQ (s : State) (c : Nat) (f : Station → Station) : (s.modStn c f).heldQ = s.heldQ := rfl
@[simp] theorem modStn_gone (s : State) (c : Nat) (f : Station → Station) : (s.modStn c f).gone = s.gone := rfl
@[simp] theorem modStn_fab (s : State) (c : Nat) (f : Station → Station) : (s.modStn c f).fab = s.fab := rfl
@[simp] theorem modStn_plat (s : State) (c : Nat) (f : Station → Station) : (s.modStn c f).plat = s.plat := rfl

/-! ### `modDie` -/

@[simp] theorem modDie_now (s : State) (c : Nat) (f : Die → Die) : (s.modDie c f).now = s.now := rfl
@[simp] theorem modDie_tickBase (s : State) (c : Nat) (f : Die → Die) : (s.modDie c f).tickBase = s.tickBase := rfl
@[simp] theorem modDie_agenda (s : State) (c : Nat) (f : Die → Die) : (s.modDie c f).agenda = s.agenda := rfl
@[simp] theorem modDie_arg (s : State) (c : Nat) (f : Die → Die) : (s.modDie c f).arg = s.arg := rfl
@[simp] theorem modDie_rr (s : State) (c : Nat) (f : Die → Die) : (s.modDie c f).rr = s.rr := rfl
@[simp] theorem modDie_nextId (s : State) (c : Nat) (f : Die → Die) : (s.modDie c f).nextId = s.nextId := rfl
@[simp] theorem modDie_fresh (s : State) (c : Nat) (f : Die → Die) : (s.modDie c f).fresh = s.fresh := rfl
@[simp] theorem modDie_iss (s : State) (c : Nat) (f : Die → Die) : (s.modDie c f).iss = s.iss := rfl
@[simp] theorem modDie_ctxs (s : State) (c : Nat) (f : Die → Die) : (s.modDie c f).ctxs = s.ctxs := rfl
@[simp] theorem modDie_cores (s : State) (c : Nat) (f : Die → Die) : (s.modDie c f).cores = s.cores := rfl
@[simp] theorem modDie_stations (s : State) (c : Nat) (f : Die → Die) : (s.modDie c f).stations = s.stations := rfl
@[simp] theorem modDie_ifcs (s : State) (c : Nat) (f : Die → Die) : (s.modDie c f).ifcs = s.ifcs := rfl
@[simp] theorem modDie_ops (s : State) (c : Nat) (f : Die → Die) : (s.modDie c f).ops = s.ops := rfl
@[simp] theorem modDie_chive (s : State) (c : Nat) (f : Die → Die) : (s.modDie c f).chive = s.chive := rfl
@[simp] theorem modDie_mem (s : State) (c : Nat) (f : Die → Die) : (s.modDie c f).mem = s.mem := rfl
@[simp] theorem modDie_spad (s : State) (c : Nat) (f : Die → Die) : (s.modDie c f).spad = s.spad := rfl
@[simp] theorem modDie_ringMem (s : State) (c : Nat) (f : Die → Die) : (s.modDie c f).ringMem = s.ringMem := rfl
@[simp] theorem modDie_hostMem (s : State) (c : Nat) (f : Die → Die) : (s.modDie c f).hostMem = s.hostMem := rfl
@[simp] theorem modDie_poison (s : State) (c : Nat) (f : Die → Die) : (s.modDie c f).poison = s.poison := rfl
@[simp] theorem modDie_ue (s : State) (c : Nat) (f : Die → Die) : (s.modDie c f).ue = s.ue := rfl
@[simp] theorem modDie_ce (s : State) (c : Nat) (f : Die → Die) : (s.modDie c f).ce = s.ce := rfl
@[simp] theorem modDie_spPoison (s : State) (c : Nat) (f : Die → Die) : (s.modDie c f).spPoison = s.spPoison := rfl
@[simp] theorem modDie_spUe (s : State) (c : Nat) (f : Die → Die) : (s.modDie c f).spUe = s.spUe := rfl
@[simp] theorem modDie_spCe (s : State) (c : Nat) (f : Die → Die) : (s.modDie c f).spCe = s.spCe := rfl
@[simp] theorem modDie_l2 (s : State) (c : Nat) (f : Die → Die) : (s.modDie c f).l2 = s.l2 := rfl
@[simp] theorem modDie_holds (s : State) (c : Nat) (f : Die → Die) : (s.modDie c f).holds = s.holds := rfl
@[simp] theorem modDie_views (s : State) (c : Nat) (f : Die → Die) : (s.modDie c f).views = s.views := rfl
@[simp] theorem modDie_thyme (s : State) (c : Nat) (f : Die → Die) : (s.modDie c f).thyme = s.thyme := rfl
@[simp] theorem modDie_thymeStaged (s : State) (c : Nat) (f : Die → Die) : (s.modDie c f).thymeStaged = s.thymeStaged := rfl
@[simp] theorem modDie_thymeAt (s : State) (c : Nat) (f : Die → Die) : (s.modDie c f).thymeAt = s.thymeAt := rfl
@[simp] theorem modDie_heldQ (s : State) (c : Nat) (f : Die → Die) : (s.modDie c f).heldQ = s.heldQ := rfl
@[simp] theorem modDie_gone (s : State) (c : Nat) (f : Die → Die) : (s.modDie c f).gone = s.gone := rfl
@[simp] theorem modDie_fab (s : State) (c : Nat) (f : Die → Die) : (s.modDie c f).fab = s.fab := rfl
@[simp] theorem modDie_plat (s : State) (c : Nat) (f : Die → Die) : (s.modDie c f).plat = s.plat := rfl

/-! ### `modIfc` -/

@[simp] theorem modIfc_now (s : State) (c : Nat) (f : Ifc → Ifc) : (s.modIfc c f).now = s.now := rfl
@[simp] theorem modIfc_tickBase (s : State) (c : Nat) (f : Ifc → Ifc) : (s.modIfc c f).tickBase = s.tickBase := rfl
@[simp] theorem modIfc_agenda (s : State) (c : Nat) (f : Ifc → Ifc) : (s.modIfc c f).agenda = s.agenda := rfl
@[simp] theorem modIfc_arg (s : State) (c : Nat) (f : Ifc → Ifc) : (s.modIfc c f).arg = s.arg := rfl
@[simp] theorem modIfc_rr (s : State) (c : Nat) (f : Ifc → Ifc) : (s.modIfc c f).rr = s.rr := rfl
@[simp] theorem modIfc_nextId (s : State) (c : Nat) (f : Ifc → Ifc) : (s.modIfc c f).nextId = s.nextId := rfl
@[simp] theorem modIfc_fresh (s : State) (c : Nat) (f : Ifc → Ifc) : (s.modIfc c f).fresh = s.fresh := rfl
@[simp] theorem modIfc_iss (s : State) (c : Nat) (f : Ifc → Ifc) : (s.modIfc c f).iss = s.iss := rfl
@[simp] theorem modIfc_ctxs (s : State) (c : Nat) (f : Ifc → Ifc) : (s.modIfc c f).ctxs = s.ctxs := rfl
@[simp] theorem modIfc_cores (s : State) (c : Nat) (f : Ifc → Ifc) : (s.modIfc c f).cores = s.cores := rfl
@[simp] theorem modIfc_stations (s : State) (c : Nat) (f : Ifc → Ifc) : (s.modIfc c f).stations = s.stations := rfl
@[simp] theorem modIfc_dies (s : State) (c : Nat) (f : Ifc → Ifc) : (s.modIfc c f).dies = s.dies := rfl
@[simp] theorem modIfc_ops (s : State) (c : Nat) (f : Ifc → Ifc) : (s.modIfc c f).ops = s.ops := rfl
@[simp] theorem modIfc_chive (s : State) (c : Nat) (f : Ifc → Ifc) : (s.modIfc c f).chive = s.chive := rfl
@[simp] theorem modIfc_mem (s : State) (c : Nat) (f : Ifc → Ifc) : (s.modIfc c f).mem = s.mem := rfl
@[simp] theorem modIfc_spad (s : State) (c : Nat) (f : Ifc → Ifc) : (s.modIfc c f).spad = s.spad := rfl
@[simp] theorem modIfc_ringMem (s : State) (c : Nat) (f : Ifc → Ifc) : (s.modIfc c f).ringMem = s.ringMem := rfl
@[simp] theorem modIfc_hostMem (s : State) (c : Nat) (f : Ifc → Ifc) : (s.modIfc c f).hostMem = s.hostMem := rfl
@[simp] theorem modIfc_poison (s : State) (c : Nat) (f : Ifc → Ifc) : (s.modIfc c f).poison = s.poison := rfl
@[simp] theorem modIfc_ue (s : State) (c : Nat) (f : Ifc → Ifc) : (s.modIfc c f).ue = s.ue := rfl
@[simp] theorem modIfc_ce (s : State) (c : Nat) (f : Ifc → Ifc) : (s.modIfc c f).ce = s.ce := rfl
@[simp] theorem modIfc_spPoison (s : State) (c : Nat) (f : Ifc → Ifc) : (s.modIfc c f).spPoison = s.spPoison := rfl
@[simp] theorem modIfc_spUe (s : State) (c : Nat) (f : Ifc → Ifc) : (s.modIfc c f).spUe = s.spUe := rfl
@[simp] theorem modIfc_spCe (s : State) (c : Nat) (f : Ifc → Ifc) : (s.modIfc c f).spCe = s.spCe := rfl
@[simp] theorem modIfc_l2 (s : State) (c : Nat) (f : Ifc → Ifc) : (s.modIfc c f).l2 = s.l2 := rfl
@[simp] theorem modIfc_holds (s : State) (c : Nat) (f : Ifc → Ifc) : (s.modIfc c f).holds = s.holds := rfl
@[simp] theorem modIfc_views (s : State) (c : Nat) (f : Ifc → Ifc) : (s.modIfc c f).views = s.views := rfl
@[simp] theorem modIfc_thyme (s : State) (c : Nat) (f : Ifc → Ifc) : (s.modIfc c f).thyme = s.thyme := rfl
@[simp] theorem modIfc_thymeStaged (s : State) (c : Nat) (f : Ifc → Ifc) : (s.modIfc c f).thymeStaged = s.thymeStaged := rfl
@[simp] theorem modIfc_thymeAt (s : State) (c : Nat) (f : Ifc → Ifc) : (s.modIfc c f).thymeAt = s.thymeAt := rfl
@[simp] theorem modIfc_heldQ (s : State) (c : Nat) (f : Ifc → Ifc) : (s.modIfc c f).heldQ = s.heldQ := rfl
@[simp] theorem modIfc_gone (s : State) (c : Nat) (f : Ifc → Ifc) : (s.modIfc c f).gone = s.gone := rfl
@[simp] theorem modIfc_fab (s : State) (c : Nat) (f : Ifc → Ifc) : (s.modIfc c f).fab = s.fab := rfl
@[simp] theorem modIfc_plat (s : State) (c : Nat) (f : Ifc → Ifc) : (s.modIfc c f).plat = s.plat := rfl

/-! ### `modPort` -/

@[simp] theorem modPort_now (s : State) (c : Nat) (f : FPort → FPort) : (s.modPort c f).now = s.now := rfl
@[simp] theorem modPort_tickBase (s : State) (c : Nat) (f : FPort → FPort) : (s.modPort c f).tickBase = s.tickBase := rfl
@[simp] theorem modPort_agenda (s : State) (c : Nat) (f : FPort → FPort) : (s.modPort c f).agenda = s.agenda := rfl
@[simp] theorem modPort_arg (s : State) (c : Nat) (f : FPort → FPort) : (s.modPort c f).arg = s.arg := rfl
@[simp] theorem modPort_rr (s : State) (c : Nat) (f : FPort → FPort) : (s.modPort c f).rr = s.rr := rfl
@[simp] theorem modPort_nextId (s : State) (c : Nat) (f : FPort → FPort) : (s.modPort c f).nextId = s.nextId := rfl
@[simp] theorem modPort_fresh (s : State) (c : Nat) (f : FPort → FPort) : (s.modPort c f).fresh = s.fresh := rfl
@[simp] theorem modPort_iss (s : State) (c : Nat) (f : FPort → FPort) : (s.modPort c f).iss = s.iss := rfl
@[simp] theorem modPort_ctxs (s : State) (c : Nat) (f : FPort → FPort) : (s.modPort c f).ctxs = s.ctxs := rfl
@[simp] theorem modPort_cores (s : State) (c : Nat) (f : FPort → FPort) : (s.modPort c f).cores = s.cores := rfl
@[simp] theorem modPort_stations (s : State) (c : Nat) (f : FPort → FPort) : (s.modPort c f).stations = s.stations := rfl
@[simp] theorem modPort_dies (s : State) (c : Nat) (f : FPort → FPort) : (s.modPort c f).dies = s.dies := rfl
@[simp] theorem modPort_ifcs (s : State) (c : Nat) (f : FPort → FPort) : (s.modPort c f).ifcs = s.ifcs := rfl
@[simp] theorem modPort_ops (s : State) (c : Nat) (f : FPort → FPort) : (s.modPort c f).ops = s.ops := rfl
@[simp] theorem modPort_chive (s : State) (c : Nat) (f : FPort → FPort) : (s.modPort c f).chive = s.chive := rfl
@[simp] theorem modPort_mem (s : State) (c : Nat) (f : FPort → FPort) : (s.modPort c f).mem = s.mem := rfl
@[simp] theorem modPort_spad (s : State) (c : Nat) (f : FPort → FPort) : (s.modPort c f).spad = s.spad := rfl
@[simp] theorem modPort_ringMem (s : State) (c : Nat) (f : FPort → FPort) : (s.modPort c f).ringMem = s.ringMem := rfl
@[simp] theorem modPort_hostMem (s : State) (c : Nat) (f : FPort → FPort) : (s.modPort c f).hostMem = s.hostMem := rfl
@[simp] theorem modPort_poison (s : State) (c : Nat) (f : FPort → FPort) : (s.modPort c f).poison = s.poison := rfl
@[simp] theorem modPort_ue (s : State) (c : Nat) (f : FPort → FPort) : (s.modPort c f).ue = s.ue := rfl
@[simp] theorem modPort_ce (s : State) (c : Nat) (f : FPort → FPort) : (s.modPort c f).ce = s.ce := rfl
@[simp] theorem modPort_spPoison (s : State) (c : Nat) (f : FPort → FPort) : (s.modPort c f).spPoison = s.spPoison := rfl
@[simp] theorem modPort_spUe (s : State) (c : Nat) (f : FPort → FPort) : (s.modPort c f).spUe = s.spUe := rfl
@[simp] theorem modPort_spCe (s : State) (c : Nat) (f : FPort → FPort) : (s.modPort c f).spCe = s.spCe := rfl
@[simp] theorem modPort_l2 (s : State) (c : Nat) (f : FPort → FPort) : (s.modPort c f).l2 = s.l2 := rfl
@[simp] theorem modPort_holds (s : State) (c : Nat) (f : FPort → FPort) : (s.modPort c f).holds = s.holds := rfl
@[simp] theorem modPort_views (s : State) (c : Nat) (f : FPort → FPort) : (s.modPort c f).views = s.views := rfl
@[simp] theorem modPort_thyme (s : State) (c : Nat) (f : FPort → FPort) : (s.modPort c f).thyme = s.thyme := rfl
@[simp] theorem modPort_thymeStaged (s : State) (c : Nat) (f : FPort → FPort) : (s.modPort c f).thymeStaged = s.thymeStaged := rfl
@[simp] theorem modPort_thymeAt (s : State) (c : Nat) (f : FPort → FPort) : (s.modPort c f).thymeAt = s.thymeAt := rfl
@[simp] theorem modPort_heldQ (s : State) (c : Nat) (f : FPort → FPort) : (s.modPort c f).heldQ = s.heldQ := rfl
@[simp] theorem modPort_gone (s : State) (c : Nat) (f : FPort → FPort) : (s.modPort c f).gone = s.gone := rfl
@[simp] theorem modPort_plat (s : State) (c : Nat) (f : FPort → FPort) : (s.modPort c f).plat = s.plat := rfl

/-! ### `modFab` -/

@[simp] theorem modFab_now (s : State) (f : Fabric → Fabric) : (s.modFab f).now = s.now := rfl
@[simp] theorem modFab_tickBase (s : State) (f : Fabric → Fabric) : (s.modFab f).tickBase = s.tickBase := rfl
@[simp] theorem modFab_agenda (s : State) (f : Fabric → Fabric) : (s.modFab f).agenda = s.agenda := rfl
@[simp] theorem modFab_arg (s : State) (f : Fabric → Fabric) : (s.modFab f).arg = s.arg := rfl
@[simp] theorem modFab_rr (s : State) (f : Fabric → Fabric) : (s.modFab f).rr = s.rr := rfl
@[simp] theorem modFab_nextId (s : State) (f : Fabric → Fabric) : (s.modFab f).nextId = s.nextId := rfl
@[simp] theorem modFab_fresh (s : State) (f : Fabric → Fabric) : (s.modFab f).fresh = s.fresh := rfl
@[simp] theorem modFab_iss (s : State) (f : Fabric → Fabric) : (s.modFab f).iss = s.iss := rfl
@[simp] theorem modFab_ctxs (s : State) (f : Fabric → Fabric) : (s.modFab f).ctxs = s.ctxs := rfl
@[simp] theorem modFab_cores (s : State) (f : Fabric → Fabric) : (s.modFab f).cores = s.cores := rfl
@[simp] theorem modFab_stations (s : State) (f : Fabric → Fabric) : (s.modFab f).stations = s.stations := rfl
@[simp] theorem modFab_dies (s : State) (f : Fabric → Fabric) : (s.modFab f).dies = s.dies := rfl
@[simp] theorem modFab_ifcs (s : State) (f : Fabric → Fabric) : (s.modFab f).ifcs = s.ifcs := rfl
@[simp] theorem modFab_ops (s : State) (f : Fabric → Fabric) : (s.modFab f).ops = s.ops := rfl
@[simp] theorem modFab_chive (s : State) (f : Fabric → Fabric) : (s.modFab f).chive = s.chive := rfl
@[simp] theorem modFab_mem (s : State) (f : Fabric → Fabric) : (s.modFab f).mem = s.mem := rfl
@[simp] theorem modFab_spad (s : State) (f : Fabric → Fabric) : (s.modFab f).spad = s.spad := rfl
@[simp] theorem modFab_ringMem (s : State) (f : Fabric → Fabric) : (s.modFab f).ringMem = s.ringMem := rfl
@[simp] theorem modFab_hostMem (s : State) (f : Fabric → Fabric) : (s.modFab f).hostMem = s.hostMem := rfl
@[simp] theorem modFab_poison (s : State) (f : Fabric → Fabric) : (s.modFab f).poison = s.poison := rfl
@[simp] theorem modFab_ue (s : State) (f : Fabric → Fabric) : (s.modFab f).ue = s.ue := rfl
@[simp] theorem modFab_ce (s : State) (f : Fabric → Fabric) : (s.modFab f).ce = s.ce := rfl
@[simp] theorem modFab_spPoison (s : State) (f : Fabric → Fabric) : (s.modFab f).spPoison = s.spPoison := rfl
@[simp] theorem modFab_spUe (s : State) (f : Fabric → Fabric) : (s.modFab f).spUe = s.spUe := rfl
@[simp] theorem modFab_spCe (s : State) (f : Fabric → Fabric) : (s.modFab f).spCe = s.spCe := rfl
@[simp] theorem modFab_l2 (s : State) (f : Fabric → Fabric) : (s.modFab f).l2 = s.l2 := rfl
@[simp] theorem modFab_holds (s : State) (f : Fabric → Fabric) : (s.modFab f).holds = s.holds := rfl
@[simp] theorem modFab_views (s : State) (f : Fabric → Fabric) : (s.modFab f).views = s.views := rfl
@[simp] theorem modFab_thyme (s : State) (f : Fabric → Fabric) : (s.modFab f).thyme = s.thyme := rfl
@[simp] theorem modFab_thymeStaged (s : State) (f : Fabric → Fabric) : (s.modFab f).thymeStaged = s.thymeStaged := rfl
@[simp] theorem modFab_thymeAt (s : State) (f : Fabric → Fabric) : (s.modFab f).thymeAt = s.thymeAt := rfl
@[simp] theorem modFab_heldQ (s : State) (f : Fabric → Fabric) : (s.modFab f).heldQ = s.heldQ := rfl
@[simp] theorem modFab_gone (s : State) (f : Fabric → Fabric) : (s.modFab f).gone = s.gone := rfl
@[simp] theorem modFab_plat (s : State) (f : Fabric → Fabric) : (s.modFab f).plat = s.plat := rfl

/-! ### `modPlat` -/

@[simp] theorem modPlat_now (s : State) (f : Platform → Platform) : (s.modPlat f).now = s.now := rfl
@[simp] theorem modPlat_tickBase (s : State) (f : Platform → Platform) : (s.modPlat f).tickBase = s.tickBase := rfl
@[simp] theorem modPlat_agenda (s : State) (f : Platform → Platform) : (s.modPlat f).agenda = s.agenda := rfl
@[simp] theorem modPlat_arg (s : State) (f : Platform → Platform) : (s.modPlat f).arg = s.arg := rfl
@[simp] theorem modPlat_rr (s : State) (f : Platform → Platform) : (s.modPlat f).rr = s.rr := rfl
@[simp] theorem modPlat_nextId (s : State) (f : Platform → Platform) : (s.modPlat f).nextId = s.nextId := rfl
@[simp] theorem modPlat_fresh (s : State) (f : Platform → Platform) : (s.modPlat f).fresh = s.fresh := rfl
@[simp] theorem modPlat_iss (s : State) (f : Platform → Platform) : (s.modPlat f).iss = s.iss := rfl
@[simp] theorem modPlat_ctxs (s : State) (f : Platform → Platform) : (s.modPlat f).ctxs = s.ctxs := rfl
@[simp] theorem modPlat_cores (s : State) (f : Platform → Platform) : (s.modPlat f).cores = s.cores := rfl
@[simp] theorem modPlat_stations (s : State) (f : Platform → Platform) : (s.modPlat f).stations = s.stations := rfl
@[simp] theorem modPlat_dies (s : State) (f : Platform → Platform) : (s.modPlat f).dies = s.dies := rfl
@[simp] theorem modPlat_ifcs (s : State) (f : Platform → Platform) : (s.modPlat f).ifcs = s.ifcs := rfl
@[simp] theorem modPlat_ops (s : State) (f : Platform → Platform) : (s.modPlat f).ops = s.ops := rfl
@[simp] theorem modPlat_chive (s : State) (f : Platform → Platform) : (s.modPlat f).chive = s.chive := rfl
@[simp] theorem modPlat_mem (s : State) (f : Platform → Platform) : (s.modPlat f).mem = s.mem := rfl
@[simp] theorem modPlat_spad (s : State) (f : Platform → Platform) : (s.modPlat f).spad = s.spad := rfl
@[simp] theorem modPlat_ringMem (s : State) (f : Platform → Platform) : (s.modPlat f).ringMem = s.ringMem := rfl
@[simp] theorem modPlat_hostMem (s : State) (f : Platform → Platform) : (s.modPlat f).hostMem = s.hostMem := rfl
@[simp] theorem modPlat_poison (s : State) (f : Platform → Platform) : (s.modPlat f).poison = s.poison := rfl
@[simp] theorem modPlat_ue (s : State) (f : Platform → Platform) : (s.modPlat f).ue = s.ue := rfl
@[simp] theorem modPlat_ce (s : State) (f : Platform → Platform) : (s.modPlat f).ce = s.ce := rfl
@[simp] theorem modPlat_spPoison (s : State) (f : Platform → Platform) : (s.modPlat f).spPoison = s.spPoison := rfl
@[simp] theorem modPlat_spUe (s : State) (f : Platform → Platform) : (s.modPlat f).spUe = s.spUe := rfl
@[simp] theorem modPlat_spCe (s : State) (f : Platform → Platform) : (s.modPlat f).spCe = s.spCe := rfl
@[simp] theorem modPlat_l2 (s : State) (f : Platform → Platform) : (s.modPlat f).l2 = s.l2 := rfl
@[simp] theorem modPlat_holds (s : State) (f : Platform → Platform) : (s.modPlat f).holds = s.holds := rfl
@[simp] theorem modPlat_views (s : State) (f : Platform → Platform) : (s.modPlat f).views = s.views := rfl
@[simp] theorem modPlat_thyme (s : State) (f : Platform → Platform) : (s.modPlat f).thyme = s.thyme := rfl
@[simp] theorem modPlat_thymeStaged (s : State) (f : Platform → Platform) : (s.modPlat f).thymeStaged = s.thymeStaged := rfl
@[simp] theorem modPlat_thymeAt (s : State) (f : Platform → Platform) : (s.modPlat f).thymeAt = s.thymeAt := rfl
@[simp] theorem modPlat_heldQ (s : State) (f : Platform → Platform) : (s.modPlat f).heldQ = s.heldQ := rfl
@[simp] theorem modPlat_gone (s : State) (f : Platform → Platform) : (s.modPlat f).gone = s.gone := rfl
@[simp] theorem modPlat_fab (s : State) (f : Platform → Platform) : (s.modPlat f).fab = s.fab := rfl

/-! ### `modIss` -/

@[simp] theorem modIss_now (s : State) (f : Issue → Issue) : (s.modIss f).now = s.now := rfl
@[simp] theorem modIss_tickBase (s : State) (f : Issue → Issue) : (s.modIss f).tickBase = s.tickBase := rfl
@[simp] theorem modIss_agenda (s : State) (f : Issue → Issue) : (s.modIss f).agenda = s.agenda := rfl
@[simp] theorem modIss_arg (s : State) (f : Issue → Issue) : (s.modIss f).arg = s.arg := rfl
@[simp] theorem modIss_rr (s : State) (f : Issue → Issue) : (s.modIss f).rr = s.rr := rfl
@[simp] theorem modIss_nextId (s : State) (f : Issue → Issue) : (s.modIss f).nextId = s.nextId := rfl
@[simp] theorem modIss_fresh (s : State) (f : Issue → Issue) : (s.modIss f).fresh = s.fresh := rfl
@[simp] theorem modIss_ctxs (s : State) (f : Issue → Issue) : (s.modIss f).ctxs = s.ctxs := rfl
@[simp] theorem modIss_cores (s : State) (f : Issue → Issue) : (s.modIss f).cores = s.cores := rfl
@[simp] theorem modIss_stations (s : State) (f : Issue → Issue) : (s.modIss f).stations = s.stations := rfl
@[simp] theorem modIss_dies (s : State) (f : Issue → Issue) : (s.modIss f).dies = s.dies := rfl
@[simp] theorem modIss_ifcs (s : State) (f : Issue → Issue) : (s.modIss f).ifcs = s.ifcs := rfl
@[simp] theorem modIss_ops (s : State) (f : Issue → Issue) : (s.modIss f).ops = s.ops := rfl
@[simp] theorem modIss_chive (s : State) (f : Issue → Issue) : (s.modIss f).chive = s.chive := rfl
@[simp] theorem modIss_mem (s : State) (f : Issue → Issue) : (s.modIss f).mem = s.mem := rfl
@[simp] theorem modIss_spad (s : State) (f : Issue → Issue) : (s.modIss f).spad = s.spad := rfl
@[simp] theorem modIss_ringMem (s : State) (f : Issue → Issue) : (s.modIss f).ringMem = s.ringMem := rfl
@[simp] theorem modIss_hostMem (s : State) (f : Issue → Issue) : (s.modIss f).hostMem = s.hostMem := rfl
@[simp] theorem modIss_poison (s : State) (f : Issue → Issue) : (s.modIss f).poison = s.poison := rfl
@[simp] theorem modIss_ue (s : State) (f : Issue → Issue) : (s.modIss f).ue = s.ue := rfl
@[simp] theorem modIss_ce (s : State) (f : Issue → Issue) : (s.modIss f).ce = s.ce := rfl
@[simp] theorem modIss_spPoison (s : State) (f : Issue → Issue) : (s.modIss f).spPoison = s.spPoison := rfl
@[simp] theorem modIss_spUe (s : State) (f : Issue → Issue) : (s.modIss f).spUe = s.spUe := rfl
@[simp] theorem modIss_spCe (s : State) (f : Issue → Issue) : (s.modIss f).spCe = s.spCe := rfl
@[simp] theorem modIss_l2 (s : State) (f : Issue → Issue) : (s.modIss f).l2 = s.l2 := rfl
@[simp] theorem modIss_holds (s : State) (f : Issue → Issue) : (s.modIss f).holds = s.holds := rfl
@[simp] theorem modIss_views (s : State) (f : Issue → Issue) : (s.modIss f).views = s.views := rfl
@[simp] theorem modIss_thyme (s : State) (f : Issue → Issue) : (s.modIss f).thyme = s.thyme := rfl
@[simp] theorem modIss_thymeStaged (s : State) (f : Issue → Issue) : (s.modIss f).thymeStaged = s.thymeStaged := rfl
@[simp] theorem modIss_thymeAt (s : State) (f : Issue → Issue) : (s.modIss f).thymeAt = s.thymeAt := rfl
@[simp] theorem modIss_heldQ (s : State) (f : Issue → Issue) : (s.modIss f).heldQ = s.heldQ := rfl
@[simp] theorem modIss_gone (s : State) (f : Issue → Issue) : (s.modIss f).gone = s.gone := rfl
@[simp] theorem modIss_fab (s : State) (f : Issue → Issue) : (s.modIss f).fab = s.fab := rfl
@[simp] theorem modIss_plat (s : State) (f : Issue → Issue) : (s.modIss f).plat = s.plat := rfl

/-! ### `eff` -/

@[simp] theorem eff_now (s : State) (e : Eff) : (s.eff e).now = s.now := rfl
@[simp] theorem eff_tickBase (s : State) (e : Eff) : (s.eff e).tickBase = s.tickBase := rfl
@[simp] theorem eff_agenda (s : State) (e : Eff) : (s.eff e).agenda = s.agenda := rfl
@[simp] theorem eff_arg (s : State) (e : Eff) : (s.eff e).arg = s.arg := rfl
@[simp] theorem eff_rr (s : State) (e : Eff) : (s.eff e).rr = s.rr := rfl
@[simp] theorem eff_nextId (s : State) (e : Eff) : (s.eff e).nextId = s.nextId := rfl
@[simp] theorem eff_fresh (s : State) (e : Eff) : (s.eff e).fresh = s.fresh := rfl
@[simp] theorem eff_ctxs (s : State) (e : Eff) : (s.eff e).ctxs = s.ctxs := rfl
@[simp] theorem eff_cores (s : State) (e : Eff) : (s.eff e).cores = s.cores := rfl
@[simp] theorem eff_stations (s : State) (e : Eff) : (s.eff e).stations = s.stations := rfl
@[simp] theorem eff_dies (s : State) (e : Eff) : (s.eff e).dies = s.dies := rfl
@[simp] theorem eff_ifcs (s : State) (e : Eff) : (s.eff e).ifcs = s.ifcs := rfl
@[simp] theorem eff_ops (s : State) (e : Eff) : (s.eff e).ops = s.ops := rfl
@[simp] theorem eff_chive (s : State) (e : Eff) : (s.eff e).chive = s.chive := rfl
@[simp] theorem eff_mem (s : State) (e : Eff) : (s.eff e).mem = s.mem := rfl
@[simp] theorem eff_spad (s : State) (e : Eff) : (s.eff e).spad = s.spad := rfl
@[simp] theorem eff_ringMem (s : State) (e : Eff) : (s.eff e).ringMem = s.ringMem := rfl
@[simp] theorem eff_hostMem (s : State) (e : Eff) : (s.eff e).hostMem = s.hostMem := rfl
@[simp] theorem eff_poison (s : State) (e : Eff) : (s.eff e).poison = s.poison := rfl
@[simp] theorem eff_ue (s : State) (e : Eff) : (s.eff e).ue = s.ue := rfl
@[simp] theorem eff_ce (s : State) (e : Eff) : (s.eff e).ce = s.ce := rfl
@[simp] theorem eff_spPoison (s : State) (e : Eff) : (s.eff e).spPoison = s.spPoison := rfl
@[simp] theorem eff_spUe (s : State) (e : Eff) : (s.eff e).spUe = s.spUe := rfl
@[simp] theorem eff_spCe (s : State) (e : Eff) : (s.eff e).spCe = s.spCe := rfl
@[simp] theorem eff_l2 (s : State) (e : Eff) : (s.eff e).l2 = s.l2 := rfl
@[simp] theorem eff_holds (s : State) (e : Eff) : (s.eff e).holds = s.holds := rfl
@[simp] theorem eff_views (s : State) (e : Eff) : (s.eff e).views = s.views := rfl
@[simp] theorem eff_thyme (s : State) (e : Eff) : (s.eff e).thyme = s.thyme := rfl
@[simp] theorem eff_thymeStaged (s : State) (e : Eff) : (s.eff e).thymeStaged = s.thymeStaged := rfl
@[simp] theorem eff_thymeAt (s : State) (e : Eff) : (s.eff e).thymeAt = s.thymeAt := rfl
@[simp] theorem eff_heldQ (s : State) (e : Eff) : (s.eff e).heldQ = s.heldQ := rfl
@[simp] theorem eff_gone (s : State) (e : Eff) : (s.eff e).gone = s.gone := rfl
@[simp] theorem eff_fab (s : State) (e : Eff) : (s.eff e).fab = s.fab := rfl
@[simp] theorem eff_plat (s : State) (e : Eff) : (s.eff e).plat = s.plat := rfl

/-! ### `charge` -/

@[simp] theorem charge_now (s : State) (u m : Nat) : (s.charge u m).now = s.now := rfl
@[simp] theorem charge_tickBase (s : State) (u m : Nat) : (s.charge u m).tickBase = s.tickBase := rfl
@[simp] theorem charge_agenda (s : State) (u m : Nat) : (s.charge u m).agenda = s.agenda := rfl
@[simp] theorem charge_arg (s : State) (u m : Nat) : (s.charge u m).arg = s.arg := rfl
@[simp] theorem charge_rr (s : State) (u m : Nat) : (s.charge u m).rr = s.rr := rfl
@[simp] theorem charge_nextId (s : State) (u m : Nat) : (s.charge u m).nextId = s.nextId := rfl
@[simp] theorem charge_fresh (s : State) (u m : Nat) : (s.charge u m).fresh = s.fresh := rfl
@[simp] theorem charge_ctxs (s : State) (u m : Nat) : (s.charge u m).ctxs = s.ctxs := rfl
@[simp] theorem charge_cores (s : State) (u m : Nat) : (s.charge u m).cores = s.cores := rfl
@[simp] theorem charge_stations (s : State) (u m : Nat) : (s.charge u m).stations = s.stations := rfl
@[simp] theorem charge_dies (s : State) (u m : Nat) : (s.charge u m).dies = s.dies := rfl
@[simp] theorem charge_ifcs (s : State) (u m : Nat) : (s.charge u m).ifcs = s.ifcs := rfl
@[simp] theorem charge_ops (s : State) (u m : Nat) : (s.charge u m).ops = s.ops := rfl
@[simp] theorem charge_chive (s : State) (u m : Nat) : (s.charge u m).chive = s.chive := rfl
@[simp] theorem charge_mem (s : State) (u m : Nat) : (s.charge u m).mem = s.mem := rfl
@[simp] theorem charge_spad (s : State) (u m : Nat) : (s.charge u m).spad = s.spad := rfl
@[simp] theorem charge_ringMem (s : State) (u m : Nat) : (s.charge u m).ringMem = s.ringMem := rfl
@[simp] theorem charge_hostMem (s : State) (u m : Nat) : (s.charge u m).hostMem = s.hostMem := rfl
@[simp] theorem charge_poison (s : State) (u m : Nat) : (s.charge u m).poison = s.poison := rfl
@[simp] theorem charge_ue (s : State) (u m : Nat) : (s.charge u m).ue = s.ue := rfl
@[simp] theorem charge_ce (s : State) (u m : Nat) : (s.charge u m).ce = s.ce := rfl
@[simp] theorem charge_spPoison (s : State) (u m : Nat) : (s.charge u m).spPoison = s.spPoison := rfl
@[simp] theorem charge_spUe (s : State) (u m : Nat) : (s.charge u m).spUe = s.spUe := rfl
@[simp] theorem charge_spCe (s : State) (u m : Nat) : (s.charge u m).spCe = s.spCe := rfl
@[simp] theorem charge_l2 (s : State) (u m : Nat) : (s.charge u m).l2 = s.l2 := rfl
@[simp] theorem charge_holds (s : State) (u m : Nat) : (s.charge u m).holds = s.holds := rfl
@[simp] theorem charge_views (s : State) (u m : Nat) : (s.charge u m).views = s.views := rfl
@[simp] theorem charge_thyme (s : State) (u m : Nat) : (s.charge u m).thyme = s.thyme := rfl
@[simp] theorem charge_thymeStaged (s : State) (u m : Nat) : (s.charge u m).thymeStaged = s.thymeStaged := rfl
@[simp] theorem charge_thymeAt (s : State) (u m : Nat) : (s.charge u m).thymeAt = s.thymeAt := rfl
@[simp] theorem charge_heldQ (s : State) (u m : Nat) : (s.charge u m).heldQ = s.heldQ := rfl
@[simp] theorem charge_gone (s : State) (u m : Nat) : (s.charge u m).gone = s.gone := rfl
@[simp] theorem charge_fab (s : State) (u m : Nat) : (s.charge u m).fab = s.fab := rfl
@[simp] theorem charge_plat (s : State) (u m : Nat) : (s.charge u m).plat = s.plat := rfl

/-! ### `faultAt` -/

@[simp] theorem faultAt_now (s : State) (c : Code) (a k : Nat) : (s.faultAt c a k).now = s.now := rfl
@[simp] theorem faultAt_tickBase (s : State) (c : Code) (a k : Nat) : (s.faultAt c a k).tickBase = s.tickBase := rfl
@[simp] theorem faultAt_agenda (s : State) (c : Code) (a k : Nat) : (s.faultAt c a k).agenda = s.agenda := rfl
@[simp] theorem faultAt_arg (s : State) (c : Code) (a k : Nat) : (s.faultAt c a k).arg = s.arg := rfl
@[simp] theorem faultAt_rr (s : State) (c : Code) (a k : Nat) : (s.faultAt c a k).rr = s.rr := rfl
@[simp] theorem faultAt_nextId (s : State) (c : Code) (a k : Nat) : (s.faultAt c a k).nextId = s.nextId := rfl
@[simp] theorem faultAt_fresh (s : State) (c : Code) (a k : Nat) : (s.faultAt c a k).fresh = s.fresh := rfl
@[simp] theorem faultAt_ctxs (s : State) (c : Code) (a k : Nat) : (s.faultAt c a k).ctxs = s.ctxs := rfl
@[simp] theorem faultAt_cores (s : State) (c : Code) (a k : Nat) : (s.faultAt c a k).cores = s.cores := rfl
@[simp] theorem faultAt_stations (s : State) (c : Code) (a k : Nat) : (s.faultAt c a k).stations = s.stations := rfl
@[simp] theorem faultAt_dies (s : State) (c : Code) (a k : Nat) : (s.faultAt c a k).dies = s.dies := rfl
@[simp] theorem faultAt_ifcs (s : State) (c : Code) (a k : Nat) : (s.faultAt c a k).ifcs = s.ifcs := rfl
@[simp] theorem faultAt_ops (s : State) (c : Code) (a k : Nat) : (s.faultAt c a k).ops = s.ops := rfl
@[simp] theorem faultAt_chive (s : State) (c : Code) (a k : Nat) : (s.faultAt c a k).chive = s.chive := rfl
@[simp] theorem faultAt_mem (s : State) (c : Code) (a k : Nat) : (s.faultAt c a k).mem = s.mem := rfl
@[simp] theorem faultAt_spad (s : State) (c : Code) (a k : Nat) : (s.faultAt c a k).spad = s.spad := rfl
@[simp] theorem faultAt_ringMem (s : State) (c : Code) (a k : Nat) : (s.faultAt c a k).ringMem = s.ringMem := rfl
@[simp] theorem faultAt_hostMem (s : State) (c : Code) (a k : Nat) : (s.faultAt c a k).hostMem = s.hostMem := rfl
@[simp] theorem faultAt_poison (s : State) (c : Code) (a k : Nat) : (s.faultAt c a k).poison = s.poison := rfl
@[simp] theorem faultAt_ue (s : State) (c : Code) (a k : Nat) : (s.faultAt c a k).ue = s.ue := rfl
@[simp] theorem faultAt_ce (s : State) (c : Code) (a k : Nat) : (s.faultAt c a k).ce = s.ce := rfl
@[simp] theorem faultAt_spPoison (s : State) (c : Code) (a k : Nat) : (s.faultAt c a k).spPoison = s.spPoison := rfl
@[simp] theorem faultAt_spUe (s : State) (c : Code) (a k : Nat) : (s.faultAt c a k).spUe = s.spUe := rfl
@[simp] theorem faultAt_spCe (s : State) (c : Code) (a k : Nat) : (s.faultAt c a k).spCe = s.spCe := rfl
@[simp] theorem faultAt_l2 (s : State) (c : Code) (a k : Nat) : (s.faultAt c a k).l2 = s.l2 := rfl
@[simp] theorem faultAt_holds (s : State) (c : Code) (a k : Nat) : (s.faultAt c a k).holds = s.holds := rfl
@[simp] theorem faultAt_views (s : State) (c : Code) (a k : Nat) : (s.faultAt c a k).views = s.views := rfl
@[simp] theorem faultAt_thyme (s : State) (c : Code) (a k : Nat) : (s.faultAt c a k).thyme = s.thyme := rfl
@[simp] theorem faultAt_thymeStaged (s : State) (c : Code) (a k : Nat) : (s.faultAt c a k).thymeStaged = s.thymeStaged := rfl
@[simp] theorem faultAt_thymeAt (s : State) (c : Code) (a k : Nat) : (s.faultAt c a k).thymeAt = s.thymeAt := rfl
@[simp] theorem faultAt_heldQ (s : State) (c : Code) (a k : Nat) : (s.faultAt c a k).heldQ = s.heldQ := rfl
@[simp] theorem faultAt_gone (s : State) (c : Code) (a k : Nat) : (s.faultAt c a k).gone = s.gone := rfl
@[simp] theorem faultAt_fab (s : State) (c : Code) (a k : Nat) : (s.faultAt c a k).fab = s.fab := rfl
@[simp] theorem faultAt_plat (s : State) (c : Code) (a k : Nat) : (s.faultAt c a k).plat = s.plat := rfl

/-! ### `wait` -/

@[simp] theorem wait_now (s : State) : s.wait.now = s.now := rfl
@[simp] theorem wait_tickBase (s : State) : s.wait.tickBase = s.tickBase := rfl
@[simp] theorem wait_agenda (s : State) : s.wait.agenda = s.agenda := rfl
@[simp] theorem wait_arg (s : State) : s.wait.arg = s.arg := rfl
@[simp] theorem wait_rr (s : State) : s.wait.rr = s.rr := rfl
@[simp] theorem wait_nextId (s : State) : s.wait.nextId = s.nextId := rfl
@[simp] theorem wait_fresh (s : State) : s.wait.fresh = s.fresh := rfl
@[simp] theorem wait_ctxs (s : State) : s.wait.ctxs = s.ctxs := rfl
@[simp] theorem wait_cores (s : State) : s.wait.cores = s.cores := rfl
@[simp] theorem wait_stations (s : State) : s.wait.stations = s.stations := rfl
@[simp] theorem wait_dies (s : State) : s.wait.dies = s.dies := rfl
@[simp] theorem wait_ifcs (s : State) : s.wait.ifcs = s.ifcs := rfl
@[simp] theorem wait_ops (s : State) : s.wait.ops = s.ops := rfl
@[simp] theorem wait_chive (s : State) : s.wait.chive = s.chive := rfl
@[simp] theorem wait_mem (s : State) : s.wait.mem = s.mem := rfl
@[simp] theorem wait_spad (s : State) : s.wait.spad = s.spad := rfl
@[simp] theorem wait_ringMem (s : State) : s.wait.ringMem = s.ringMem := rfl
@[simp] theorem wait_hostMem (s : State) : s.wait.hostMem = s.hostMem := rfl
@[simp] theorem wait_poison (s : State) : s.wait.poison = s.poison := rfl
@[simp] theorem wait_ue (s : State) : s.wait.ue = s.ue := rfl
@[simp] theorem wait_ce (s : State) : s.wait.ce = s.ce := rfl
@[simp] theorem wait_spPoison (s : State) : s.wait.spPoison = s.spPoison := rfl
@[simp] theorem wait_spUe (s : State) : s.wait.spUe = s.spUe := rfl
@[simp] theorem wait_spCe (s : State) : s.wait.spCe = s.spCe := rfl
@[simp] theorem wait_l2 (s : State) : s.wait.l2 = s.l2 := rfl
@[simp] theorem wait_holds (s : State) : s.wait.holds = s.holds := rfl
@[simp] theorem wait_views (s : State) : s.wait.views = s.views := rfl
@[simp] theorem wait_thyme (s : State) : s.wait.thyme = s.thyme := rfl
@[simp] theorem wait_thymeStaged (s : State) : s.wait.thymeStaged = s.thymeStaged := rfl
@[simp] theorem wait_thymeAt (s : State) : s.wait.thymeAt = s.thymeAt := rfl
@[simp] theorem wait_heldQ (s : State) : s.wait.heldQ = s.heldQ := rfl
@[simp] theorem wait_gone (s : State) : s.wait.gone = s.gone := rfl
@[simp] theorem wait_fab (s : State) : s.wait.fab = s.fab := rfl
@[simp] theorem wait_plat (s : State) : s.wait.plat = s.plat := rfl

/-! ### `waitIdle` -/

@[simp] theorem waitIdle_now (s : State) : s.waitIdle.now = s.now := rfl
@[simp] theorem waitIdle_tickBase (s : State) : s.waitIdle.tickBase = s.tickBase := rfl
@[simp] theorem waitIdle_agenda (s : State) : s.waitIdle.agenda = s.agenda := rfl
@[simp] theorem waitIdle_arg (s : State) : s.waitIdle.arg = s.arg := rfl
@[simp] theorem waitIdle_rr (s : State) : s.waitIdle.rr = s.rr := rfl
@[simp] theorem waitIdle_nextId (s : State) : s.waitIdle.nextId = s.nextId := rfl
@[simp] theorem waitIdle_fresh (s : State) : s.waitIdle.fresh = s.fresh := rfl
@[simp] theorem waitIdle_ctxs (s : State) : s.waitIdle.ctxs = s.ctxs := rfl
@[simp] theorem waitIdle_cores (s : State) : s.waitIdle.cores = s.cores := rfl
@[simp] theorem waitIdle_stations (s : State) : s.waitIdle.stations = s.stations := rfl
@[simp] theorem waitIdle_dies (s : State) : s.waitIdle.dies = s.dies := rfl
@[simp] theorem waitIdle_ifcs (s : State) : s.waitIdle.ifcs = s.ifcs := rfl
@[simp] theorem waitIdle_ops (s : State) : s.waitIdle.ops = s.ops := rfl
@[simp] theorem waitIdle_chive (s : State) : s.waitIdle.chive = s.chive := rfl
@[simp] theorem waitIdle_mem (s : State) : s.waitIdle.mem = s.mem := rfl
@[simp] theorem waitIdle_spad (s : State) : s.waitIdle.spad = s.spad := rfl
@[simp] theorem waitIdle_ringMem (s : State) : s.waitIdle.ringMem = s.ringMem := rfl
@[simp] theorem waitIdle_hostMem (s : State) : s.waitIdle.hostMem = s.hostMem := rfl
@[simp] theorem waitIdle_poison (s : State) : s.waitIdle.poison = s.poison := rfl
@[simp] theorem waitIdle_ue (s : State) : s.waitIdle.ue = s.ue := rfl
@[simp] theorem waitIdle_ce (s : State) : s.waitIdle.ce = s.ce := rfl
@[simp] theorem waitIdle_spPoison (s : State) : s.waitIdle.spPoison = s.spPoison := rfl
@[simp] theorem waitIdle_spUe (s : State) : s.waitIdle.spUe = s.spUe := rfl
@[simp] theorem waitIdle_spCe (s : State) : s.waitIdle.spCe = s.spCe := rfl
@[simp] theorem waitIdle_l2 (s : State) : s.waitIdle.l2 = s.l2 := rfl
@[simp] theorem waitIdle_holds (s : State) : s.waitIdle.holds = s.holds := rfl
@[simp] theorem waitIdle_views (s : State) : s.waitIdle.views = s.views := rfl
@[simp] theorem waitIdle_thyme (s : State) : s.waitIdle.thyme = s.thyme := rfl
@[simp] theorem waitIdle_thymeStaged (s : State) : s.waitIdle.thymeStaged = s.thymeStaged := rfl
@[simp] theorem waitIdle_thymeAt (s : State) : s.waitIdle.thymeAt = s.thymeAt := rfl
@[simp] theorem waitIdle_heldQ (s : State) : s.waitIdle.heldQ = s.heldQ := rfl
@[simp] theorem waitIdle_gone (s : State) : s.waitIdle.gone = s.gone := rfl
@[simp] theorem waitIdle_fab (s : State) : s.waitIdle.fab = s.fab := rfl
@[simp] theorem waitIdle_plat (s : State) : s.waitIdle.plat = s.plat := rfl

/-! ### `dropOp` -/

@[simp] theorem dropOp_now (s : State) (n : Nat) : (s.dropOp n).now = s.now := rfl
@[simp] theorem dropOp_tickBase (s : State) (n : Nat) : (s.dropOp n).tickBase = s.tickBase := rfl
@[simp] theorem dropOp_agenda (s : State) (n : Nat) : (s.dropOp n).agenda = s.agenda := rfl
@[simp] theorem dropOp_arg (s : State) (n : Nat) : (s.dropOp n).arg = s.arg := rfl
@[simp] theorem dropOp_rr (s : State) (n : Nat) : (s.dropOp n).rr = s.rr := rfl
@[simp] theorem dropOp_nextId (s : State) (n : Nat) : (s.dropOp n).nextId = s.nextId := rfl
@[simp] theorem dropOp_fresh (s : State) (n : Nat) : (s.dropOp n).fresh = s.fresh := rfl
@[simp] theorem dropOp_iss (s : State) (n : Nat) : (s.dropOp n).iss = s.iss := rfl
@[simp] theorem dropOp_ctxs (s : State) (n : Nat) : (s.dropOp n).ctxs = s.ctxs := rfl
@[simp] theorem dropOp_cores (s : State) (n : Nat) : (s.dropOp n).cores = s.cores := rfl
@[simp] theorem dropOp_stations (s : State) (n : Nat) : (s.dropOp n).stations = s.stations := rfl
@[simp] theorem dropOp_dies (s : State) (n : Nat) : (s.dropOp n).dies = s.dies := rfl
@[simp] theorem dropOp_ifcs (s : State) (n : Nat) : (s.dropOp n).ifcs = s.ifcs := rfl
@[simp] theorem dropOp_chive (s : State) (n : Nat) : (s.dropOp n).chive = s.chive := rfl
@[simp] theorem dropOp_mem (s : State) (n : Nat) : (s.dropOp n).mem = s.mem := rfl
@[simp] theorem dropOp_spad (s : State) (n : Nat) : (s.dropOp n).spad = s.spad := rfl
@[simp] theorem dropOp_ringMem (s : State) (n : Nat) : (s.dropOp n).ringMem = s.ringMem := rfl
@[simp] theorem dropOp_hostMem (s : State) (n : Nat) : (s.dropOp n).hostMem = s.hostMem := rfl
@[simp] theorem dropOp_poison (s : State) (n : Nat) : (s.dropOp n).poison = s.poison := rfl
@[simp] theorem dropOp_ue (s : State) (n : Nat) : (s.dropOp n).ue = s.ue := rfl
@[simp] theorem dropOp_ce (s : State) (n : Nat) : (s.dropOp n).ce = s.ce := rfl
@[simp] theorem dropOp_spPoison (s : State) (n : Nat) : (s.dropOp n).spPoison = s.spPoison := rfl
@[simp] theorem dropOp_spUe (s : State) (n : Nat) : (s.dropOp n).spUe = s.spUe := rfl
@[simp] theorem dropOp_spCe (s : State) (n : Nat) : (s.dropOp n).spCe = s.spCe := rfl
@[simp] theorem dropOp_l2 (s : State) (n : Nat) : (s.dropOp n).l2 = s.l2 := rfl
@[simp] theorem dropOp_holds (s : State) (n : Nat) : (s.dropOp n).holds = s.holds := rfl
@[simp] theorem dropOp_views (s : State) (n : Nat) : (s.dropOp n).views = s.views := rfl
@[simp] theorem dropOp_thyme (s : State) (n : Nat) : (s.dropOp n).thyme = s.thyme := rfl
@[simp] theorem dropOp_thymeStaged (s : State) (n : Nat) : (s.dropOp n).thymeStaged = s.thymeStaged := rfl
@[simp] theorem dropOp_thymeAt (s : State) (n : Nat) : (s.dropOp n).thymeAt = s.thymeAt := rfl
@[simp] theorem dropOp_heldQ (s : State) (n : Nat) : (s.dropOp n).heldQ = s.heldQ := rfl
@[simp] theorem dropOp_gone (s : State) (n : Nat) : (s.dropOp n).gone = s.gone := rfl
@[simp] theorem dropOp_fab (s : State) (n : Nat) : (s.dropOp n).fab = s.fab := rfl
@[simp] theorem dropOp_plat (s : State) (n : Nat) : (s.dropOp n).plat = s.plat := rfl

/-! ### `setOp` -/

@[simp] theorem setOp_now (s : State) (n : Nat) (k : OpKind) : (s.setOp n k).now = s.now := rfl
@[simp] theorem setOp_tickBase (s : State) (n : Nat) (k : OpKind) : (s.setOp n k).tickBase = s.tickBase := rfl
@[simp] theorem setOp_agenda (s : State) (n : Nat) (k : OpKind) : (s.setOp n k).agenda = s.agenda := rfl
@[simp] theorem setOp_arg (s : State) (n : Nat) (k : OpKind) : (s.setOp n k).arg = s.arg := rfl
@[simp] theorem setOp_rr (s : State) (n : Nat) (k : OpKind) : (s.setOp n k).rr = s.rr := rfl
@[simp] theorem setOp_nextId (s : State) (n : Nat) (k : OpKind) : (s.setOp n k).nextId = s.nextId := rfl
@[simp] theorem setOp_fresh (s : State) (n : Nat) (k : OpKind) : (s.setOp n k).fresh = s.fresh := rfl
@[simp] theorem setOp_iss (s : State) (n : Nat) (k : OpKind) : (s.setOp n k).iss = s.iss := rfl
@[simp] theorem setOp_ctxs (s : State) (n : Nat) (k : OpKind) : (s.setOp n k).ctxs = s.ctxs := rfl
@[simp] theorem setOp_cores (s : State) (n : Nat) (k : OpKind) : (s.setOp n k).cores = s.cores := rfl
@[simp] theorem setOp_stations (s : State) (n : Nat) (k : OpKind) : (s.setOp n k).stations = s.stations := rfl
@[simp] theorem setOp_dies (s : State) (n : Nat) (k : OpKind) : (s.setOp n k).dies = s.dies := rfl
@[simp] theorem setOp_ifcs (s : State) (n : Nat) (k : OpKind) : (s.setOp n k).ifcs = s.ifcs := rfl
@[simp] theorem setOp_chive (s : State) (n : Nat) (k : OpKind) : (s.setOp n k).chive = s.chive := rfl
@[simp] theorem setOp_mem (s : State) (n : Nat) (k : OpKind) : (s.setOp n k).mem = s.mem := rfl
@[simp] theorem setOp_spad (s : State) (n : Nat) (k : OpKind) : (s.setOp n k).spad = s.spad := rfl
@[simp] theorem setOp_ringMem (s : State) (n : Nat) (k : OpKind) : (s.setOp n k).ringMem = s.ringMem := rfl
@[simp] theorem setOp_hostMem (s : State) (n : Nat) (k : OpKind) : (s.setOp n k).hostMem = s.hostMem := rfl
@[simp] theorem setOp_poison (s : State) (n : Nat) (k : OpKind) : (s.setOp n k).poison = s.poison := rfl
@[simp] theorem setOp_ue (s : State) (n : Nat) (k : OpKind) : (s.setOp n k).ue = s.ue := rfl
@[simp] theorem setOp_ce (s : State) (n : Nat) (k : OpKind) : (s.setOp n k).ce = s.ce := rfl
@[simp] theorem setOp_spPoison (s : State) (n : Nat) (k : OpKind) : (s.setOp n k).spPoison = s.spPoison := rfl
@[simp] theorem setOp_spUe (s : State) (n : Nat) (k : OpKind) : (s.setOp n k).spUe = s.spUe := rfl
@[simp] theorem setOp_spCe (s : State) (n : Nat) (k : OpKind) : (s.setOp n k).spCe = s.spCe := rfl
@[simp] theorem setOp_l2 (s : State) (n : Nat) (k : OpKind) : (s.setOp n k).l2 = s.l2 := rfl
@[simp] theorem setOp_holds (s : State) (n : Nat) (k : OpKind) : (s.setOp n k).holds = s.holds := rfl
@[simp] theorem setOp_views (s : State) (n : Nat) (k : OpKind) : (s.setOp n k).views = s.views := rfl
@[simp] theorem setOp_thyme (s : State) (n : Nat) (k : OpKind) : (s.setOp n k).thyme = s.thyme := rfl
@[simp] theorem setOp_thymeStaged (s : State) (n : Nat) (k : OpKind) : (s.setOp n k).thymeStaged = s.thymeStaged := rfl
@[simp] theorem setOp_thymeAt (s : State) (n : Nat) (k : OpKind) : (s.setOp n k).thymeAt = s.thymeAt := rfl
@[simp] theorem setOp_heldQ (s : State) (n : Nat) (k : OpKind) : (s.setOp n k).heldQ = s.heldQ := rfl
@[simp] theorem setOp_gone (s : State) (n : Nat) (k : OpKind) : (s.setOp n k).gone = s.gone := rfl
@[simp] theorem setOp_fab (s : State) (n : Nat) (k : OpKind) : (s.setOp n k).fab = s.fab := rfl
@[simp] theorem setOp_plat (s : State) (n : Nat) (k : OpKind) : (s.setOp n k).plat = s.plat := rfl

/-! ### What a commit-buffer update leaves -/

@[simp] theorem modIss_ctx (s : State) (f : Issue → Issue) (n : Nat) : (s.modIss f).ctx n = s.ctx n := rfl
@[simp] theorem modIss_core (s : State) (f : Issue → Issue) (n : Nat) : (s.modIss f).core n = s.core n := rfl
@[simp] theorem modIss_stn (s : State) (f : Issue → Issue) (n : Nat) : (s.modIss f).stn n = s.stn n := rfl
@[simp] theorem modIss_ifc (s : State) (f : Issue → Issue) (n : Nat) : (s.modIss f).ifc n = s.ifc n := rfl
@[simp] theorem modIss_tick (s : State) (f : Issue → Issue) : (s.modIss f).tick = s.tick := rfl
@[simp] theorem modIss_cycle (s : State) (f : Issue → Issue) : (s.modIss f).cycle = s.cycle := rfl
@[simp] theorem eff_ctx (s : State) (e : Eff) (n : Nat) : (s.eff e).ctx n = s.ctx n := rfl
@[simp] theorem eff_core (s : State) (e : Eff) (n : Nat) : (s.eff e).core n = s.core n := rfl
@[simp] theorem eff_stn (s : State) (e : Eff) (n : Nat) : (s.eff e).stn n = s.stn n := rfl
@[simp] theorem eff_ifc (s : State) (e : Eff) (n : Nat) : (s.eff e).ifc n = s.ifc n := rfl
@[simp] theorem eff_tick (s : State) (e : Eff) : (s.eff e).tick = s.tick := rfl
@[simp] theorem eff_cycle (s : State) (e : Eff) : (s.eff e).cycle = s.cycle := rfl
@[simp] theorem eff_me (s : State) (e : Eff) : (s.eff e).me = s.me := rfl
@[simp] theorem eff_lat (s : State) (e : Eff) : (s.eff e).lat = s.lat := rfl
@[simp] theorem eff_owner (s : State) (e : Eff) : (s.eff e).owner = s.owner := rfl
@[simp] theorem eff_onStream (s : State) (e : Eff) : (s.eff e).onStream = s.onStream := rfl
@[simp] theorem charge_ctx (s : State) (u m : Nat) (n : Nat) : (s.charge u m).ctx n = s.ctx n := rfl
@[simp] theorem charge_core (s : State) (u m : Nat) (n : Nat) : (s.charge u m).core n = s.core n := rfl
@[simp] theorem charge_stn (s : State) (u m : Nat) (n : Nat) : (s.charge u m).stn n = s.stn n := rfl
@[simp] theorem charge_ifc (s : State) (u m : Nat) (n : Nat) : (s.charge u m).ifc n = s.ifc n := rfl
@[simp] theorem charge_tick (s : State) (u m : Nat) : (s.charge u m).tick = s.tick := rfl
@[simp] theorem charge_cycle (s : State) (u m : Nat) : (s.charge u m).cycle = s.cycle := rfl
@[simp] theorem charge_me (s : State) (u m : Nat) : (s.charge u m).me = s.me := rfl
@[simp] theorem charge_lat (s : State) (u m : Nat) : (s.charge u m).lat = s.lat := rfl
@[simp] theorem charge_owner (s : State) (u m : Nat) : (s.charge u m).owner = s.owner := rfl
@[simp] theorem charge_onStream (s : State) (u m : Nat) : (s.charge u m).onStream = s.onStream := rfl
@[simp] theorem faultAt_ctx (s : State) (c : Code) (a k : Nat) (n : Nat) : (s.faultAt c a k).ctx n = s.ctx n := rfl
@[simp] theorem faultAt_core (s : State) (c : Code) (a k : Nat) (n : Nat) : (s.faultAt c a k).core n = s.core n := rfl
@[simp] theorem faultAt_stn (s : State) (c : Code) (a k : Nat) (n : Nat) : (s.faultAt c a k).stn n = s.stn n := rfl
@[simp] theorem faultAt_ifc (s : State) (c : Code) (a k : Nat) (n : Nat) : (s.faultAt c a k).ifc n = s.ifc n := rfl
@[simp] theorem faultAt_tick (s : State) (c : Code) (a k : Nat) : (s.faultAt c a k).tick = s.tick := rfl
@[simp] theorem faultAt_cycle (s : State) (c : Code) (a k : Nat) : (s.faultAt c a k).cycle = s.cycle := rfl
@[simp] theorem faultAt_me (s : State) (c : Code) (a k : Nat) : (s.faultAt c a k).me = s.me := rfl
@[simp] theorem faultAt_lat (s : State) (c : Code) (a k : Nat) : (s.faultAt c a k).lat = s.lat := rfl
@[simp] theorem faultAt_owner (s : State) (c : Code) (a k : Nat) : (s.faultAt c a k).owner = s.owner := rfl
@[simp] theorem faultAt_onStream (s : State) (c : Code) (a k : Nat) : (s.faultAt c a k).onStream = s.onStream := rfl
@[simp] theorem wait_ctx (s : State) (n : Nat) : s.wait.ctx n = s.ctx n := rfl
@[simp] theorem wait_core (s : State) (n : Nat) : s.wait.core n = s.core n := rfl
@[simp] theorem wait_stn (s : State) (n : Nat) : s.wait.stn n = s.stn n := rfl
@[simp] theorem wait_ifc (s : State) (n : Nat) : s.wait.ifc n = s.ifc n := rfl
@[simp] theorem wait_tick (s : State) : s.wait.tick = s.tick := rfl
@[simp] theorem wait_cycle (s : State) : s.wait.cycle = s.cycle := rfl
@[simp] theorem wait_me (s : State) : s.wait.me = s.me := rfl
@[simp] theorem wait_lat (s : State) : s.wait.lat = s.lat := rfl
@[simp] theorem wait_owner (s : State) : s.wait.owner = s.owner := rfl
@[simp] theorem wait_onStream (s : State) : s.wait.onStream = s.onStream := rfl
@[simp] theorem waitIdle_ctx (s : State) (n : Nat) : s.waitIdle.ctx n = s.ctx n := rfl
@[simp] theorem waitIdle_core (s : State) (n : Nat) : s.waitIdle.core n = s.core n := rfl
@[simp] theorem waitIdle_stn (s : State) (n : Nat) : s.waitIdle.stn n = s.stn n := rfl
@[simp] theorem waitIdle_ifc (s : State) (n : Nat) : s.waitIdle.ifc n = s.ifc n := rfl
@[simp] theorem waitIdle_tick (s : State) : s.waitIdle.tick = s.tick := rfl
@[simp] theorem waitIdle_cycle (s : State) : s.waitIdle.cycle = s.cycle := rfl
@[simp] theorem waitIdle_me (s : State) : s.waitIdle.me = s.me := rfl
@[simp] theorem waitIdle_lat (s : State) : s.waitIdle.lat = s.lat := rfl
@[simp] theorem waitIdle_owner (s : State) : s.waitIdle.owner = s.owner := rfl
@[simp] theorem waitIdle_onStream (s : State) : s.waitIdle.onStream = s.onStream := rfl

/-! ### The changed field -/

@[simp] theorem modIss_iss (s : State) (f : Issue → Issue) : (s.modIss f).iss = f s.iss := rfl
@[simp] theorem eff_iss (s : State) (e : Eff) : (s.eff e).iss = { s.iss with effs := s.iss.effs ++ [e] } := rfl
@[simp] theorem charge_iss (s : State) (u m : Nat) : (s.charge u m).iss = { s.iss with ci := s.iss.ci + u, cm := s.iss.cm + m } := rfl
@[simp] theorem wait_iss (s : State) : s.wait.iss = { s.iss with stall := true } := rfl
@[simp] theorem waitIdle_iss (s : State) : s.waitIdle.iss = { s.iss with stall := true, idle := true } := rfl
@[simp] theorem setCtx_ctxs (s : State) (c : Nat) (x : Ctx) : (s.setCtx c x).ctxs = tput s.ctxs c x := rfl
@[simp] theorem modFab_fab (s : State) (f : Fabric → Fabric) : (s.modFab f).fab = f s.fab := rfl
@[simp] theorem modPlat_plat (s : State) (f : Platform → Platform) : (s.modPlat f).plat = f s.plat := rfl

/-! ### Tables -/

/-- Looking for a key in the part of a table whose keys pass a test. -/
theorem find_filter_key {α : Type} (t : Tbl α) (q : Nat → Bool) (j : Nat) :
    (t.filter fun p => q p.1).find? (·.1 == j) = if q j then t.find? (·.1 == j) else none := by
  induction t with
  | nil => simp
  | cons p t ih => by_cases hq : q p.1 <;> by_cases hj : p.1 = j <;> simp_all

/-- Reading a table where it was written. -/
theorem tget_tput_self {α : Type} (d : α) (t : Tbl α) (k : Nat) (v : α) : tget d (tput t k v) k = v := by
  simp [tget, tput, find_filter_key t (fun i => decide (i < k))]

/-- Reading a table elsewhere. -/
theorem tget_tput_other {α : Type} (d : α) (t : Tbl α) (k j : Nat) (v : α) (h : j ≠ k) : tget d (tput t k v) j = tget d t j := by
  have hk : (k == j) = false := by simpa using fun e => h e.symm
  unfold tget tput
  rw [List.find?_append, List.find?_cons, hk, find_filter_key t (fun i => decide (i < k)), find_filter_key t (fun i => decide (k < i))]
  rcases Nat.lt_or_gt_of_ne h with hl | hg
  · simp [hl, Nat.lt_asymm hl]
  · simp [hg, Nat.lt_asymm hg]

@[simp] theorem setCtx_ctx (s : State) (c : Nat) (x : Ctx) : (s.setCtx c x).ctx c = x := tget_tput_self _ _ _ _
@[simp] theorem modCtx_ctx (s : State) (c : Nat) (f : Ctx → Ctx) : (s.modCtx c f).ctx c = f (s.ctx c) := tget_tput_self _ _ _ _
@[simp] theorem modCore_core (s : State) (c : Nat) (f : Core → Core) : (s.modCore c f).core c = f (s.core c) := tget_tput_self _ _ _ _
@[simp] theorem modStn_stn (s : State) (c : Nat) (f : Station → Station) : (s.modStn c f).stn c = f (s.stn c) := tget_tput_self _ _ _ _
@[simp] theorem modIfc_ifc (s : State) (c : Nat) (f : Ifc → Ifc) : (s.modIfc c f).ifc c = f (s.ifc c) := tget_tput_self _ _ _ _
@[simp] theorem modDie_die (s : State) (c : Nat) (f : Die → Die) : (s.modDie c f).die c = f (s.die c) := tget_tput_self _ _ _ _
theorem setCtx_ctx_other (s : State) (c d : Nat) (x : Ctx) (h : d ≠ c) : (s.setCtx c x).ctx d = s.ctx d := tget_tput_other _ _ _ _ _ h
theorem modCtx_ctx_other (s : State) (c d : Nat) (f : Ctx → Ctx) (h : d ≠ c) : (s.modCtx c f).ctx d = s.ctx d := tget_tput_other _ _ _ _ _ h

end Sys2Proof.Machine
end

