-- ==== Sys2Proof/Laws/Held.lean ====
section
/-! SUPPORT. What the operations that slots share change before commit: only the commit buffer, operation numbers and caches (R58). -/
namespace Sys2Proof.Machine

namespace Held

theorem refl (s : State) : Held s s := ⟨rfl, fun _ => rfl, fun _ => rfl⟩

theorem trans {s t u : State} (h : Held s t) (k : Held t u) : Held s u := by
  refine ⟨?_, fun n => ?_, fun n => ?_⟩
  · have e : { u with iss := s.iss, nextId := s.nextId, fresh := s.fresh, l2 := s.l2, cores := s.cores, stations := s.stations,
                      ce := s.ce, spCe := s.spCe, plat := { u.plat with dill := s.plat.dill } } =
        (fun v : State => { v with iss := s.iss, nextId := s.nextId, fresh := s.fresh, l2 := s.l2, cores := s.cores,
                                   stations := s.stations, ce := s.ce, spCe := s.spCe,
                                   plat := { v.plat with dill := s.plat.dill } })
          { u with iss := t.iss, nextId := t.nextId, fresh := t.fresh, l2 := t.l2, cores := t.cores, stations := t.stations,
                   ce := t.ce, spCe := t.spCe, plat := { u.plat with dill := t.plat.dill } } := rfl
    rw [e, k.rest]
    exact h.rest
  · have e : { u.core n with l1 := (s.core n).l1, tlb := (s.core n).tlb } =
        { { u.core n with l1 := (t.core n).l1, tlb := (t.core n).tlb } with l1 := (s.core n).l1, tlb := (s.core n).tlb } := rfl
    rw [e, k.core, h.core]
  · have e : { u.stn n with tlb := (s.stn n).tlb } = { { u.stn n with tlb := (t.stn n).tlb } with tlb := (s.stn n).tlb } := rfl
    rw [e, k.stn, h.stn]

/-- The commit buffer may change at will. -/
theorem modIss (s : State) (f : Issue → Issue) : Held s (s.modIss f) := ⟨rfl, fun _ => rfl, fun _ => rfl⟩
theorem eff (s : State) (e : Eff) : Held s (s.eff e) := modIss s _
theorem charge (s : State) (u m : Nat) : Held s (s.charge u m) := modIss s _
theorem faultAt (s : State) (c : Code) (a k : Nat) : Held s (s.faultAt c a k) := by
  unfold State.faultAt
  exact modIss s _
theorem faultB (s : State) (c : Code) : Held s (s.faultB c) := faultAt s _ _ _
theorem wait (s : State) : Held s s.wait := modIss s _
theorem waitIdle (s : State) : Held s s.waitIdle := modIss s _
theorem nextId (s : State) (n : Nat) : Held s { s with nextId := n } := ⟨rfl, fun _ => rfl, fun _ => rfl⟩
theorem fresh (s : State) (n : Nat) : Held s { s with fresh := n } := ⟨rfl, fun _ => rfl, fun _ => rfl⟩
theorem l2 (s : State) (l : List L2Line) : Held s { s with l2 := l } := ⟨rfl, fun _ => rfl, fun _ => rfl⟩

/-- A core whose caches alone change. -/
theorem modCore (s : State) (n : Nat) (f : Core → Core) (h : ∀ c : Core, { f c with l1 := c.l1, tlb := c.tlb } = c) :
    Held s (s.modCore n f) := by
  refine ⟨rfl, fun m => ?_, fun _ => rfl⟩
  by_cases e : m = n
  · subst e; rw [modCore_core]; exact h _
  · have : (s.modCore n f).core m = s.core m := tget_tput_other _ _ _ _ _ e
    rw [this]

/-- A station whose cached translations alone change. -/
theorem modStn (s : State) (n : Nat) (f : Station → Station) (h : ∀ c : Station, { f c with tlb := c.tlb } = c) :
    Held s (s.modStn n f) := by
  refine ⟨rfl, fun _ => rfl, fun m => ?_⟩
  by_cases e : m = n
  · subst e; rw [modStn_stn]; exact h _
  · have : (s.modStn n f).stn m = s.stn m := tget_tput_other _ _ _ _ _ e
    rw [this]

/-- A run over a list, step by step. -/
theorem foldl {α : Type} {s : State} (l : List α) (f : State → α → State) (h : ∀ t x, Held t (f t x)) : Held s (l.foldl f s) := by
  induction l generalizing s with
  | nil => exact refl s
  | cons x l ih => exact (h s x).trans ih

/-- A run over a list that carries more than the state. -/
theorem foldl_fst {α β : Type} (l : List α) (f : State × β → α → State × β) (h : ∀ r x, Held r.1 (f r x).1) (r : State × β) :
    Held r.1 (l.foldl f r).1 := by
  induction l generalizing r with
  | nil => exact refl r.1
  | cons x l ih => exact (h r x).trans (ih (f r x))

/-! ### Results -/

theorem landS (s : State) (r : BitVec 6) (v : Word) (lat : Nat) : Held s (s.landS r v lat) := eff s _
theorem landK (s : State) (r : BitVec 6) (v : Bool) : Held s (s.landK r v) := eff s _
theorem landLateS (s : State) (r : BitVec 6) (id lat : Nat) : Held s (s.landLateS r id lat) := eff s _
theorem landA (s : State) (file : Bool) (r : BitVec 5) (v : Word) (lat : Nat) : Held s (s.landA file r v lat) := eff s _
theorem landLateA (s : State) (file : Bool) (r : BitVec 5) (id : Nat) : Held s (s.landLateA file r id) := eff s _

theorem newId (s : State) : Held s s.newId.2 := nextId s _

theorem start (s : State) (win : Word) (wo : WF) (k : OpKind) : Held s (s.start win wo k).2 := (newId s).trans (eff _ _)

theorem nullWit (s : State) (wo : WF) : Held s (s.nullWit wo) := by
  unfold State.nullWit
  split
  · exact eff s _
  · exact refl s

/-! ### Predicates and witnesses -/

theorem sOp (s : State) (neg : Bool) (k : BitVec 3) (u : Nat) (f : State → State) (h : ∀ t, Held t (f t)) :
    Held s (Machine.sOp s neg k u f) := by
  unfold Machine.sOp
  dsimp only
  split
  · exact (charge s u 0).trans (h _)
  · exact charge s u 0

theorem withData (s : State) (l : List WF) (k : Word → State) (h : ∀ w, Held s (k w)) : Held s (Machine.withData s l k) := by
  unfold Machine.withData
  dsimp only
  split
  · exact wait s
  · exact h _

theorem withWin (s : State) (l : List WF) (k : Word → State) (h : ∀ w, Held s (k w)) : Held s (Machine.withWin s l k) := by
  refine withData s l _ fun w => ?_
  split
  · exact faultB s _
  · exact h w

theorem withSat (s : State) (l : List WF) (k : Word → State) (h : ∀ w, Held s (k w)) : Held s (Machine.withSat s l k) := by
  refine withWin s l _ fun w => ?_
  split
  · exact h w
  · split
    · exact faultAt s _ _ _
    · exact wait s

/-! ### Reads -/

theorem l2Access (s : State) (a n : Nat) (wr : Bool) : Held s (Machine.l2Access s a n wr) :=
  foldl _ _ fun t _ => l2 t _

/-- An error counted. -/
theorem dillAdd (s : State) (c u : Nat) : Held s (Machine.dillAdd s c u) := ⟨rfl, fun _ => rfl, fun _ => rfl⟩
theorem ce (s : State) (l : List Nat) : Held s { s with ce := l } := ⟨rfl, fun _ => rfl, fun _ => rfl⟩
theorem spCe (s : State) (l : List Nat) : Held s { s with spCe := l } := ⟨rfl, fun _ => rfl, fun _ => rfl⟩

theorem noteCe (s : State) (segs : List Seg) : Held s (Machine.noteCe s segs) := by
  unfold Machine.noteCe
  split
  · exact refl s
  · refine foldl _ _ fun t g => ?_
    split
    · exact (ce t _).trans (foldl _ _ fun u _ => dillAdd u _ _)
    · split
      · exact refl t
      · exact (spCe t _).trans (foldl _ _ fun u _ => dillAdd u _ _)

theorem installXlat (s : State) (w : Who) (x : Xlat) : Held s (Machine.installXlat s w x) := by
  have c : Held s (if w.eng then s else s.modCore w.core fun c => { c with tlb := tlbPut 64 c.tlb x }) := by
    split
    · exact refl s
    · exact modCore s w.core (fun c => { c with tlb := tlbPut 64 c.tlb x }) fun _ => rfl
  unfold Machine.installXlat
  dsimp only
  split
  · exact c
  · exact c.trans (modStn _ _ (fun t => { t with tlb := tlbPut 1024 t.tlb x }) fun _ => rfl)

theorem touchXlat (s : State) (w : Who) (va len : Nat) : Held s (Machine.touchXlat s w va len) := by
  unfold Machine.touchXlat
  split
  · exact refl s
  · refine foldl _ _ fun t i => ?_
    dsimp only
    split
    · exact (noteCe t _).trans (installXlat _ _ _)
    · exact refl t

theorem readIn (s : State) (sw : Bool) (win : Word) (segs : List Seg) : Held s (Machine.readIn s sw win segs).1 := by
  unfold Machine.readIn
  dsimp only
  generalize (if (Machine.noteCe s segs).views.isEmpty = true then [] else staleSecs (Machine.noteCe s segs) sw win segs) = l
  split
  · exact noteCe s segs
  · exact (noteCe s segs).trans (fresh _ _)

theorem l1Fill (s : State) (core line : Nat) (secs : List Nat) (win : Word) : Held s (Machine.l1Fill s core line secs win) := by
  unfold Machine.l1Fill
  dsimp only
  refine ((l2Access s (line * 256) 256 false).trans
    (noteCe _ (secs.map fun q => ⟨.dev (line * 256 + q * 64), 64⟩))).trans ?_
  apply modCore
  intro c
  rfl

theorem l1Drop (s : State) (core line : Nat) (glob : Bool) : Held s (Machine.l1Drop s core line glob) := by
  unfold Machine.l1Drop
  apply modCore
  intro c
  rfl

theorem l1Run (s : State) (core : Nat) (glob : Bool) (a n : Nat) (win : Word) : Held s (Machine.l1Run s core glob a n win).1 := by
  unfold Machine.l1Run
  dsimp only
  split
  · dsimp only
    apply modCore
    intro c
    rfl
  · have d : Held s (if (Machine.l1Find s core (a / 256) glob win).isNone = true then Machine.l1Drop s core (a / 256) glob else s) := by
      split
      · exact l1Drop s _ _ _
      · exact refl s
    generalize (if (Machine.l1Find s core (a / 256) glob win).isNone = true then Machine.l1Drop s core (a / 256) glob else s) = t at d
    refine d.trans ?_
    split
    · exact refl _
    · split
      · exact refl _
      · exact l1Fill _ _ _ _ _

theorem l1One (s : State) (core : Nat) (win : Word) (g : Seg) : Held s (Machine.l1One s core win g).1 := by
  unfold Machine.l1One
  split
  · exact l1Run s _ _ _ _ _
  · exact l1Run s _ _ _ _ _
  · split
    · exact refl s
    · exact readIn s _ _ _

theorem l1Read (s : State) (core : Nat) (win : Word) (segs : List Seg) : Held s (Machine.l1Read s core win segs).1 := by
  refine foldl_fst (β := L1Res × Nat) _ _ (fun r g => ?_) (s, L1Res.ok [], 0)
  dsimp only
  split
  · split
    · exact l1One r.1 core win g
    · exact l1One r.1 core win g
    · exact l1One r.1 core win g
  · exact refl r.1

theorem slotPre (s : State) (acc : Acc) (va len : Nat) (win : Word) (k : State → List Seg → State) (h : ∀ t g, Held t (k t g)) :
    Held s (Machine.slotPre s acc va len win k) := by
  unfold Machine.slotPre
  dsimp only
  split
  · exact faultAt s _ _ _
  · split
    · exact (wait s).trans (modIss _ _)
    · split
      · exact wait s
      · exact (touchXlat s _ _ _).trans (h _ _)

theorem faultData (s : State) (c : Code) (va off : Nat) (segs : List Seg) (byte : Bool) : Held s (s.faultData c va off segs byte) :=
  (faultAt s _ _ _).trans (modIss _ _)

theorem slotRead (s : State) (acc : Acc) (va len : Nat) (win : Word) (k : State → List Byte → State) (byte : Bool)
    (h : ∀ t b, Held t (k t b)) : Held s (Machine.slotRead s acc va len win k byte) := by
  refine slotPre s acc va len win _ fun t g => ?_
  have h1 := l1Read t (coreOf t.iss.cid) win g
  split
  · rename_i e
    rw [e] at h1
    exact h1.trans (h _ _)
  · rename_i e
    rw [e] at h1
    exact h1.trans (faultData _ _ _ _ _ _)
  · rename_i e
    rw [e] at h1
    exact (h1.trans (wait _)).trans (modIss _ _)

theorem slotHome (s : State) (acc : Acc) (va len : Nat) (win : Word) (k : State → List Byte → State)
    (h : ∀ t b, Held t (k t b)) : Held s (Machine.slotHome s acc va len win k) := by
  refine slotPre s acc va len win _ fun t g => ?_
  split
  · exact faultData _ _ _ _ _ _
  · exact (readIn t _ _ _).trans (h _ _)

theorem slotWrite (s : State) (acc : Acc) (sw : Bool) (va len : Nat) (k : State → List Seg → State)
    (h : ∀ t g, Held t (k t g)) : Held s (Machine.slotWrite s acc sw va len k) := by
  unfold Machine.slotWrite
  dsimp only
  split
  · exact faultAt s _ _ _
  · split
    · exact waitIdle s
    · split
      · exact (wait s).trans (modIss _ _)
      · split
        · exact wait s
        · exact (touchXlat s _ _ _).trans (h _ _)

theorem slotRecord (s : State) (acc : Acc) (al va len : Nat) (win : Word) (k : State → Nat → State)
    (h : ∀ t n, Held t (k t n)) : Held s (Machine.slotRecord s acc al va len win k) := by
  unfold Machine.slotRecord
  split
  · exact faultAt s _ _ _
  · exact slotHome s _ _ _ _ _ fun t b => h t _

/-! ### Vector operands -/

theorem pop (s : State) (file : Bool) (n : Nat) (k : State → VReg → State) (h : ∀ t v, Held t (k t v)) :
    Held s (Machine.pop s file n k) := by
  have fin : ∀ (t : State) (e : Eff) (fl : Flags) (g : Eff) (m : Nat) (v : VReg),
      Held t (k ((if fl = 0 then t.eff e else (t.eff e).eff g).charge 0 m) v) := by
    intro t e fl g m v
    refine Held.trans ?_ (h _ _)
    split
    · exact (eff t e).trans (charge _ _ _)
    · exact ((eff t e).trans (eff _ g)).trans (charge _ _ _)
  unfold Machine.pop
  dsimp only
  split
  · exact faultB s _
  · split
    · exact (eff s _).trans (h _ _)
    · split
      · split
        · exact modIss s _
        · exact fin s _ _ _ _ _
      · exact slotRead s _ _ _ _ _ _ fun t b => fin t _ _ _ _ _

theorem readSrc (s : State) (file : Bool) (x : BitVec 11) (w : Nat) (k : State → VReg → State) (h : ∀ t v, Held t (k t v)) :
    Held s (Machine.readSrc s file x w k) := by
  unfold Machine.readSrc
  split
  · split
    · exact faultAt s _ _ _
    · split
      · exact (faultAt s _ _ _).trans (modIss _ _)
      · exact h s _
  · split
    · exact pop s file _ k h
    · split
      · exact h s _
      · exact h s _

theorem readSrcs (s : State) (file : Bool) (w : Nat) (l : List (BitVec 11)) (k : State → List VReg → State)
    (h : ∀ t v, Held t (k t v)) : Held s (Machine.readSrcs s file w l k) := by
  induction l generalizing s k with
  | nil => exact h s []
  | cons x l ih => exact readSrc s file x w _ fun t v => ih t _ fun u vs => h u _

theorem landRaw (s : State) (f : VO) (lat : Nat) (r : VRes) : Held s (Machine.landRaw s f lat r) := by
  unfold Machine.landRaw
  dsimp only
  split
  · exact faultAt s _ _ _
  · split
    · exact eff s _
    · exact (eff s _).trans (eff _ _)

theorem landV (s : State) (f : VO) (lat : Nat) (r : VRes) : Held s (Machine.landV s f lat r) := landRaw s f lat _
theorem landGens (s : State) (file : Bool) (g : List (BitVec 16)) : Held s (Machine.landGens s file g) := eff s _
theorem landQ (s : State) (file : Bool) (d : Nat) (v m : Word) (lat : Nat) : Held s (Machine.landQ s file d v m lat) := eff s _

theorem landRound (s : State) (f : VO) (lat : Nat) (g : Word → List (BitVec 16) → VRes) : Held s (Machine.landRound s f lat g) := by
  unfold Machine.landRound
  dsimp only
  split
  · exact landV _ _ _ _
  · exact (landV _ _ _ _).trans (landGens _ _ _)

theorem vOp (s : State) (f : VO) (u w : Nat) (src : List (BitVec 11)) (k : State → List VReg → State)
    (h : ∀ t v, Held t (k t v)) : Held s (Machine.vOp s f u w src k) :=
  (charge s u 0).trans (readSrcs _ _ _ _ _ h)

theorem vPure (s : State) (f : VO) (u lat : Nat) (src : List (BitVec 11)) (g : Word → List VReg → VRes) :
    Held s (Machine.vPure s f u lat src g) := vOp s f u _ src _ fun _ _ => landV _ _ _ _

theorem vWhole (s : State) (f : VO) (u lat w : Nat) (src : List (BitVec 11)) (g : Word → List VReg → VRes) :
    Held s (Machine.vWhole s f u lat w src g) := vOp s f u _ src _ fun _ _ => landRaw _ _ _ _

theorem vRound (s : State) (f : VO) (u lat w : Nat) (src : List (BitVec 11)) (g : Word → List (BitVec 16) → List VReg → VRes) :
    Held s (Machine.vRound s f u lat w src g) := vOp s f u _ src _ fun _ _ => landRound _ _ _ _

end Held

end Sys2Proof.Machine
end

