-- ==== Sys2Proof/Laws/Memory.lean ====
section
/-! SUPPORT. The byte memories: their canonical form, and reading after writing. -/
namespace Sys2Proof.Machine

/-- The canonical form: addresses rise, and no entry is zero. -/
theorem memOk_iff (lo : Nat) (m : List Host.Cell) :
    memOk lo m = true ↔ m.Pairwise (fun p q => p.1 < q.1) ∧ ∀ p ∈ m, lo ≤ p.1 ∧ p.2 ≠ 0 := by
  induction m generalizing lo with
  | nil => simp [memOk]
  | cons p m ih =>
    obtain ⟨a, b⟩ := p
    simp only [memOk, Bool.and_eq_true, decide_eq_true_eq, bne_iff_ne, ih, List.pairwise_cons, List.mem_cons,
      forall_eq_or_imp]
    constructor
    · rintro ⟨⟨h1, h2⟩, h3, h4⟩
      exact ⟨⟨fun q hq => (h4 q hq).1, h3⟩, ⟨h1, h2⟩, fun q hq => ⟨by have := (h4 q hq).1; omega, (h4 q hq).2⟩⟩
    · rintro ⟨⟨h1, h2⟩, ⟨h3, h4⟩, h5⟩
      exact ⟨⟨h3, h4⟩, h2, fun q hq => ⟨h1 q hq, (h5 q hq).2⟩⟩

/-- The cells of a run lie in it and are not zero. -/
theorem cellsOf_mem {a : Nat} {bs : List Byte} {p : Host.Cell} (h : p ∈ cellsOf a bs) : a ≤ p.1 ∧ p.1 < a + bs.length ∧ p.2 ≠ 0 := by
  induction bs generalizing a with
  | nil => simp [cellsOf] at h
  | cons b bs ih =>
    simp only [cellsOf] at h
    split at h
    · have := ih h
      simp only [List.length_cons]
      exact ⟨by omega, by omega, this.2.2⟩
    · rename_i hb
      rcases List.mem_cons.mp h with rfl | h
      · exact ⟨Nat.le_refl _, by simp, hb⟩
      · have := ih h
        simp only [List.length_cons]
        exact ⟨by omega, by omega, this.2.2⟩

theorem cellsOf_sorted (a : Nat) (bs : List Byte) : (cellsOf a bs).Pairwise fun p q => p.1 < q.1 := by
  induction bs generalizing a with
  | nil => simp [cellsOf]
  | cons b bs ih =>
    simp only [cellsOf]
    split
    · exact ih _
    · exact List.pairwise_cons.mpr ⟨fun q hq => (cellsOf_mem hq).1, ih _⟩

/-- Every write of a memory keeps its canonical form. -/
theorem memWf_memPut {m : List Host.Cell} (h : memWf m = true) (a : Nat) (bs : List Byte) : memWf (memPut m a bs) = true := by
  obtain ⟨hs, hz⟩ := (memOk_iff 0 m).mp h
  refine (memOk_iff _ _).mpr ⟨?_, ?_⟩
  · refine List.pairwise_append.mpr ⟨List.pairwise_append.mpr ⟨hs.sublist List.filter_sublist, cellsOf_sorted a bs, ?_⟩,
      hs.sublist List.filter_sublist, ?_⟩
    · intro p hp q hq
      have h1 := (List.mem_filter.mp hp).2
      have h2 := (cellsOf_mem hq).1
      simp only [decide_eq_true_eq] at h1
      omega
    · intro p hp q hq
      have h2 := (List.mem_filter.mp hq).2
      simp only [decide_eq_true_eq] at h2
      rcases List.mem_append.mp hp with hp | hp
      · have h1 := (List.mem_filter.mp hp).2
        simp only [decide_eq_true_eq] at h1
        omega
      · have h1 := (cellsOf_mem hp).2.1
        omega
  · intro p hp
    refine ⟨Nat.zero_le _, ?_⟩
    rcases List.mem_append.mp hp with hp | hp
    · rcases List.mem_append.mp hp with hp | hp
      · exact (hz p (List.mem_filter.mp hp).1).2
      · exact (cellsOf_mem hp).2.2
    · exact (hz p (List.mem_filter.mp hp).1).2

/-- The byte that a run gives an address. -/
theorem tget_cellsOf (a : Nat) (bs : List Byte) (x : Nat) :
    tget 0 (cellsOf a bs) x = if a ≤ x then bs.getD (x - a) 0 else 0 := by
  induction bs generalizing a with
  | nil => simp [cellsOf, tget]
  | cons b bs ih =>
    have step : a + 1 ≤ x → (b :: bs).getD (x - a) 0 = bs.getD (x - (a + 1)) 0 := by
      intro h
      obtain ⟨k, rfl⟩ := Nat.exists_eq_add_of_le h
      simp [show a + 1 + k - a = k + 1 by omega]
    simp only [cellsOf]
    by_cases hx : x = a
    · subst hx
      split
      · rw [ih, if_neg (by omega)]
        simp_all
      · simp [tget]
    · have hlt : a + 1 ≤ x ↔ a ≤ x := by omega
      have hk : (a == x) = false := by simpa using fun e => hx e.symm
      split
      · rw [ih]
        by_cases h : a ≤ x
        · rw [if_pos (hlt.mpr h), if_pos h, step (hlt.mpr h)]
        · rw [if_neg (by omega), if_neg h]
      · rw [show tget 0 ((a, b) :: cellsOf (a + 1) bs) x = tget 0 (cellsOf (a + 1) bs) x by simp [tget, hk], ih]
        by_cases h : a ≤ x
        · rw [if_pos (hlt.mpr h), if_pos h, step (hlt.mpr h)]
        · rw [if_neg (by omega), if_neg h]

theorem find_cellsOf_out {a x : Nat} {bs : List Byte} (h : x < a ∨ a + bs.length ≤ x) :
    (cellsOf a bs).find? (·.1 == x) = none := by
  rw [List.find?_eq_none]
  intro p hp
  have := cellsOf_mem hp
  simp only [beq_iff_eq]
  omega

/-- A byte outside a write reads as before. -/
theorem memGet_memPut_out {m : List Host.Cell} {a x : Nat} {bs : List Byte} (h : x < a ∨ a + bs.length ≤ x) :
    memGet (memPut m a bs) x = memGet m x := by
  unfold memGet tget memPut
  rw [List.find?_append, List.find?_append, find_cellsOf_out h, find_filter_key m (fun i => decide (i < a)),
    find_filter_key m (fun i => decide (a + bs.length ≤ i))]
  rcases h with h | h
  · simp [h, show ¬ (a + bs.length ≤ x) by omega]
  · simp [h, show ¬ (x < a) by omega]

/-- A byte inside a write reads as written. -/
theorem memGet_memPut_in {m : List Host.Cell} {a x : Nat} {bs : List Byte} (h : a ≤ x) (h' : x < a + bs.length) :
    memGet (memPut m a bs) x = bs.getD (x - a) 0 := by
  rw [← show tget 0 (cellsOf a bs) x = bs.getD (x - a) 0 by rw [tget_cellsOf, if_pos h]]
  unfold memGet tget memPut
  rw [List.find?_append, List.find?_append, find_filter_key m (fun i => decide (i < a)),
    find_filter_key m (fun i => decide (a + bs.length ≤ i))]
  simp [show ¬ (x < a) by omega, show ¬ (a + bs.length ≤ x) by omega]

end Sys2Proof.Machine
end

