-- ==== Sys2Proof/Laws/Ready.lean ====
section
/-! SUPPORT. What the shared operations of a slot do once its inputs are ready: each continues with what was read. -/
namespace Sys2Proof.Machine

theorem runs_iff {s : State} {neg : Bool} {k : BitVec 3} : Runs s neg k ↔ s.me.kp neg k = true := by
  unfold Runs
  simp only [Ctx.kp, Ctx.kreg]
  by_cases e : k = 0
  · subst e
    cases neg <;> simp
  · have : k.toNat ≠ 0 := fun c => e (BitVec.eq_of_toNat_eq c)
    have h1 : (k.toNat == 0) = false := by simpa using this
    rw [if_neg e, h1]
    simp

/-- A scalar word whose predicate holds. -/
theorem sOp_runs {s : State} {neg : Bool} {k : BitVec 3} (u : Nat) (f : State → State) (h : Runs s neg k) :
    sOp s neg k u f = f (s.charge u 0) := by
  have := runs_iff.1 h
  simp [sOp, this]

/-- A scalar word whose predicate does not hold (R135). -/
theorem sOp_not {s : State} {neg : Bool} {k : BitVec 3} (u : Nat) (f : State → State) (h : ¬ Runs s neg k) :
    sOp s neg k u f = s.charge u 0 := by
  rw [runs_iff] at h
  simp [sOp, h]

theorem withData_ready {s : State} {l : List WF} {w : Word} (h : DataReady s l w) (k : Word → State) : withData s l k = k w := by
  obtain ⟨a, b⟩ := h
  have : (s.wregs l).any (·.pend.isSome) = false := by
    rw [List.any_eq_false]
    intro r hr
    simp [a r hr]
  simp [withData, this, b]

theorem withWin_ready {s : State} {l : List WF} {w : Word} (h : InReady s l w) (k : Word → State) : withWin s l k = k w := by
  unfold withWin
  rw [withData_ready h.1]
  simp [h.2]

theorem withSat_ready {s : State} {l : List WF} {w : Word} (h : SatReady s l w) (k : Word → State) : withSat s l k = k w := by
  unfold withSat
  rw [withWin_ready h.1]
  simp [h.2]

theorem dataReady_charge {s : State} {l : List WF} {w : Word} (u m : Nat) (h : DataReady s l w) : DataReady (s.charge u m) l w := h
theorem inReady_charge {s : State} {l : List WF} {w : Word} (u m : Nat) (h : InReady s l w) : InReady (s.charge u m) l w := h
theorem satReady_charge {s : State} {l : List WF} {w : Word} (u m : Nat) (h : SatReady s l w) : SatReady (s.charge u m) l w := h

/-! ### A translation walk changes cached translations only -/

theorem foldl_iss {α : Type} (l : List α) (f : State → α → State) (h : ∀ t x, (f t x).iss = t.iss) (s : State) :
    (l.foldl f s).iss = s.iss := by
  induction l generalizing s with
  | nil => rfl
  | cons x l ih => exact (ih _).trans (h s x)

theorem noteCe_iss (s : State) (segs : List Seg) : (noteCe s segs).iss = s.iss := by
  unfold noteCe
  split
  · rfl
  · refine foldl_iss _ _ (fun t g => ?_) s
    split
    · exact foldl_iss _ (fun (u : State) (q : Nat) => dillAdd u 0 (homeDie (q * 64) * 512 + sliceOf (q * 64))) (fun _ _ => rfl) _
    · split
      · rfl
      · exact foldl_iss _ (fun (u : State) (q : Nat) => dillAdd u 2 (arrayUnit q)) (fun _ _ => rfl) _

theorem installXlat_iss (s : State) (w : Who) (x : Xlat) : (installXlat s w x).iss = s.iss := by
  unfold installXlat
  dsimp only
  split
  · split
    · rfl
    · rfl
  · split
    · rfl
    · rfl

theorem touchXlat_iss (s : State) (w : Who) (va len : Nat) : (touchXlat s w va len).iss = s.iss := by
  unfold touchXlat
  split
  · rfl
  · refine foldl_iss _ _ (fun t i => ?_) s
    dsimp only
    split
    · exact (installXlat_iss _ _ _).trans (noteCe_iss t _)
    · rfl

/-- Contexts do not change before commit. -/
theorem Held.ctxs {s t : State} (h : Held s t) : t.ctxs = s.ctxs := by
  have e := congrArg State.ctxs h.rest
  exact e
theorem Held.ifcs {s t : State} (h : Held s t) : t.ifcs = s.ifcs := by
  have e := congrArg State.ifcs h.rest
  exact e
theorem Held.ops {s t : State} (h : Held s t) : t.ops = s.ops := by
  have e := congrArg State.ops h.rest
  exact e
theorem Held.fab {s t : State} (h : Held s t) : t.fab = s.fab := by
  have e := congrArg State.fab h.rest
  exact e
theorem Held.me {s t : State} (h : Held s t) (e : t.iss.cid = s.iss.cid) : t.me = s.me := by
  unfold State.me State.ctx
  rw [h.ctxs, e]

/-! ### Memory -/

theorem slotPre_ready {s : State} {acc : Acc} {va len : Nat} {win : Word} {segs : List Seg} (h : ReadMay s acc va len win segs)
    (k : State → List Seg → State) : slotPre s acc va len win k = k (touchXlat s (s.who s.iss.cid) va len) segs := by
  unfold slotPre
  have hw : (s.who s.iss.cid).core = coreOf s.iss.cid := rfl
  simp [h.reach, h.pages, h.free, hw]

theorem slotRead_ready {s : State} {acc : Acc} {va len : Nat} {win : Word} {t : State} {bs : List Byte}
    (h : L1Reads s acc va len win t bs) (k : State → List Byte → State) (b : Bool) : slotRead s acc va len win k b = k t bs := by
  obtain ⟨segs, h1, h2⟩ := h
  unfold slotRead
  rw [slotPre_ready h1, touchXlat_iss, h2]

theorem slotHome_ready {s : State} {acc : Acc} {va len : Nat} {win : Word} {t : State} {bs : List Byte}
    (h : HomeReads s acc va len win t bs) (k : State → List Byte → State) (b : Bool := false) :
    slotHome s acc va len win k b = k t bs := by
  obtain ⟨segs, h1, h2, h3⟩ := h
  unfold slotHome
  rw [slotPre_ready h1]
  simp [h2, h3]

theorem slotRecord_ready {s : State} {al va len : Nat} {win : Word} {t : State} {x : Nat}
    (h : RecordReads s al va len win t x) (k : State → Nat → State) : slotRecord s accRec al va len win k = k t x := by
  obtain ⟨h1, bs, h2, h3⟩ := h
  unfold slotRecord
  rw [if_neg (by simpa using h1), slotHome_ready h2, h3]

theorem slotWrite_ready {s : State} {acc : Acc} {va len : Nat} {t : State} {segs : List Seg}
    (h : WriteMay s acc va len t segs) (k : State → List Seg → State) : slotWrite s acc false va len k = k t segs := by
  unfold slotWrite
  have hw : (s.who s.iss.cid).core = coreOf s.iss.cid := rfl
  simp [h.reach, h.held, h.pages, h.path, h.mode, h.used, hw]

/-! ### Vector sources -/

theorem pop_ready {s : State} {file : Bool} {n : Nat} {t : State} {v : VReg} (h : Pops s file n t v) (k : State → VReg → State) :
    pop s file n k = k t v := by
  obtain ⟨hc, h⟩ := h
  unfold pop
  dsimp only
  rw [if_neg (by simp [hc])]
  revert h
  dsimp only
  cases (pStep (s.portNow file n)).1 with
  | none =>
    rintro ⟨rfl, rfl⟩
    rfl
  | some j =>
    rintro ⟨u, bs, h1, rfl, rfl⟩
    revert h1
    dsimp only
    cases hf : (s.portNow file n).chunks.find? fun c => c.pos == j && chunkHeld s (coreOf s.iss.cid) c with
    | some c =>
      rintro ⟨e, rfl, rfl⟩
      simp only [e]
    | none =>
      intro h1
      exact slotRead_ready h1 _ true

theorem readSrc_ready {s : State} {file : Bool} {w : Nat} {x : BitVec 11} {t : State} {v : VReg} (h : Source s file w x t v)
    (k : State → VReg → State) : readSrc s file x w k = k t v := by
  unfold readSrc
  rcases h with ⟨a, b, c, rfl, rfl⟩ | ⟨a, b, c⟩ | ⟨rfl, rfl, rfl⟩ | ⟨a, rfl, rfl⟩
  · rw [if_pos a, if_neg (by simp [b]), if_neg (by simpa using c)]
  · rw [if_neg (by simpa using a), if_pos b, pop_ready c]
  · rfl
  · have h1 : ¬ x < 1536 := by bv_omega
    have h2 : ¬ x < 1544 := by bv_omega
    have h3 : ¬ x = 1544 := by bv_omega
    rw [if_neg h1, if_neg h2, if_neg h3]

theorem readSrcs_ready {s : State} {file : Bool} {w : Nat} {l : List (BitVec 11)} {t : State} {vs : List VReg}
    (h : Sources s file w l t vs) (k : State → List VReg → State) : readSrcs s file w l k = k t vs := by
  induction l generalizing s vs k with
  | nil =>
    obtain ⟨rfl, rfl⟩ := h
    rfl
  | cons x l ih =>
    obtain ⟨u, v, vs', h1, h2, rfl⟩ := h
    unfold readSrcs
    rw [readSrc_ready h1, ih h2]

/-- A vector result whose destination is ready is held with its flags. -/
theorem landRaw_ready {s : State} {f : VO} {r : VRes} (lat : Nat) (h : DestReady s f r.mask) :
    landRaw s f lat r = vLands s f lat r.val r.mask r.fl := by
  unfold landRaw vLands
  rcases h with h | h
  · simp [h]
  · simp [h]

theorem landV_ready {s : State} {f : VO} {r : VRes} (lat : Nat) (h : DestReady s f r.mask) :
    landV s f lat r = vLands s f lat (fmtBits f.fmt r.val) r.mask r.fl := by
  unfold landV fmtBits
  split
  · rw [landRaw_ready lat (by exact h)]
  · rw [landRaw_ready lat h]

/-! ### What reading leaves alone: the commit buffer, and with it the context that issues -/

theorem foldl_fst_iss {α β : Type} (l : List α) (f : State × β → α → State × β) (h : ∀ r x, (f r x).1.iss = r.1.iss) (r : State × β) :
    (l.foldl f r).1.iss = r.1.iss := by
  induction l generalizing r with
  | nil => rfl
  | cons x l ih => exact (ih _).trans (h r x)

theorem l1Drop_iss (s : State) (core line : Nat) (glob : Bool) : (l1Drop s core line glob).iss = s.iss := rfl

theorem readIn_iss (s : State) (sw : Bool) (win : Word) (segs : List Seg) : (readIn s sw win segs).1.iss = s.iss := by
  unfold readIn
  dsimp only
  generalize (if (noteCe s segs).views.isEmpty = true then [] else staleSecs (noteCe s segs) sw win segs) = l
  split
  · exact noteCe_iss s segs
  · exact noteCe_iss s segs

theorem l1Fill_iss (s : State) (core line : Nat) (secs : List Nat) (win : Word) : (l1Fill s core line secs win).iss = s.iss := by
  show (noteCe (l2Access s (line * 256) 256 false) (secs.map fun q => ⟨.dev (line * 256 + q * 64), 64⟩)).iss = s.iss
  rw [noteCe_iss]
  exact foldl_iss _ (fun (s : State) (r : Nat × Nat) =>
    { s with l2 := l2Touch s.l2 (r.1 / 256) (secMask r.1 r.2) (if false then secMask r.1 r.2 else 0) }) (fun _ _ => rfl) s

theorem l1Run_iss (s : State) (core : Nat) (glob : Bool) (a n : Nat) (win : Word) : (l1Run s core glob a n win).1.iss = s.iss := by
  unfold l1Run
  dsimp only
  split
  · rfl
  · have d : (if (l1Find s core (a / 256) glob win).isNone = true then l1Drop s core (a / 256) glob else s).iss = s.iss := by
      split
      · rfl
      · rfl
    generalize (if (l1Find s core (a / 256) glob win).isNone = true then l1Drop s core (a / 256) glob else s) = t at d
    refine Eq.trans ?_ d
    split
    · rfl
    · split
      · rfl
      · exact l1Fill_iss t _ _ _ _

theorem l1One_iss (s : State) (core : Nat) (win : Word) (g : Seg) : (l1One s core win g).1.iss = s.iss := by
  unfold l1One
  split
  · exact l1Run_iss s _ _ _ _ _
  · exact l1Run_iss s _ _ _ _ _
  · split
    · rfl
    · exact readIn_iss s _ _ _

theorem l1Read_iss (s : State) (core : Nat) (win : Word) (segs : List Seg) : (l1Read s core win segs).1.iss = s.iss := by
  refine foldl_fst_iss (β := L1Res × Nat) _ _ (fun r g => ?_) (s, L1Res.ok [], 0)
  dsimp only
  split
  · split
    · exact l1One_iss r.1 core win g
    · exact l1One_iss r.1 core win g
    · exact l1One_iss r.1 core win g
  · rfl

/-- The issuing context, its latencies and its owner, from what they are made of. -/
theorem Held.keeps {s t : State} (h : Held s t) (e : t.iss.cid = s.iss.cid) :
    t.me = s.me ∧ t.lat = s.lat ∧ t.owner = s.owner ∧ t.onStream = s.onStream := by
  have m := h.me e
  refine ⟨m, ?_, ?_, ?_⟩
  · unfold State.lat State.onStream
    rw [m, e]
  · unfold State.owner
    rw [m, e]
  · unfold State.onStream
    rw [e]

theorem L1Reads.held {s : State} {acc : Acc} {va len : Nat} {win : Word} {t : State} {bs : List Byte}
    (h : L1Reads s acc va len win t bs) : Held s t ∧ t.iss = s.iss := by
  obtain ⟨segs, -, h2⟩ := h
  have e := congrArg Prod.fst h2
  have h1 := Held.l1Read (touchXlat s (s.who s.iss.cid) va len) (coreOf s.iss.cid) win segs
  have h3 := l1Read_iss (touchXlat s (s.who s.iss.cid) va len) (coreOf s.iss.cid) win segs
  rw [e] at h1 h3
  exact ⟨(Held.touchXlat s _ va len).trans h1, h3.trans (touchXlat_iss s _ va len)⟩

theorem HomeReads.held {s : State} {acc : Acc} {va len : Nat} {win : Word} {t : State} {bs : List Byte}
    (h : HomeReads s acc va len win t bs) : Held s t ∧ t.iss = s.iss := by
  obtain ⟨segs, -, -, h2⟩ := h
  have e := congrArg Prod.fst h2
  have h1 := Held.readIn (touchXlat s (s.who s.iss.cid) va len) false win segs
  have h3 := readIn_iss (touchXlat s (s.who s.iss.cid) va len) false win segs
  rw [e] at h1 h3
  exact ⟨(Held.touchXlat s _ va len).trans h1, h3.trans (touchXlat_iss s _ va len)⟩

theorem RecordReads.held {s : State} {al va len : Nat} {win : Word} {t : State} {x : Nat}
    (h : RecordReads s al va len win t x) : Held s t ∧ t.iss = s.iss := by
  obtain ⟨-, bs, h1, -⟩ := h
  exact h1.held

theorem WriteMay.keeps {s : State} {acc : Acc} {va len : Nat} {t : State} {segs : List Seg}
    (h : WriteMay s acc va len t segs) : Held s t ∧ t.iss = s.iss := by
  rw [h.used]
  exact ⟨Held.touchXlat s _ va len, touchXlat_iss s _ va len⟩

theorem BlocksRead.held {s : State} {w : Word} {l : List Word} {t : State} {bs : List LaunchBlk} (h : BlocksRead s w l t bs) :
    Held s t ∧ t.iss = s.iss := by
  induction l generalizing s bs with
  | nil =>
    obtain ⟨rfl, rfl⟩ := h
    exact ⟨Held.refl _, rfl⟩
  | cons a as ih =>
    obtain ⟨u, x, bs', h1, -, -, -, h5, -⟩ := h
    exact ⟨h1.held.1.trans (ih h5).1, (ih h5).2.trans h1.held.2⟩

/-- `exit` goes on with the blocks that were read. -/
theorem readBlocks_ready {s : State} {w : Word} {l : List Word} {t : State} {bs : List LaunchBlk} (h : BlocksRead s w l t bs)
    (acc : List LaunchBlk) (k : State → List LaunchBlk → State) : readBlocks s w acc l k = k t (acc ++ bs) := by
  induction l generalizing s acc bs with
  | nil =>
    obtain ⟨rfl, rfl⟩ := h
    simp [readBlocks]
  | cons a as ih =>
    obtain ⟨u, x, bs', h1, h2, h3, h4, h5, rfl⟩ := h
    have m : u.me = s.me := h1.held.1.me (by rw [h1.held.2])
    unfold readBlocks
    rw [slotRecord_ready h1]
    dsimp only
    rw [if_neg (by simp [h2]), if_neg (by rw [m]; simpa using h3), if_neg (by rw [m]; simp [h4]), ih h5]
    simp

theorem Pops.held {s : State} {file : Bool} {n : Nat} {t : State} {v : VReg} (h : Pops s file n t v) :
    Held s t ∧ t.iss.cid = s.iss.cid := by
  obtain ⟨-, h⟩ := h
  revert h
  cases (pStep (s.portNow file n)).1 with
  | none =>
    rintro ⟨rfl, rfl⟩
    exact ⟨Held.eff s _, rfl⟩
  | some j =>
    rintro ⟨u, bs, h1, rfl, rfl⟩
    have h2 : Held s u ∧ u.iss = s.iss := by
      revert h1
      split
      · rintro ⟨-, rfl, -⟩
        exact ⟨Held.refl _, rfl⟩
      · exact fun h1 => h1.held
    refine ⟨h2.1.trans ?_, ?_⟩
    · dsimp only
      split
      · exact (Held.eff u _).trans (Held.charge _ _ _)
      · exact ((Held.eff u _).trans (Held.eff _ _)).trans (Held.charge _ _ _)
    · rw [← h2.2]
      split
      · rfl
      · rfl

theorem Source.held {s : State} {file : Bool} {w : Nat} {x : BitVec 11} {t : State} {v : VReg} (h : Source s file w x t v) :
    Held s t ∧ t.iss.cid = s.iss.cid := by
  rcases h with ⟨-, -, -, rfl, -⟩ | ⟨-, -, h⟩ | ⟨-, rfl, -⟩ | ⟨-, rfl, -⟩
  · exact ⟨Held.refl _, rfl⟩
  · exact h.held
  · exact ⟨Held.refl _, rfl⟩
  · exact ⟨Held.refl _, rfl⟩

theorem Sources.held {s : State} {file : Bool} {w : Nat} {l : List (BitVec 11)} {t : State} {vs : List VReg}
    (h : Sources s file w l t vs) : Held s t ∧ t.iss.cid = s.iss.cid := by
  induction l generalizing s vs with
  | nil =>
    obtain ⟨rfl, rfl⟩ := h
    exact ⟨Held.refl _, rfl⟩
  | cons x l ih =>
    obtain ⟨u, v, vs', h1, h2, -⟩ := h
    exact ⟨h1.held.1.trans (ih h2).1, (ih h2).2.trans h1.held.2⟩

end Sys2Proof.Machine
end

