-- ==== Sys2Proof/Tests/Slice0.lean ====
section
/-! SUPPORT. Tests: ill-formed words, words of the manual, single steps, and states and operands that meet the hypotheses of every
statement. -/

namespace Sys2Proof.Tests
open Sys2Proof Sys2Proof.Machine

-- A proof by the kernel's own evaluation waits for all before it: one after the other they hold one thread, not one each.
set_option Elab.async false

/-! ### Words with every field zero -/

def sr : SR := { stk := false, ty := 0, kneg := false, k := 0, d := 0, a := 0, b := 0, c := 0, wi1 := none, wi2 := none, wo := none, fn := 0 }
def si : SI := { stk := false, ty := 0, kneg := false, k := 0, d := 0, a := 0, imm := 0 }
def sm : SM := { stk := false, ty := 0, kneg := false, k := 0, d := 0, base := 0, wi1 := none, wi2 := none, wo := none, addr := 0 }
def vo : VO := { file := false, stk := false, fmt := 0, qp := 0, d := 0, a := 0, b := 0, c := 0, e := false, pn := false, sat := false }
def mo : MO :=
  { stk := false, acc := 0, tda := 0, tdb := 0, ea := 0, eb := 0, fa := 0, fb := 0, wi1 := none, wi2 := none, wi3 := none, wo := none,
    fn := 0, kstep := 0 }
def co : CO :=
  { file := false, stk := false, ch := 0, d := 0, a := 0, b := 0, wi1 := none, wi2 := none, wi3 := none, wo := none, step := 0 }

/-! ### Ill-formed words, one or more for each check of WellFormed -/

/-- A field that an S.R entry does not use (R48), the FN forms, and the predicate, shift and register rules (R33, R136–R143). -/
theorem test_wf_refuses_scalar :
    ([.add { sr with fn := 2 }, .sub { sr with c := 1 }, .mul { sr with wo := some 0 }, .mulh { sr with fn := 1 }, .div { sr with c := 1 },
      .rem { sr with wi1 := some 0 }, .min { sr with wi2 := some 0 }, .max { sr with fn := 1 }, .and { sr with c := 1 },
      .or { sr with fn := 1 }, .xor { sr with c := 2 }, .shl { sr with fn := 1 }, .shr { sr with c := 1 }, .rot { sr with fn := 1 },
      .sel { sr with c := 8 }, .shli { si with imm := 64 }, .shri { si with imm := 64 }, .li { si with a := 1 }, .lih si,
      .lih { si with ty := 7, imm := 2 ^ 28 }, .cmpeq sr, .cmpne { sr with d := 8 }, .cmplt { sr with d := 1, c := 1 }, .cmple sr,
      .cmpeqi si, .cmpnei si, .cmplti { si with d := 8 }, .cmplei si, .kand { sr with d := 1, a := 8 }, .kor { sr with d := 1, b := 8 },
      .kxor sr, .knot { sr with d := 1, b := 1 }, .kmovK { sr with d := 1, fn := 1 }, .kmovToS sr, .kmovFromS { sr with fn := 2 },
      .bfx sr, .bfx { sr with ty := 7, c := 63, fn := 1 }, .bfi { sr with ty := 3 }, .clz { sr with b := 1 }, .ctz { sr with fn := 1 },
      .popc { sr with c := 1 }, .bswap { sr with b := 1 }] : List Instr).all (fun i => !i.wf) = true := by decide

/-- Control, special registers, barriers, memory and witness words (R144–R160, R276–R281, R302, R306). -/
theorem test_wf_refuses_control :
    ([.br { si with d := 1 }, .call { si with ty := 1 }, .loop { si with a := 1 }, .brr { sr with d := 1 }, .ret { sr with b := 1 },
      .callr { sr with ty := 1 }, .trap { si with imm := 2 ^ 16 }, .mfsr { si with imm := 6 }, .mfsr { si with imm := 2 ^ 12 },
      .mfsr { si with imm := 2 ^ 24 }, .mtsr { si with d := 1, imm := 0x22 }, .mtsr { si with imm := 0x25 }, .bari { si with d := 32 },
      .barl { sr with d := 32 }, .barv sr, .barw { sr with wo := some 0, b := 32 }, .barwRearm { sr with wo := some 0 }, .barwTest { sr with fn := 2 },
      .tret { sr with a := 1 }, .tkill { sr with d := 1 }, .ld { sm with wo := some 0 }, .pref { sm with d := 1 }, .wb { sm with ty := 1 },
      .inv { sm with wi1 := some 0 }, .aadd sm, .amin { sm with ty := 3, addr := 2 ^ 17 }, .amax { sm with stk := true, ty := 2 },
      .aand { sm with ty := 2, addr := 2 ^ 17 }, .aor sm, .axor sm, .aswp sm, .acas sr, .vjoin { sr with a := 1 }, .wmrg { sr with wi1 := some 0 },
      .wall { sr with wo := some 0, fn := 2 }, .wtst { sr with wi1 := some 0 }, .wtstPoisoned { sr with wi1 := some 0, d := 1 },
      .wtstLanded { sr with d := 1, fn := 2 }, .wwait sr, .wrd sr, .wset sr] : List Instr).all (fun i => !i.wf) = true := by decide

/-- Task and command-stream words (R127–R131, R413–R421, R426). -/
theorem test_wf_refuses_tasks :
    ([.exit { sr with a := 1, fn := 1 }, .exit { sr with fn := 5 }, .exit { sr with stk := true }, .contLabel { si with a := 1 },
      .contReg si, .budrd { sr with ty := 7, fn := 3 }, .budadd sr, .gjoin { si with imm := 2 ^ 10 }, .gleave { si with imm := 4 },
      .launch { sr with b := 1 }, .cwait { sr with wi2 := some 0 }, .hsig { sr with wo := some 0 }, .xinv sr, .cslotXlat { sr with fn := 1 },
      .cslotQi sr, .cslotQm sr, .cslotPolicy sr, .cslotDump sr, .cslotDumpack sr, .cslotEvents sr, .cslotThyme sr, .cslotGroup sr,
      .cslotSched sr, .cslotT0 sr, .cslotRoute sr, .cslotWindow sr, .cslotCallmax sr, .cslotThaw { sr with fn := 14, c := 1 }, .fdrain sr,
      .fdrainLock { sr with fn := 1 }, .snapAt sr, .snapAtStep { sr with fn := 1, wo := some 0 }, .snapDis { sr with a := 1 }]
        : List Instr).all (fun i => !i.wf) = true := by decide

/-- Vector words: formats, names, modes, shapes, and fields that an entry does not use (R42, R43, R174–R211). -/
theorem test_wf_refuses_vector :
    let f : VO := { vo with fmt := 8 }
    let g : VO := { vo with fmt := 2 }
    ([.vadd vo, .vsub { f with d := 1536 }, .vmul { f with c := 5 }, .vfma { f with c := 1546 }, .vfms { f with b := 1546 },
      .vfnma { g with d := 1 }, .vmax { f with sat := true }, .vmin { f with c := 1 }, .vcpsg g, .vabs { f with b := 1 }, .vneg g,
      .vexp2 { f with c := 1 }, .vlog2 g, .vrcp { f with b := 1 }, .vrsqrt g, .vtanh g, .viadd f, .visub { g with c := 1 }, .vimul f,
      .vimad f, .vimax { g with sat := true }, .vimin f, .viabs { vo with fmt := 3 }, .vand f, .vor { g with sat := true }, .vxor f,
      .vnot { g with b := 1 }, .vshl f, .vshr { g with sat := true }, .vcmpEq f, .vcmpNe { f with d := 16 }, .vcmpLt { f with d := 1, c := 1 },
      .vcmpLe { f with d := 1, e := true }, .vcmpTord { g with d := 1 }, .vcmpUn { f with d := 1, sat := true }, .vsel { g with c := 16 },
      .vcxc { vo with fmt := 9 }, .vcvt { f with c := 64 }, .vcvt { f with c := 128 }, .vpack f, .vunpk { vo with fmt := 13, qp := 1 }, .vscl f,
      .vqmx { vo with fmt := 11, c := 5 }, .vqmx { vo with fmt := 11, c := 32 }, .vseed g, .vperm { vo with fmt := 15 }, .vbcast { g with c := 64 },
      .vzip { g with c := 2 }, .vuzp { g with sat := true }, .vrsum { f with c := 7 }, .vrmax { f with sat := true }, .vrmin { f with b := 1 },
      .vramax g, .virsum f, .vmov { g with c := 1 }, .xmvVec g, .xmvPred { vo with c := 1 }, .xmvToS { vo with c := 2, d := 64 },
      .xmvFromS { vo with c := 3, a := 64 }, .xmvToC { vo with c := 4, b := 32 }, .xmvPredToS { vo with c := 5, a := 16 }, .vld { vo with c := 1 },
      .vst { vo with d := 64 }, .vgth vo, .vsct { g with e := true }, .pcfg vo, .pcfg { vo with d := 1536, stk := true }, .pskip { vo with d := 1536 },
      .qand vo, .qor { vo with d := 1, b := 16 }, .qxor { vo with d := 1, c := 1 }, .qnot { vo with d := 1, b := 1 }, .qsetNone { vo with d := 1, a := 1 },
      .qsetAll { vo with d := 1 }, .qsetFirst { vo with d := 1 }, .qsetNz { vo with d := 1 }] : List Instr).all (fun i => !i.wf) = true := by
  decide

/-- Matrix, copy, notice and fabric words (R46, R47, R218–R233, R254–R264, R317–R338, R359–R370, R434). -/
theorem test_wf_refuses_engines :
    ([.mma { mo with fa := 9, fb := 10 }, .mmaz { mo with fa := 11, fb := 11, kstep := 1 }, .tdld { mo with fn := 3 }, .tdld { mo with tdb := 1 },
      .tdsetAdd { mo with fn := 1 }, .tdsetLo mo, .tdsetHi mo, .tdsetKorg mo, .tdsetShape mo, .tdsetStride mo, .tdsetView mo,
      .mscl { mo with fn := 3 }, .mdrn { mo with tda := 8 }, .mst { mo with fa := 1 }, .mld { mo with fa := 9 }, .mzero { mo with fa := 1 },
      .mmov { mo with tda := 8 }, .cp { co with step := 1 }, .cps { co with step := 1 }, .mcst { co with step := 1 }, .gld { co with step := 1 },
      .pgret { co with d := 1 }, .pgrel { co with stk := true }, .pgwb { co with d := 1 }, .l2pf { co with ch := 1 }, .l2wb { co with b := 1 },
      .l2inv { co with ch := 1 }, .pub { co with stk := true }, .decl { co with b := 1 }, .scfgLand { co with ch := 1 }, .scfgUnland co,
      .scfgMbox co, .scfgLimits co, .scfgClass co, .scfgPace co, .scfgRead { co with ch := 6, a := 1 }, .walk { co with b := 1 },
      .permit { co with d := 1 }, .rtset { co with wo := some 0 }, .rtrel { co with b := 1 }, .fst { co with ch := 4 }, .fmst { co with ch := 4 },
      .tkget { co with b := 1 }, .tkwait co, .tkdone { co with wo := some 0 }, .rslot { co with b := 1 }, .rsto { co with ch := 1 },
      .shcp { co with d := 1 }, .shdrn { co with d := 1 }] : List Instr).all (fun i => !i.wf) = true := by decide

/-- The same words with their fields as the entries want them: one per shape. -/
theorem test_wf_admits :
    ([.nop .s true, .add { sr with fn := 1, stk := true }, .sel { sr with c := 7 }, .lih { si with ty := 7, imm := 1 }, .cmpeq { sr with d := 7 },
      .bfx { sr with ty := 7, c := 63 }, .mfsr { si with imm := 0x44 }, .aadd { sm with ty := 2, addr := 2 ^ 17 }, .exit { sr with fn := 1, d := 3 },
      .contReg { si with ty := 1 }, .launch sr, .cslotThaw { sr with fn := 14 }, .vadd { vo with fmt := 8, a := 1545, c := 4 },
      .vcvt { vo with fmt := 11, c := 0x340 }, .pcfg { vo with d := 1543 }, .mma { mo with fa := 11, fb := 15, stk := true, kstep := 7 },
      .cp { co with stk := true, step := 8191 }, .fst { co with ch := 3 }, .partReset] : List Instr).all Instr.wf = true := by decide

/-! ### Words of the manual -/
/-- What a slot's word decodes to. -/
def decoded (sl : Slot) (w : Word) : Option Instr := (decodeSlot sl w).toOption


theorem test_decode_vadd : decoded .v0 0x014000C0500A4000 = some (.vadd { vo with fmt := 8, d := 12, a := 40, b := 41 }) := by decide
theorem test_decode_st :
    decoded .s 0x6170246000940010 = some (.st { sm with ty := 7, d := 9, base := 6, wo := some 5, addr := 16 }) := by decide
theorem test_decode_cmplti : decoded .s 0x26220C7FFFFFFFFB = some (.cmplti { si with ty := 2, k := 2, d := 3, a := 7, imm := -5 }) := by decide
theorem test_decode_loop : decoded .s 0x4800240FFFFFFFFA = some (.loop { si with d := 9, imm := -6 }) := by decide
theorem test_decode_exit : decoded .s 0xA000105000880002 = some (.exit { sr with d := 4, a := 5, wi1 := some 2, fn := 2 }) := by decide
theorem test_decode_wmrg :
    decoded .s 0x8000000000862900 = some (.wmrg { sr with wi1 := some 1, wi2 := some 2, wo := some 4 }) := by decide
theorem test_decode_xinv :
    decoded .s 0xC3000C4140840880 = some (.xinv { sr with d := 3, a := 4, b := 5, wi1 := some 1, wo := some 2 }) := by decide
theorem test_decode_snap : decoded .s 0xC6000C4140000880 = some (.snapAt { sr with d := 3, a := 4, b := 5, wo := some 2 }) := by decide
theorem test_decode_cslot : decoded .s 0xC40034E180000009 = some (.cslotSched { sr with d := 13, a := 14, b := 6, fn := 9 }) := by decide
theorem test_decode_vfma :
    decoded .v0 0x044986405180B04D =
      some (.vfma { vo with fmt := 9, qp := 3, d := 100, a := 40, b := 1538, c := 1545, e := true, sat := true }) := by decide
theorem test_decode_vcxc :
    decoded .v0 0x794080C002028008 = some (.vcxc { vo with fmt := 8, qp := 1, d := 12, a := 1, b := 10, c := 1 }) := by decide
theorem test_decode_vcvt : decoded .v0 0x805802802A000A01 = some (.vcvt { vo with fmt := 11, d := 40, a := 21, c := 0x140, sat := true }) := by
  decide
theorem test_decode_pcfg : decoded .v0 0xD000601004000000 = some (.pcfg { vo with d := 1537, a := 2 }) := by decide
theorem test_decode_mmaz :
    decoded .m 0x02A0106EE300091A =
      some (.mmaz { mo with stk := true, acc := 2, tdb := 1, eb := 1, fa := 11, fb := 11, wi1 := some 3, wo := some 4, fn := 3, kstep := 2 }) := by
  decide
theorem test_decode_cp :
    decoded .c0 0x013214D10004E000 = some (.cp { co with ch := 3, d := 4, a := 5, b := 6, wi1 := some 2, wo := some 7 }) := by decide
theorem test_decode_gld :
    decoded .c0 0x042214D080046000 = some (.gld { co with ch := 2, d := 4, a := 5, b := 6, wi1 := some 1, wo := some 3 }) := by decide
theorem test_decode_pub :
    decoded .c0 0x400214D100052000 = some (.pub { co with d := 4, a := 5, b := 6, wi1 := some 2, wo := some 9 }) := by decide
theorem test_decode_fst :
    decoded .c0 0x601214D080046000 = some (.fst { co with ch := 1, d := 4, a := 5, b := 6, wi1 := some 1, wo := some 3 }) := by decide
theorem test_decode_rtrel : decoded .c0 0x4605100000000000 = some (.rtrel { co with d := 10, a := 4 }) := by decide
theorem test_decode_rslot : decoded .c1 0x6500880000000000 = some (.rslot { co with file := true, d := 1, a := 2 }) := by decide
theorem test_decode_rsto :
    decoded .c0 0x6601903000044000 = some (.rsto { co with d := 3, a := 4, b := 1, wi1 := some 0, wo := some 2 }) := by decide

/-- R38, R50: HVER other than 1, IMMV clear beside an immediate, YIELD with STOP clear or on a stream core, a wait without YIELD. -/
theorem test_header_refused :
    decodeHeader false 0x00000042 = none ∧ decodeHeader false 0x100100042 = none ∧ decodeHeader false 0x00100082 = none ∧
      decodeHeader true 0x001000C2 = none ∧ decodeHeader false 0x20100042 = none ∧ (decodeHeader false 0x00003F8000140042).isSome := by decide

/-- The opcode table's numbering of a bundle of one slot. -/
theorem test_table_word : decodeTableWord 128 (0x00100042 + 0x014000C0500A4000 * 2 ^ 64) =
    some (.vadd { vo with fmt := 8, d := 12, a := 40, b := 41 }) := by decide


/-! ### A word of every constructor, its fields placed as R41 and R45–R47 place them, its opcode from R51–R54 -/

/-- Each word decodes to its instruction, which is well formed. -/
def decodes (l : List (Slot × Word × Instr)) : Bool := l.all fun p => decoded p.1 p.2.1 == some p.2.2 && p.2.2.wf

theorem test_words_scalar : decodes [
    (.s, 0x01EB2D6840000001, .add { sr with stk := true, ty := 6, d := 11, a := 22, b := 33, fn := 1, k := 3, kneg := true }),
    (.s, 0x022B07F140000000, .sub { sr with ty := 2, d := 1, a := 63, b := 5, k := 3, kneg := true }),
    (.s, 0x0370FC2A00000001, .mul { sr with ty := 7, d := 63, a := 2, b := 40, fn := 1 }),
    (.s, 0x04302481C0000000, .mulh { sr with ty := 3, d := 9, a := 8, b := 7 }),
    (.s, 0x05100C2040000000, .div { sr with ty := 1, d := 3, a := 2, b := 1 }),
    (.s, 0x06401461C0000000, .rem { sr with ty := 4, d := 5, a := 6, b := 7 }),
    (.s, 0x0750209280000000, .min { sr with ty := 5, d := 8, a := 9, b := 10 }),
    (.s, 0x0800209280000000, .max { sr with ty := 0, d := 8, a := 9, b := 10 }),
    (.s, 0x0970515580000000, .and { sr with ty := 7, d := 20, a := 21, b := 22 }),
    (.s, 0x0A705D8640000000, .or { sr with ty := 7, d := 23, a := 24, b := 25 }),
    (.s, 0x0B7069B700000000, .xor { sr with ty := 7, d := 26, a := 27, b := 28 }),
    (.s, 0x0C7075E7C0000000, .shl { sr with ty := 7, d := 29, a := 30, b := 31 }),
    (.s, 0x0D30821880000000, .shr { sr with ty := 3, d := 32, a := 33, b := 34 }),
    (.s, 0x0E608E4940000000, .rot { sr with ty := 6, d := 35, a := 36, b := 37 }),
    (.s, 0x0F709A7A07000000, .sel { sr with ty := 7, d := 38, a := 39, b := 40, c := 7 }),
    (.s, 0x10B030DFFFFFFFFF, .addi { si with ty := 3, d := 12, a := 13, imm := -1, stk := true }),
    (.s, 0x1130042000000005, .muli { si with ty := 3, d := 1, a := 2, imm := 5 }),
    (.s, 0x12700420000000FF, .andi { si with ty := 7, d := 1, a := 2, imm := 255 }),
    (.s, 0x137004200000000F, .ori { si with ty := 7, d := 1, a := 2, imm := 15 }),
    (.s, 0x1470042FFFFFFFFE, .xori { si with ty := 7, d := 1, a := 2, imm := -2 }),
    (.s, 0x157004200000003F, .shli { si with ty := 7, d := 1, a := 2, imm := 63 }),
    (.s, 0x1630042000000001, .shri { si with ty := 3, d := 1, a := 2, imm := 1 }),
    (.s, 0x1730B00FFFFFFFFB, .li { si with ty := 3, d := 44, imm := -5 }),
    (.s, 0x187010500FFFFFFF, .lih { si with ty := 7, d := 4, a := 5, imm := 0xfffffff }),
    (.s, 0x20201C1080000000, .cmpeq { sr with ty := 2, d := 7, a := 1, b := 2 }),
    (.s, 0x2120183100000000, .cmpne { sr with ty := 2, d := 6, a := 3, b := 4 }),
    (.s, 0x2270145180000000, .cmplt { sr with ty := 7, d := 5, a := 5, b := 6 }),
    (.s, 0x2330107200000000, .cmple { sr with ty := 3, d := 4, a := 7, b := 8 }),
    (.s, 0x24200C9000000064, .cmpeqi { si with ty := 2, d := 3, a := 9, imm := 100 }),
    (.s, 0x2520089FFFFFFF9C, .cmpnei { si with ty := 2, d := 2, a := 9, imm := -100 }),
    (.s, 0x266B049000000001, .cmplti { si with ty := 6, d := 1, a := 9, imm := 1, k := 3, kneg := true }),
    (.s, 0x27301C9000000000, .cmplei { si with ty := 3, d := 7, a := 9, imm := 0 }),
    (.s, 0x28000420C0000000, .kand { sr with d := 1, a := 2, b := 3 }),
    (.s, 0x2900105180000000, .kor { sr with d := 4, a := 5, b := 6 }),
    (.s, 0x2A001C0040000000, .kxor { sr with d := 7, a := 0, b := 1 }),
    (.s, 0x2B00083000000000, .knot { sr with d := 2, a := 3 }),
    (.s, 0x2C00105000000000, .kmovK { sr with d := 4, a := 5 }),
    (.s, 0x2C00F06000000001, .kmovToS { sr with d := 60, a := 6, fn := 1 }),
    (.s, 0x2C001FD000000002, .kmovFromS { sr with d := 7, a := 61, fn := 2 }),
    (.s, 0x303004200800000F, .bfx { sr with ty := 3, d := 1, a := 2, c := 8, fn := 15 }),
    (.s, 0x31700C416000001F, .bfi { sr with ty := 7, d := 3, a := 4, b := 5, c := 32, fn := 31 }),
    (.s, 0x3260042000000000, .clz { sr with ty := 6, d := 1, a := 2 }),
    (.s, 0x33700C4000000000, .ctz { sr with ty := 7, d := 3, a := 4 }),
    (.s, 0x3450146000000000, .popc { sr with ty := 5, d := 5, a := 6 }),
    (.s, 0x35401C8000000000, .bswap { sr with ty := 4, d := 7, a := 8 })] = true := by decide

theorem test_words_control : decodes [
    (.s, 0x400B000FFFFFFFFC, .br { si with imm := -4, k := 3, kneg := true }),
    (.s, 0x4100F80000000064, .call { si with d := 62, imm := 100 }),
    (.s, 0x4800240FFFFFFFFA, .loop { si with d := 9, imm := -6 }),
    (.s, 0x4200003000000000, .brr { sr with a := 3 }),
    (.s, 0x4300F84000000000, .callr { sr with d := 62, a := 4 }),
    (.s, 0x440003E000000000, .ret { sr with a := 62 }),
    (.s, 0x4A0000000000ABCD, .trap { si with imm := 0xabcd }),
    (.s, 0xB000140000861044, .mfsr { si with d := 5, imm := 0x861044 }),
    (.s, 0xB100006000000022, .mtsr { si with a := 6, imm := 34 }),
    (.s, 0x90007C0000000FFF, .bari { si with d := 31, imm := 0xfff }),
    (.s, 0x9100780000862000, .barl { sr with d := 30, wi1 := some 1, wi2 := some 2 }),
    (.s, 0x92000050008E4980, .barv { sr with a := 5, wi1 := some 3, wi2 := some 4, wo := some 6 }),
    (.s, 0x93002007C00009C0, .barw { sr with d := 8, b := 31, wo := some 7 }),
    (.s, 0x93002000400009C1, .barwRearm { sr with d := 8, b := 1, wo := some 7, fn := 1 }),
    (.s, 0x93002000800009C2, .barwTest { sr with d := 8, b := 2, wo := some 7, fn := 2 }),
    (.s, 0xB20B000000000000, .tret { sr with k := 3, kneg := true }),
    (.s, 0xB300009000000000, .tkill { sr with a := 9 }),
    (.s, 0x607028BB2D03FFF8, .ld { sm with ty := 7, d := 10, base := 11, wi1 := some 12, wi2 := some 13, addr := 0x3fff8 }),
    (.s, 0x612028B8628E0004, .st { sm with ty := 2, d := 10, base := 11, wi1 := some 1, wi2 := some 2, wo := some 3, addr := 0x20004 }),
    (.s, 0x620000C840000100, .pref { sm with base := 12, wi1 := some 1, addr := 0x100 }),
    (.s, 0x630000DFC0F80200, .wb { sm with base := 13, wi1 := some 31, wo := some 30, addr := 0x200 }),
    (.s, 0x640000E000020001, .inv { sm with base := 14, addr := 0x20001 }),
    (.s, 0x70200428C0920008, .aadd { sm with ty := 2, d := 1, base := 2, wi1 := some 3, wo := some 4, addr := 0x20008 }),
    (.s, 0x7130146000000008, .amin { sm with ty := 3, d := 5, base := 6, addr := 8 }),
    (.s, 0x72601C8000000004, .amax { sm with ty := 6, d := 7, base := 8, addr := 4 }),
    (.s, 0x737024A000000010, .aand { sm with ty := 7, d := 9, base := 10, addr := 16 }),
    (.s, 0x74702CC000000018, .aor { sm with ty := 7, d := 11, base := 12, addr := 24 }),
    (.s, 0x757034E000000020, .axor { sm with ty := 7, d := 13, base := 14, addr := 32 }),
    (.s, 0x76203D0000000028, .aswp { sm with ty := 2, d := 15, base := 16, addr := 40 }),
    (.s, 0x77704524D4D76DC0, .acas { sr with ty := 7, d := 17, a := 18, b := 19, c := 20, wi1 := some 21, wi2 := some 22, wo := some 23 }),
    (.s, 0x65000000008628C0, .vjoin { sr with wi1 := some 1, wi2 := some 2, wo := some 3 }),
    (.s, 0x8000000000925980, .wmrg { sr with wi1 := some 4, wi2 := some 5, wo := some 6 }),
    (.s, 0x81000000000009C1, .wall { sr with wo := some 7, fn := 1 }),
    (.s, 0x8200040000A00000, .wtst { sr with d := 1, wi1 := some 8 }),
    (.s, 0x8200080000A40001, .wtstPoisoned { sr with d := 2, wi1 := some 9, fn := 1 }),
    (.s, 0x82000C0000A80002, .wtstLanded { sr with d := 3, wi1 := some 10, fn := 2 })] = true := by decide

theorem test_words_tasks : decodes [
    (.s, 0x8300000000AEC000, .wwait { sr with wi1 := some 11, wi2 := some 12 }),
    (.s, 0x8400100000B40000, .wrd { sr with d := 4, wi1 := some 13 }),
    (.s, 0x8500005000000B80, .wset { sr with a := 5, wo := some 14 }),
    (.s, 0xA0000420C4966004, .exit { sr with d := 1, a := 2, b := 3, c := 4, wi1 := some 5, wi2 := some 6, fn := 4 }),
    (.s, 0xA100000FFFFFFFF8, .contLabel { si with imm := -8 }),
    (.s, 0xA110007000000002, .contReg { si with ty := 1, a := 7, imm := 2 }),
    (.s, 0xA270209000000002, .budrd { sr with ty := 7, d := 8, a := 9, fn := 2 }),
    (.s, 0xA37028B30D000000, .budadd { sr with ty := 7, d := 10, a := 11, b := 12, c := 13 }),
    (.s, 0x98003800000003FF, .gjoin { si with d := 14, imm := 0x3ff }),
    (.s, 0x99003C0000000003, .gleave { si with d := 15, imm := 3 }),
    (.s, 0xC0000420008E4000, .launch { sr with d := 1, a := 2, wi1 := some 3, wi2 := some 4 }),
    (.s, 0xC1001461C0A00000, .cwait { sr with d := 5, a := 6, b := 7, wi1 := some 8 }),
    (.s, 0xC20024A2C0B00000, .hsig { sr with d := 9, a := 10, b := 11, wi1 := some 12 }),
    (.s, 0xC3000C4140866880, .xinv { sr with d := 3, a := 4, b := 5, wi1 := some 1, wi2 := some 6, wo := some 2 }),
    (.s, 0xC4000420C0000000, .cslotXlat { sr with d := 1, a := 2, b := 3 }),
    (.s, 0xC4000420C0000001, .cslotQi { sr with d := 1, a := 2, b := 3, fn := 1 }),
    (.s, 0xC4000420C0000002, .cslotQm { sr with d := 1, a := 2, b := 3, fn := 2 }),
    (.s, 0xC4000420C0000003, .cslotPolicy { sr with d := 1, a := 2, b := 3, fn := 3 }),
    (.s, 0xC4000420C0000004, .cslotDump { sr with d := 1, a := 2, b := 3, fn := 4 }),
    (.s, 0xC4000420C0000005, .cslotDumpack { sr with d := 1, a := 2, b := 3, fn := 5 }),
    (.s, 0xC4000420C0000006, .cslotEvents { sr with d := 1, a := 2, b := 3, fn := 6 }),
    (.s, 0xC4000420C0000007, .cslotThyme { sr with d := 1, a := 2, b := 3, fn := 7 }),
    (.s, 0xC4000420C0000008, .cslotGroup { sr with d := 1, a := 2, b := 3, fn := 8 }),
    (.s, 0xC4000420C0000009, .cslotSched { sr with d := 1, a := 2, b := 3, fn := 9 }),
    (.s, 0xC4000420C000000A, .cslotT0 { sr with d := 1, a := 2, b := 3, fn := 10 }),
    (.s, 0xC4000420C000000B, .cslotRoute { sr with d := 1, a := 2, b := 3, fn := 11 }),
    (.s, 0xC4000420C000000C, .cslotWindow { sr with d := 1, a := 2, b := 3, fn := 12 }),
    (.s, 0xC4000420C000000D, .cslotCallmax { sr with d := 1, a := 2, b := 3, fn := 13 }),
    (.s, 0xC4000420C000000E, .cslotThaw { sr with d := 1, a := 2, b := 3, fn := 14 }),
    (.s, 0xC5000420000008C0, .fdrain { sr with d := 1, a := 2, wo := some 3 }),
    (.s, 0xC500100000000941, .fdrainLock { sr with d := 4, wo := some 5, fn := 1 }),
    (.s, 0xC600187200A6AAC0, .snapAt { sr with d := 6, a := 7, b := 8, wi1 := some 9, wi2 := some 10, wo := some 11 }),
    (.s, 0xC600300000B40B81, .snapAtStep { sr with d := 12, wi1 := some 13, wo := some 14, fn := 1 }),
    (.s, 0xC7003C0000000000, .snapDis { sr with d := 15 })] = true := by decide

theorem test_words_vector : decodes [
    (.v0, 0x01C7DFFC11824027, .vadd { vo with fmt := 8, qp := 15, d := 0x5ff, a := 0x608, b := 0x609, c := 4, e := true, pn := true, sat := true, stk := true }),
    (.v0, 0x024800100400C008, .vsub { vo with fmt := 9, d := 1, a := 2, b := 3, c := 1 }),
    (.v0, 0x035000400A018010, .vmul { vo with fmt := 10, d := 4, a := 5, b := 6, c := 2 }),
    (.v0, 0x0440007010024051, .vfma { vo with fmt := 8, d := 7, a := 8, b := 9, c := 10, sat := true }),
    (.v0, 0x0548007010024050, .vfms { vo with fmt := 9, d := 7, a := 8, b := 9, c := 10 }),
    (.v0, 0x0650007010024050, .vfnma { vo with fmt := 10, d := 7, a := 8, b := 9, c := 10 }),
    (.v0, 0x074000100400C000, .vmax { vo with fmt := 8, d := 1, a := 2, b := 3 }),
    (.v0, 0x084000400A018000, .vmin { vo with fmt := 8, d := 4, a := 5, b := 6 }),
    (.v0, 0x0940007010000000, .vabs { vo with fmt := 8, d := 7, a := 8 }),
    (.v0, 0x0A48009014000000, .vneg { vo with fmt := 9, d := 9, a := 10 }),
    (.v0, 0x0B5000100400C000, .vcpsg { vo with fmt := 10, d := 1, a := 2, b := 3 }),
    (.v0, 0x2040001004000000, .vexp2 { vo with fmt := 8, d := 1, a := 2 }),
    (.v0, 0x2148003008000000, .vlog2 { vo with fmt := 9, d := 3, a := 4 }),
    (.v0, 0x225000500C000000, .vrcp { vo with fmt := 10, d := 5, a := 6 }),
    (.v0, 0x2340007010000000, .vrsqrt { vo with fmt := 8, d := 7, a := 8 }),
    (.v0, 0x2440009014000000, .vtanh { vo with fmt := 8, d := 9, a := 10 }),
    (.v0, 0x401000100400C001, .viadd { vo with fmt := 2, d := 1, a := 2, b := 3, sat := true }),
    (.v0, 0x412800400A018000, .visub { vo with fmt := 5, d := 4, a := 5, b := 6 }),
    (.v0, 0x4208007010024000, .vimul { vo with fmt := 1, d := 7, a := 8, b := 9 }),
    (.v0, 0x431000100400C020, .vimad { vo with fmt := 2, d := 1, a := 2, b := 3, c := 4 }),
    (.v0, 0x440000100400C000, .vimax { vo with fmt := 0, d := 1, a := 2, b := 3 }),
    (.v0, 0x452000100400C000, .vimin { vo with fmt := 4, d := 1, a := 2, b := 3 }),
    (.v0, 0x4610001004000001, .viabs { vo with fmt := 2, d := 1, a := 2, sat := true }),
    (.v0, 0x602800100400C000, .vand { vo with fmt := 5, d := 1, a := 2, b := 3 }),
    (.v0, 0x612800400A018000, .vor { vo with fmt := 5, d := 4, a := 5, b := 6 }),
    (.v0, 0x6228007010024000, .vxor { vo with fmt := 5, d := 7, a := 8, b := 9 }),
    (.v0, 0x632800A016000000, .vnot { vo with fmt := 5, d := 10, a := 11 }),
    (.v0, 0x641000100400C001, .vshl { vo with fmt := 2, d := 1, a := 2, b := 3, sat := true }),
    (.v0, 0x651000100400C000, .vshr { vo with fmt := 2, d := 1, a := 2, b := 3 }),
    (.v0, 0x704000100400C000, .vcmpEq { vo with fmt := 8, d := 1, a := 2, b := 3 }),
    (.v0, 0x7148002006010008, .vcmpNe { vo with fmt := 9, d := 2, a := 3, b := 4, c := 1 }),
    (.v0, 0x721000F008014000, .vcmpLt { vo with fmt := 2, d := 15, a := 4, b := 5 }),
    (.v0, 0x732000E00A018008, .vcmpLe { vo with fmt := 4, d := 14, a := 5, b := 6, c := 1 }),
    (.v0, 0x744000D00C01C000, .vcmpTord { vo with fmt := 8, d := 13, a := 6, b := 7 }),
    (.v0, 0x755000C00E020008, .vcmpUn { vo with fmt := 10, d := 12, a := 7, b := 8, c := 1 }),
    (.v0, 0x784000100400C078, .vsel { vo with fmt := 8, d := 1, a := 2, b := 3, c := 15 }),
    (.v0, 0x792800C002028008, .vcxc { vo with fmt := 5, d := 12, a := 1, b := 10, c := 1 }),
    (.v0, 0x8048001004000A20, .vcvt { vo with fmt := 9, d := 1, a := 2, c := 0x144 }),
    (.v0, 0x8168001004000000, .vpack { vo with fmt := 13, d := 1, a := 2 }),
    (.v0, 0x8270003008000000, .vunpk { vo with fmt := 14, d := 3, a := 4 })] = true := by decide

theorem test_words_vector_moves : decodes [
    (.v0, 0x836000500C000000, .vscl { vo with fmt := 12, d := 5, a := 6 }),
    (.v0, 0x8478007010027FE0, .vqmx { vo with fmt := 15, d := 7, a := 8, b := 9, c := 0x7fc }),
    (.v0, 0x8528800014000000, .vseed { vo with fmt := 5, a := 10, qp := 1 }),
    (.v0, 0xA00000100400C000, .vperm { vo with fmt := 0, d := 1, a := 2, b := 3 }),
    (.v0, 0xA12800400A0001F8, .vbcast { vo with fmt := 5, d := 4, a := 5, c := 63 }),
    (.v0, 0xA21800600E020008, .vzip { vo with fmt := 3, d := 6, a := 7, b := 8, c := 1 }),
    (.v0, 0xA32000901402C008, .vuzp { vo with fmt := 4, d := 9, a := 10, b := 11, c := 1 }),
    (.v0, 0xB040001004000030, .vrsum { vo with fmt := 8, d := 1, a := 2, c := 6 }),
    (.v0, 0xB110003008000028, .vrmax { vo with fmt := 2, d := 3, a := 4, c := 5 }),
    (.v0, 0xB24000500C0001B0, .vrmin { vo with fmt := 8, d := 5, a := 6, c := 54 }),
    (.v0, 0xB348007010000038, .vramax { vo with fmt := 9, d := 7, a := 8, c := 7 }),
    (.v0, 0xB400009014000040, .virsum { vo with fmt := 0, d := 9, a := 10, c := 8 }),
    (.v0, 0xC03800BC10000000, .vmov { vo with fmt := 7, d := 11, a := 0x608 }),
    (.v0, 0xC100001004000000, .xmvVec { vo with d := 1, a := 2 }),
    (.v0, 0xC10000F006000008, .xmvPred { vo with d := 15, a := 3, c := 1 }),
    (.v0, 0xC10003F00807C010, .xmvToS { vo with d := 63, a := 4, b := 31, c := 2 }),
    (.v0, 0xC10000507E000018, .xmvFromS { vo with d := 5, a := 63, c := 3 }),
    (.v0, 0xC10003F00C01C020, .xmvToC { vo with d := 63, a := 6, b := 7, c := 4 }),
    (.v0, 0xC10000701E000028, .xmvPredToS { vo with d := 7, a := 15, c := 5 }),
    (.v0, 0xC201001004003F08, .vld { vo with d := 1, a := 2, c := 0x7e1, qp := 2 }),
    (.v0, 0xC300023006010310, .vst { vo with d := 35, a := 3, b := 4, c := 98 }),
    (.v0, 0xC44000500C01C1F8, .vgth { vo with fmt := 8, d := 5, a := 6, b := 7, c := 63 }),
    (.v0, 0xC510021010024050, .vsct { vo with fmt := 2, d := 33, a := 8, b := 9, c := 10 }),
    (.v0, 0xD00060700400C120, .pcfg { vo with d := 0x607, a := 2, b := 3, c := 36 }),
    (.v0, 0xD100600000003FF8, .pskip { vo with d := 0x600, c := 0x7ff }),
    (.v0, 0xD20000100400C000, .qand { vo with d := 1, a := 2, b := 3 }),
    (.v0, 0xD30000400A018000, .qor { vo with d := 4, a := 5, b := 6 }),
    (.v0, 0xD400007010024000, .qxor { vo with d := 7, a := 8, b := 9 }),
    (.v0, 0xD50000A016000000, .qnot { vo with d := 10, a := 11 }),
    (.v0, 0xD60000C000000000, .qsetNone { vo with d := 12 }),
    (.v0, 0xD60000D000000008, .qsetAll { vo with d := 13, c := 1 }),
    (.v0, 0xD60000E000000010, .qsetFirst { vo with d := 14, c := 2 }),
    (.v0, 0xD60000FC12000018, .qsetNz { vo with d := 15, a := 0x609, c := 3 })] = true := by decide

theorem test_words_matrix : decodes [
    (.m, 0x01F1272FE18A391D, .mma { mo with stk := true, acc := 7, tda := 1, tdb := 2, ea := 3, eb := 4, fa := 11, fb := 15, wi1 := some 1, wi2 := some 2, wi3 := some 3, wo := some 4, fn := 3, kstep := 5 }),
    (.m, 0x021FE02640000000, .mmaz { mo with acc := 1, tda := 15, tdb := 14, fa := 9, fb := 9 }),
    (.m, 0x1003400025000010, .tdld { mo with tda := 3, tdb := 4, wi1 := some 5, fn := 2 }),
    (.m, 0x1101000000000000, .tdsetAdd { mo with tda := 1 }),
    (.m, 0x1102000000000008, .tdsetLo { mo with tda := 2, fn := 1 }),
    (.m, 0x1103000000000010, .tdsetHi { mo with tda := 3, fn := 2 }),
    (.m, 0x1104000000000018, .tdsetKorg { mo with tda := 4, fn := 3 }),
    (.m, 0x1105000000000020, .tdsetShape { mo with tda := 5, fn := 4 }),
    (.m, 0x1106000000000028, .tdsetStride { mo with tda := 6, fn := 5 }),
    (.m, 0x1107000000000030, .tdsetView { mo with tda := 7, fn := 6 }),
    (.m, 0x12008E0000029010, .mscl { mo with ea := 7, tdb := 8, wi3 := some 9, fn := 2 }),
    (.m, 0x2097F0000000000F, .mdrn { mo with stk := true, acc := 1, tda := 7, tdb := 15, fn := 1, kstep := 7 }),
    (.m, 0x2129002421000888, .mst { mo with acc := 2, tda := 9, fa := 9, wi1 := some 1, wo := some 2, fn := 1 }),
    (.m, 0x2230000000000000, .mzero { mo with acc := 3 }),
    (.m, 0x2345000000000000, .mmov { mo with acc := 4, tda := 5 }),
    (.m, 0x246A0020000008C0, .mld { mo with acc := 6, tda := 10, fa := 8, wo := some 3 })] = true := by decide

theorem test_words_copy : decodes [
    (.c0, 0x01FFFBB0C51C9FFF, .cp { co with stk := true, ch := 7, d := 31, a := 30, b := 29, wi1 := some 1, wi2 := some 2, wi3 := some 3, wo := some 4, step := 0x1fff }),
    (.c0, 0x02110C800004A000, .cps { co with ch := 1, d := 2, a := 3, b := 4, wo := some 5 }),
    (.c0, 0x032190B300000000, .mcst { co with ch := 2, d := 3, a := 4, b := 5, wi1 := some 6 }),
    (.c0, 0x0460886000048000, .gld { co with ch := 6, d := 1, a := 2, b := 3, wo := some 4 }),
    (.c0, 0x2000140000000000, .pgret { co with a := 5 }),
    (.c0, 0x2100180000000000, .pgrel { co with a := 6 }),
    (.c0, 0x22301C1400052000, .pgwb { co with ch := 3, a := 7, wi1 := some 8, wo := some 9 }),
    (.c0, 0x2800880000046000, .l2pf { co with d := 1, a := 2, wo := some 3 }),
    (.c0, 0x2902141300000000, .l2wb { co with d := 4, a := 5, wi1 := some 6 }),
    (.c0, 0x2A03A00000000000, .l2inv { co with d := 7, a := 8 }),
    (.c0, 0x400214D100052000, .pub { co with d := 4, a := 5, b := 6, wi1 := some 2, wo := some 9 }),
    (.c0, 0x4100880000000000, .decl { co with d := 1, a := 2 }),
    (.c0, 0x4200880000000000, .scfgLand { co with d := 1, a := 2 }),
    (.c0, 0x4210880000000000, .scfgUnland { co with ch := 1, d := 1, a := 2 }),
    (.c0, 0x4220880000000000, .scfgMbox { co with ch := 2, d := 1, a := 2 }),
    (.c0, 0x4230880000000000, .scfgLimits { co with ch := 3, d := 1, a := 2 }),
    (.c0, 0x4240880000000000, .scfgClass { co with ch := 4, d := 1, a := 2 }),
    (.c0, 0x4250880000000000, .scfgPace { co with ch := 5, d := 1, a := 2 }),
    (.c0, 0x4260800000000000, .scfgRead { co with ch := 6, d := 1 }),
    (.c0, 0x430190128004C000, .walk { co with d := 3, a := 4, wi1 := some 5, wo := some 6 }),
    (.c0, 0x44001D0052054000, .permit { co with a := 7, b := 8, wi2 := some 9, wo := some 10 }),
    (.c0, 0x4500886000000000, .rtset { co with d := 1, a := 2, b := 3 }),
    (.c0, 0x4602140000000000, .rtrel { co with d := 4, a := 5 }),
    (.c0, 0x603088720004A000, .fst { co with ch := 3, d := 1, a := 2, b := 3, wi1 := some 4, wo := some 5 }),
    (.c0, 0x612088600004C000, .fmst { co with ch := 2, d := 1, a := 2, b := 3, wo := some 6 }),
    (.c0, 0x6200880000000000, .tkget { co with d := 1, a := 2 }),
    (.c0, 0x63000C0000048000, .tkwait { co with a := 3, wo := some 4 }),
    (.c0, 0x6402980000000000, .tkdone { co with d := 5, a := 6 }),
    (.c0, 0x6500880000000000, .rslot { co with d := 1, a := 2 }),
    (.c0, 0x6601903000044000, .rsto { co with d := 3, a := 4, b := 1, wi1 := some 0, wo := some 2 }),
    (.c0, 0x8000040000044000, .shcp { co with a := 1, wo := some 2 }),
    (.c0, 0x81000C0000048000, .shdrn { co with a := 3, wo := some 4 })] = true := by decide

theorem test_words_nop : decodes [(.s, 0, .nop .s false), (.v0, 0x0080000000000000, .nop .v0 true), (.v1, 0, .nop .v1 false),
    (.m, 0, .nop .m false), (.c0, 0, .nop .c0 false), (.c1, 0, .nop .c1 false)] = true := by decide


/-- Words that decode to nothing (R48–R55): an opcode that no map holds, a field that its entry does not use, a witness field with V = 0
and an index. -/
theorem test_decode_refuses :
    ([(.s, 0x1900000000000000), (.s, 0x0100000001000000), (.s, 0x8000000000042900), (.v0, 0x0C00000000000000), (.v1, 0x0100000000000000),
      (.m, 0x0300000000000000), (.c0, 0x0500000000000000), (.c1, 0x4600000000000001)] : List (Slot × Word)).all
      (fun p => (decoded p.1 p.2).isNone) = true := by decide

/-! ### States -/

/-- A task of interface 0 on core 0 that issues a bundle at 64 KiB. -/
def atTask : State := { placeTask State.reset with iss := { on := true, cid := 0, pc := 0x10000, len := 16 } }

/-- The same with its context changed. -/
def taskWith (f : Ctx → Ctx) : State := atTask.modCtx 0 f

/-- A command stream of interface 0 that issues a bundle at 64 KiB. -/
def atStream : State := { placeStream State.reset with iss := { on := true, cid := 8192, pc := 0x10000, len := 16 } }

/-- The same with its context changed. -/
def streamWith (f : Ctx → Ctx) : State := atStream.modCtx 8192 f

/-- The state that `exec` answers. -/
def after (i : Instr) (s : State) : State :=
  match exec i s with
  | .next t => t
  | _ => s

/-- What lands in the bundle's commit buffer: destination, value, and the bundle from now at which it lands. -/
def lands (s : State) : List (Dst × Nat × Nat) :=
  s.iss.effs.filterMap fun e => match e with | .land l => some (l.dst, l.val.toNat, l.due) | _ => none

/-! ### Single steps, with results from the manual's rules and examples -/

/-- R134, R137: .i8 saturates at 127; without `sat` the sum wraps and is sign-extended. -/
theorem test_add_sat : lands (after (.add { sr with d := 3, a := 1, b := 2, fn := 1 }) (taskWith fun c => { c with s := [(1, 100), (2, 100)] })) =
    [(.s 3, 127, 1)] := by decide +kernel
theorem test_add_wraps : lands (after (.add { sr with d := 3, a := 1, b := 2 }) (taskWith fun c => { c with s := [(1, 100), (2, 100)] })) =
    [(.s 3, 2 ^ 64 - 56, 1)] := by decide +kernel

/-- R137: a zero divisor gives all ones, and a remainder its dividend; the quotient truncates toward zero. -/
theorem test_div_zero : lands (after (.div { sr with ty := 7, d := 3, a := 1, b := 2 }) (taskWith fun c => { c with s := [(1, 5)] })) =
    [(.s 3, 2 ^ 64 - 1, 3)] := by decide +kernel
theorem test_rem_sign : lands (after (.rem { sr with ty := 3, d := 3, a := 1, b := 2 })
    (taskWith fun c => { c with s := [(1, BitVec.ofInt 64 (-7)), (2, 2)] })) = [(.s 3, 2 ^ 64 - 1, 3)] := by decide +kernel

/-- R143: `clz` counts within the width of the type. -/
theorem test_clz_width : lands (after (.clz { sr with ty := 4, d := 3, a := 1 }) (taskWith fun c => { c with s := [(1, 0x101)] })) =
    [(.s 3, 7, 1)] := by decide +kernel

/-- R144: `loop` decrements and branches while the result is not zero; at zero it falls through. -/
theorem test_loop_taken : (after (.loop { si with d := 9, imm := -6 }) (taskWith fun c => { c with s := [(9, 2)] })).iss.effs.contains
    (.jump (0x10000 - 48)) = true := by decide +kernel
theorem test_loop_ends : (after (.loop { si with d := 9, imm := -6 }) (taskWith fun c => { c with s := [(9, 1)] })).iss.effs.contains
    (.jump (0x10000 - 48)) = false := by decide +kernel

/-- R294: the merge of the manual's example: w1 and w2 merged into w4. -/
theorem test_wmrg_example :
    (after (.wmrg { sr with wi1 := some 1, wi2 := some 2, wo := some 4 })
      (taskWith fun c => { c with w := [(1, { val := 0x8000000000012C40 }), (2, { val := 0x4000000000013000 })] })).iss.effs =
    [.wset 4 0x8000000000013000] := by decide +kernel

/-- R276: a misaligned access faults ALIGN at its address; a store starts one operation at commit. -/
theorem test_ld_align : (after (.ld { sm with ty := 7, d := 1, addr := 0x10004 }) atTask).iss.flts.map (fun p => (p.2.code, p.2.addr)) =
    [(0x07, 0x10004)] := by decide +kernel
theorem test_st_starts : (after (.st { sm with ty := 4, d := 1, base := 2, wo := some 3 })
    (taskWith fun c => { c with s := [(1, 0x1FF), (2, 0x20000)] })).iss.effs.map (fun e => match e with
      | .start o => match o.kind with | .store x => x.left | _ => []
      | _ => []) = [[⟨.dev 0x20000, [0xFF]⟩]] := by decide +kernel

/-- R160: `tret` outside a handler faults PRIV. -/
theorem test_tret_priv : (after (.tret sr) atTask).iss.flts.map (fun p => p.2.code) = [0x06] := by decide +kernel

/-- R413: a launch in a frozen interface answers status 4 in bits [43:40]. -/
theorem test_launch_frozen : lands (after (.launch { sr with d := 3, a := 4 })
    ((streamWith fun c => { c with s := [(4, 0x30000)] }).modIfc 0 fun i => { i with frozen := true })) = [(.s 3, 2 ^ 44 + 4 * 2 ^ 40, 20)] := by
  decide +kernel

/-- R179: integer addition of elements wraps without SAT and holds to the range with it. -/
theorem test_viadd_sat : lands (after (.viadd { vo with fmt := 0, d := 3, a := 1, b := 1, sat := true })
    (taskWith fun c => { c with v0 := { c.v0 with r := [(1, 0x7F)] } })) = [(.v false 3, 0x7F, 2)] := by decide +kernel

/-- R174, R76: 1 + 2 in `.f32` is 3 in lane 0. -/
theorem test_vadd_f32 : lands (after (.vadd { vo with fmt := 8, d := 3, a := 1, b := 2 })
    (taskWith fun c => { c with v0 := { c.v0 with r := [(1, 0x3F800000), (2, 0x40000000)] } })) = [(.v false 3, 0x40400000, 2)] := by
  decide +kernel

/-- R195: `qset.first` takes its count from the bundle immediate. -/
theorem test_qset_first : lands (after (.qsetFirst { vo with d := 1, c := 2 }) (atTask.modIss fun i => { i with bimm := 5 })) =
    [(.q false 1, 31, 2)] := by decide +kernel

/-- R220: `tdset.stride` writes bits [191:160]. -/
theorem test_tdset_stride : lands (after (.tdsetStride { mo with tda := 2, fn := 5 }) (atTask.modIss fun i => { i with bimm := 64 })) =
    [(.td 2, 64 * 2 ^ 160, 2)] := by decide +kernel

/-- R364: a ticket handle with bit 63 set is a refused ticket: `tkdone` answers 2 at once. -/
theorem test_tkdone_refused : lands (after (.tkdone { co with d := 1, a := 2 }) (taskWith fun c => { c with a0 := [(2, 2 ^ 63)] })) =
    [(.a false 1, 2, 4)] := by decide +kernel

/-- R8, R440: a part reset keeps the fuses and leaves every context free. -/
theorem test_part_reset : (after .partReset atTask).ctxs = [] ∧ (after .partReset atTask).plat.boot = 0 := by decide +kernel

/-- R57–R64: one step of the machine with `add s3, s1, s2` at its pc: the bundle commits, the pc moves past its two words, one unit is
charged, and the result is in flight for the next bundle. -/
theorem test_step_add :
    (match step (State.reset.withFetchWord 128 (0x00100041 + 0x01700C1080000000 * 2 ^ 64)) with
    | .next t => ((t.ctx 0).pc, (t.ctx 0).bi, (t.ctx 0).landing.map (·.dst))
    | _ => (0, 0, [])) = (0x10010, 2 ^ 32 - 2, [.s 3]) := by decide +kernel


/-! ### Witnesses: states and operands that meet the hypotheses of each statement, clause by clause -/

/-- The second clause asks for SAT (FN bit 0). -/
theorem witness_ScalarArithmetic : Runs atTask false 0 ∧ ({ sr with fn := 1 } : SR).fn.getLsbD 0 = true ∧ sr.fn.getLsbD 0 = false ∧
    ¬ Runs atTask true 0 ∧ Runs (taskWith fun c => { c with k := 0x81 }) false 7 := by unfold Runs; decide +kernel

/-- Quotients: an ordinary one, a zero divisor, and the most negative number by −1. -/
theorem witness_ScalarExact : Runs atTask false 0 ∧ tyVal 3 ((taskWith fun c => { c with s := [(1, 1)] }).me.sreg 1) ≠ 0 ∧
    tyVal 3 (atTask.me.sreg 1) = 0 ∧ (let s := taskWith fun c => { c with s := [(1, 2 ^ 63), (2, BitVec.ofInt 64 (-1))] }
      Runs s false 0 ∧ (3 : BitVec 3) < 4 ∧ tyVal 3 (s.me.sreg 1) = tyMin 3 ∧ tyVal 3 (s.me.sreg 2) = -1) := by unfold Runs; decide +kernel

theorem witness_ShiftsAndBitFields_shifts : Runs atTask false 0 ∧ ({ si with imm := 63 } : SI).imm < 64 := by unfold Runs; decide +kernel

theorem witness_ComparesAndPredicates : Runs atTask false 0 ∧ Runs (taskWith fun c => { c with k := 3 }) false 1 ∧
    Runs atTask true 1 := by unfold Runs; decide +kernel

/-- A field of all 64 bits, and one at the top. -/
theorem witness_ShiftsAndBitFields_fields : Runs atTask false 0 ∧ (0 : BitVec 6).toNat + ((63 : BitVec 6).toNat + 1) ≤ 64 ∧
    (63 : BitVec 6).toNat + ((0 : BitVec 6).toNat + 1) ≤ 64 := by unfold Runs; decide +kernel

theorem witness_ComparesAndPredicates_false : ¬ Runs atTask false 1 ∧ ¬ Runs atTask true 0 := by unfold Runs; decide +kernel

/-- A task in its handler, with nothing that waits. -/
def inHandler : State := taskWith fun c => { c with st := .inHandler, resume := some { pc := 0x10000, rep := 0, sticky := [], landing := [] }, hb := 4096 }

/-- An aligned and a misaligned register target; a loop that ends and one that goes on; in a handler and outside one. -/
theorem witness_ControlTransfers : Runs atTask false 0 ∧ atTask.me.sreg 1 + 8 * (1 : BitVec 36).signExtend 64 ≠ 0 ∧
    ((atTask.me.sreg 1 + 8 * (1 : BitVec 36).signExtend 64).extractLsb' 0 3 = 0) ∧
    ((taskWith fun c => { c with s := [(1, 4)] }).me.sreg 1).extractLsb' 0 3 ≠ 0 ∧
    (taskWith fun c => { c with s := [(9, 1)] }).me.sreg 9 - 1 = 0 ∧ atTask.me.sreg 9 - 1 ≠ 0 ∧
    Runs inHandler false 0 ∧ inHandler.me.resume ≠ none ∧ (∀ l ∈ inHandler.me.landing, l.late = none) ∧ atTask.me.resume = none := by
  unfold Runs; decide +kernel

/-! Conditions on memory and witness inputs, as values that can be computed. -/

/-- What a computation of segments answers. -/
def segsOf : Except (Code × Nat) (List Seg) → List Seg
  | .ok l => l
  | .error _ => []

/-- It answers segments. -/
def isOk {α : Type} : Except (Code × Nat) α → Bool
  | .ok _ => true
  | .error _ => false

theorem eq_ok {x : Except (Code × Nat) (List Seg)} (h : isOk x = true) : x = .ok (segsOf x) := by
  cases x with
  | ok => rfl
  | error => cases h

/-- The merge of the witness inputs. -/
def merged (s : State) (l : List WF) : Word := ((s.wregs l).map (·.val)).foldl wMerge 0

/-- The inputs are not pending, not poisoned, and satisfied. -/
def satNow (s : State) (l : List WF) : Bool := (s.wregs l).all (·.pend.isNone) && !wPsn (merged s l) && sat s (merged s l)

theorem sat_of {s : State} {l : List WF} (h : satNow s l = true) : SatReady s l (merged s l) := by
  simp only [satNow, Bool.and_eq_true, List.all_eq_true, Option.isNone_iff_eq_none, Bool.not_eq_true'] at h
  exact ⟨⟨⟨h.1.1, rfl⟩, h.1.2⟩, h.2⟩

/-- Segments of a read. -/
def rSegs (s : State) (acc : Acc) (va len : Nat) : List Seg := segsOf (resolve s (s.who s.iss.cid) acc false va len)

/-- Nothing holds up a read. -/
def mayRead (s : State) (acc : Acc) (va len : Nat) (win : Word) : Bool :=
  isOk (resolve s (s.who s.iss.cid) acc false va len) && decide (fillPages s.me va len = []) &&
    !readBlocked s (coreOf s.iss.cid) win (rSegs s acc va len)

theorem readMay_of {s : State} {acc : Acc} {va len : Nat} {win : Word} (h : mayRead s acc va len win = true) :
    ReadMay s acc va len win (rSegs s acc va len) := by
  simp only [mayRead, Bool.and_eq_true, decide_eq_true_eq, Bool.not_eq_true'] at h
  exact ⟨eq_ok h.1.1, h.1.2, h.2⟩

/-- A read through L1 as state and answer. -/
def l1Go (s : State) (acc : Acc) (va len : Nat) (win : Word) : State × L1Res :=
  l1Read (touchXlat s (s.who s.iss.cid) va len) (coreOf s.iss.cid) win (rSegs s acc va len)

/-- It gives bytes. -/
def l1Ok : L1Res → Bool
  | .ok _ => true
  | _ => false

theorem l1Reads_of {s : State} {acc : Acc} {va len : Nat} {win : Word}
    (h : (mayRead s acc va len win && l1Ok (l1Go s acc va len win).2) = true) : ∃ t bs, L1Reads s acc va len win t bs := by
  rw [Bool.and_eq_true] at h
  cases e : l1Go s acc va len win with
  | mk t r =>
    rw [e] at h
    cases r with
    | ok bs => exact ⟨t, bs, _, readMay_of h.1, e⟩
    | _ => simp [l1Ok] at h

/-- A read at the homes as state and bytes. -/
def homeGo (s : State) (va len : Nat) (win : Word) : State × List Byte :=
  readIn (touchXlat s (s.who s.iss.cid) va len) false win (rSegs s accRec va len)

theorem homeReads_of {s : State} {va len : Nat} {win : Word}
    (h : (mayRead s accRec va len win && decide (badSeg (touchXlat s (s.who s.iss.cid) va len) 0 (rSegs s accRec va len) = none)) = true) :
    HomeReads s accRec va len win (homeGo s va len win).1 (homeGo s va len win).2 := by
  rw [Bool.and_eq_true, decide_eq_true_eq] at h
  exact ⟨_, readMay_of h.1, h.2, rfl⟩

/-- A record as a number. -/
def recX (s : State) (va len : Nat) (win : Word) : Nat := leNat (homeGo s va len win).2

theorem recordReads_of {s : State} {al va len : Nat} {win : Word}
    (h : (decide (va % al = 0) && (mayRead s accRec va len win &&
      decide (badSeg (touchXlat s (s.who s.iss.cid) va len) 0 (rSegs s accRec va len) = none))) = true) :
    RecordReads s al va len win (homeGo s va len win).1 (recX s va len win) := by
  rw [Bool.and_eq_true, decide_eq_true_eq] at h
  exact ⟨h.1, _, homeReads_of h.2, rfl⟩

/-- Nothing holds up a write. -/
def mayWrite (s : State) (acc : Acc) (va len : Nat) : Bool :=
  isOk (resolve s (s.who s.iss.cid) { acc with wr := true } false va len) && decide (heldPages s s.iss.cid va len = []) &&
    decide (fillPages s.me va len = []) &&
    !noPath s (segsOf (resolve s (s.who s.iss.cid) { acc with wr := true } false va len)) && !fusing s (coreOf s.iss.cid)

theorem writeMay_of {s : State} {acc : Acc} {va len : Nat} (h : mayWrite s acc va len = true) :
    WriteMay s acc va len (touchXlat s (s.who s.iss.cid) va len) (segsOf (resolve s (s.who s.iss.cid) { acc with wr := true } false va len)) := by
  simp only [mayWrite, Bool.and_eq_true, decide_eq_true_eq, Bool.not_eq_true'] at h
  exact ⟨eq_ok h.1.1.1.1, h.1.1.1.2, h.1.1.2, h.1.2, h.2, rfl⟩

/-- Vector sources that are registers read as those registers. -/
theorem sources_of {s : State} {file : Bool} {w : Nat} {l : List (BitVec 11)}
    (h : (l.all fun x => decide (x < 1536) && !expired s (s.me.vf file) x.toNat && !(s.me.vf file).badReg x.toNat) = true) :
    Sources s file w l s (l.map fun x => tget 0 (s.me.vf file).r x.toNat) := by
  induction l with
  | nil => exact ⟨rfl, rfl⟩
  | cons x xs ih =>
    simp only [List.all_cons, Bool.and_eq_true, decide_eq_true_eq, Bool.not_eq_true'] at h
    exact ⟨s, _, _, .inl ⟨h.1.1.1, h.1.1.2, h.1.2, rfl, rfl⟩, ih (by simpa [and_assoc] using h.2), rfl⟩

/-- A task with its witness register w1 holding a value, and its output register w2 named. -/
def withW1 (v : Word) : State := taskWith fun c => { c with w := [(1, { val := v })] }

/-- Memory with a number laid at an address. -/
def laid (s : State) (a n x : Nat) : State := { s with mem := memPut s.mem a (leBytes n x) }

theorem witness_SpecialRegisters :
    (Runs atTask false 0 ∧ (∃ w, SatReady atTask [wfAt 0x10 12, wfAt 0x10 18] w) ∧ atTask.onStream = false) ∧
    (∃ w, SatReady (withW1 (2 ^ 63)) [wfAt 0x21010 12, wfAt 0x21010 18] w ∧ w ≠ 0) ∧
    (Runs atStream false 0 ∧ (∃ w, SatReady atStream [wfAt 0x11 12, wfAt 0x11 18] w) ∧ atStream.onStream = true) :=
  ⟨⟨by unfold Runs; decide +kernel, ⟨_, sat_of (by decide +kernel)⟩, by decide +kernel⟩, ⟨_, sat_of (by decide +kernel), by decide +kernel⟩,
    by unfold Runs; decide +kernel, ⟨_, sat_of (by decide +kernel)⟩, by decide +kernel⟩

/-- Every format, below its least number, at a number of its own, and above its range, in every mode; R84's two examples for `.e4m3`. -/
theorem witness_Rounding : (∀ n ∈ [(8 : BitVec 4), 9, 10, 11, 12, 13, 14, 15], 8 ≤ n ∧ (ffOf n).decode 0 = .fin false 0 ((ffOf n).emin - (ffOf n).mb) ∧
    ∀ m ∈ [RMode.rne, .rz, .rp, .rm], ((ffOf n).round m false true 1 0).fl &&& fOF = 0 ∧ ((ffOf n).round m false true 1 (-400)).fl &&& fUF ≠ 0 ∧
      ((ffOf n).round m false true 1 400).fl &&& fOF ≠ 0) ∧
    (ffOf 11).round .rne false false 460 0 = ⟨0x7E, fNX⟩ ∧ (ffOf 11).round .rne false false 470 0 = ⟨0x7F, fOF ||| fNX⟩ := by decide +kernel

/-- Zeros of both signs, a NaN and an infinity; elements at both ends of a register; operands of a fold and the last cell of a tile. -/
theorem witness_ExactArithmetic : (FVal.nan true false).isNan = true ∧ (ffOf 15).decode 15 = .fin true 3 1 ∧
    (∀ v ∈ [FVal.fin true 0 0, .fin false 3 5], v.isNan = false ∧ v.sig = false) ∧
    (∀ f ∈ [(8 : BitVec 4), 9, 10], 8 ≤ f ∧ f < 11 ∧ activeE (BitVec.allOnes 64) (fmtW f) (2048 / fmtW f - 1) = true ∧ 0 < 2048 / fmtW f / 2 ^ 1) ∧
    (∀ f ∈ [(11 : BitVec 4), 15], 11 ≤ f ∧ (List.replicate 32 1).map (ffOf f).decode = List.replicate 32 (.fin false 1 ((ffOf f).emin - (ffOf f).mb))) ∧
    ((127 < (List.replicate 128 ([] : List Byte)).length) ∧ 63 < (List.replicate 64 ([] : List Byte)).length) := by decide +kernel

theorem data_of {s : State} {l : List WF} (h : ((s.wregs l).all (·.pend.isNone)) = true) : DataReady s l (merged s l) := by
  simp only [List.all_eq_true, Option.isNone_iff_eq_none] at h
  exact ⟨h, rfl⟩

theorem in_of {s : State} {l : List WF} (h : ((s.wregs l).all (·.pend.isNone) && !wPsn (merged s l)) = true) : InReady s l (merged s l) := by
  rw [Bool.and_eq_true, Bool.not_eq_true'] at h
  exact ⟨data_of h.1, h.2⟩

theorem ok_eq {x : Except (Code × Nat) (List Seg)} {l : List Seg} (h : (isOk x && decide (segsOf x = l)) = true) : x = .ok l := by
  rw [Bool.and_eq_true, decide_eq_true_eq] at h
  rw [eq_ok h.1, h.2]

/-- A barrier that is not armed, one armed and done, one armed and not done. -/
def barriers : State := taskWith fun c => { c with b := [(1, { arm := true, done := true }), (31, { arm := true, exp := 4095 })] }

/-- A poisoned data input; a satisfied input; no open store; an arrival on a core of the same interface and of none. -/
theorem witness_WitnessAndBarrierWords : Runs (withW1 0xA000000000000001) false 0 ∧
    (∃ w, DataReady (withW1 0xA000000000000001) [some 1, none] w ∧ wPsn w = true) ∧ (∃ w, DataReady (withW1 1) [some 1] w) ∧
    (∃ w, SatReady (withW1 (2 ^ 63)) [some 1, some 2] w) ∧ (∃ r ∈ (taskWith fun c => { c with w := [(1, { pend := some 1 })] }).wregs [some 1], r.pend ≠ none) ∧
    ((∀ o ∈ atTask.ops, storeOpen atTask.owner o = false) ∧ viewsOpen (atTask.charge 1 0) atTask.owner = false ∧
      viewsCovered (atTask.charge 1 0) 0 = false) ∧
    ((atTask.core (fld (atTask.me.sreg 1).toNat 57 48)).own = some atTask.me.ifc ∧ fld (atTask.me.sreg 1).toNat 63 58 = atTask.me.ifc ∧
      fld ((taskWith fun c => { c with s := [(1, 2 ^ 48)] }).me.sreg 1).toNat 57 48 = 1 ∧ (atTask.core 1).own ≠ some atTask.me.ifc) ∧
    ((tget {} barriers.me.b 0).arm = false ∧ (tget {} barriers.me.b 1).arm = true ∧ (tget {} barriers.me.b 1).done = true ∧
      (tget {} barriers.me.b 31).arm = true ∧ (tget {} barriers.me.b 31).done = false) :=
  ⟨by unfold Runs; decide +kernel, ⟨_, data_of (by decide +kernel), by decide +kernel⟩, ⟨_, data_of (by decide +kernel)⟩,
    ⟨_, sat_of (by decide +kernel)⟩, by decide +kernel, by decide +kernel, by decide +kernel, by decide +kernel⟩

/-- A doubleword in device memory, one at the end of the local window, and a misaligned address. -/
theorem witness_ScalarLoads : Runs atTask false 0 ∧ (smAddr atTask { sm with ty := 7, addr := 0x1FFF8 } 8).toNat % 8 = 0 ∧
    (∃ w, SatReady atTask [none, none] w) ∧ (∃ t bs, L1Reads (atTask.charge 1 0) accLoad 0x1FFF8 8 0 t bs) ∧
    (∃ t bs, L1Reads (atTask.charge 1 0) accLoad (localBase + 8 * 65536 - 8) 8 0 t bs) ∧
    (smAddr atTask { sm with ty := 5, addr := 1 } 2).toNat % 2 ≠ 0 ∧ (atTask.me.sreg 0 + 1).toNat % 2 ^ (1 : BitVec 3).toNat ≠ 0 :=
  ⟨by unfold Runs; decide +kernel, by decide +kernel, ⟨_, sat_of (by decide +kernel)⟩, l1Reads_of (by decide +kernel),
    l1Reads_of (by decide +kernel), by decide +kernel⟩

theorem witness_StoresAndAtomics : Runs atTask false 0 ∧ (∃ w, InReady atTask [none, none] w) ∧
    (∃ t segs, WriteMay (atTask.charge 1 0) accStore 0x1FFF8 8 t segs) ∧
    (∃ pa n, resolve ((atTask.charge 1 0).charge 0 4) (atTask.who atTask.iss.cid) { loc := false, glob := true } false 0x100 256 = .ok [⟨.dev pa, n⟩] ∧
      badSeg ((atTask.charge 1 0).charge 0 4) 0 [⟨.dev pa, n⟩] = none) ∧
    (∃ pa n, resolve ((atTask.charge 1 0).charge 0 4) (atTask.who atTask.iss.cid) { wr := true, loc := false } false 0x100 256 = .ok [⟨.dev pa, n⟩]) ∧
    (∃ pa n, resolve (atTask.charge 1 0) (atTask.who atTask.iss.cid) { loc := false, glob := true } false 0x100 256 = .ok [⟨.dev pa, n⟩]) ∧
    (∃ t g segs, WriteMay (atTask.charge 2 0) accStore 0x1FFF8 8 t (g :: segs)) ∧ (∃ w, SatReady atTask [none, none] w) :=
  ⟨by unfold Runs; decide +kernel, ⟨_, in_of (by decide +kernel)⟩, ⟨_, _, writeMay_of (by decide +kernel)⟩,
    ⟨0x100, 256, ok_eq (by decide +kernel), by decide +kernel⟩, ⟨0x100, 256, ok_eq (by decide +kernel)⟩, ⟨0x100, 256, ok_eq (by decide +kernel)⟩,
    ⟨_, ⟨.dev 0x1FFF8, 8⟩, [], by
      have h := writeMay_of (s := atTask.charge 2 0) (acc := accStore) (va := 0x1FFF8) (len := 8) (by decide +kernel)
      rwa [show segsOf (resolve (atTask.charge 2 0) ((atTask.charge 2 0).who (atTask.charge 2 0).iss.cid) { accStore with wr := true } false
        0x1FFF8 8) = [⟨.dev 0x1FFF8, 8⟩] by decide +kernel] at h⟩,
    ⟨_, sat_of (by decide +kernel)⟩⟩

/-- A launch block of interface 0 for the S slot of core 0: entry and continuation at 64 KiB, save area at 1 MiB, one station with mask 1,
16 scalar registers. -/
def blkX : Nat := 0x10000 + 0x10000 * 2 ^ 64 + 0x100000 * 2 ^ 320 + 1 * 2 ^ 584 + 1 * 2 ^ 593 + 16 * 2 ^ 640

/-- A task and a command stream of interface 0, with launch blocks at 192 KiB: a good one, one of priority 7, one that inherits its
budget, one of another interface. -/
def atBoth (stream : Bool) : State :=
  let s := laid (laid (laid (laid (placeStream (placeTask State.reset)) 0x30000 128 blkX) 0x30080 128 (blkX + 7 * 2 ^ 597)) 0x30100 128
    (blkX + 2 ^ 480)) 0x30180 128 (blkX + 63 * 2 ^ 600)
  { s with iss := { on := true, cid := if stream then 8192 else 0, pc := 0x10000, len := 16 } }

/-- One successor's block read and checked. -/
theorem blocks_cons {s : State} {w a : Word} {as : List Word} {t : State} {bs : List LaunchBlk}
    (h : (decide (a.toNat % 128 = 0) && (mayRead s accRec a.toNat 128 0 &&
      decide (badSeg (touchXlat s (s.who s.iss.cid) a.toNat 128) 0 (rSegs s accRec a.toNat 128) = none))) = true)
    (k : blockOk (recX s a.toNat 128 0) = true ∧ ((blockOf (recX s a.toNat 128 0) a).prio = 7 → s.me.lb.prio = 7) ∧
      blockViol (homeGo s a.toNat 128 0).1 s.me.ifc (blockOf (recX s a.toNat 128 0) a) = false)
    (r : BlocksRead (homeGo s a.toNat 128 0).1 w as t bs) : ∃ bs', BlocksRead s w (a :: as) t bs' :=
  ⟨_, _, _, _, recordReads_of h, k.1, k.2.1, k.2.2, r, rfl⟩

theorem witness_TaskWords : Runs (atBoth false) false 0 ∧ (∃ w, DataReady (atBoth false) [none, none] w) ∧
    (∃ t bs, BlocksRead ((atBoth false).charge 4 0) 0 [] t bs) ∧ (∃ t bs, BlocksRead ((atBoth false).charge 8 0) 0 [0x30000] t bs) ∧
    (atBoth false).onStream = false ∧
    ((atBoth true).onStream = true ∧ findTask (atBoth true) 0 1 ≠ none ∧ findTask (atBoth true) 0 2 = none) ∧
    (joinOpen (atBoth false) = false ∧ allotted (atBoth false) 0 255 0 = false ∧
      allotted ((atBoth false).modDie 0 fun d => { d with grp := [(255, { allot := true })] }) 0 255 0 = true) ∧
    (tget none (taskWith fun c => { c with ge := [(3, some ⟨255, 0⟩)] }).me.ge 3 ≠ none ∧ tget none atTask.me.ge 0 = none) :=
  ⟨by unfold Runs; decide +kernel, ⟨_, data_of (by decide +kernel)⟩, ⟨_, _, rfl, rfl⟩,
    (blocks_cons (by decide +kernel) (by decide +kernel) (show BlocksRead _ 0 [] _ [] from ⟨rfl, rfl⟩)).elim fun _ h => ⟨_, _, h⟩, by decide +kernel, by decide +kernel,
    by decide +kernel, by decide +kernel⟩

/-- The state after the read and the block read, for the launches below. -/
def launchAt (s : State) (a : Nat) : State × LaunchBlk :=
  ((homeGo (s.charge 0 0) a 128 0).1, blockOf (recX (s.charge 0 0) a 128 0) (BitVec.ofNat 64 a))

/-- A core whose queue is full. -/
def fullQueue (s : State) : State := s.modCore 0 fun k =>
  { k with queue := List.replicate 56 { id := 9, lb := {}, ifc := 0, tseq := 0, evict := false, pend := true, rtick := 0, prio := 0, age := 0, bi := 0, bm := 0 } }

/-- Each outcome of a launch: a frozen interface, another interface, a bad block, one that inherits, priority 7, a full queue, success. -/
theorem witness_StreamWords_launch : Runs (atBoth true) false 0 ∧ (∃ w, InReady (atBoth true) [none, none] w) ∧
    (∀ a ∈ [0x30000, 0x30080, 0x30100, 0x30180, 0x30200], ∃ u x, RecordReads ((atBoth true).charge 0 0) 128 a 128 0 u x) ∧
    ((launchAt ((atBoth true).modIfc 0 fun i => { i with frozen := true }) 0x30000).1.ifc 0).frozen = true ∧
    (let z := launchAt (atBoth true) 0x30180; (z.1.ifc 0).frozen = false ∧ blockViol z.1 0 z.2 = true) ∧
    (let z := launchAt (atBoth true) 0x30100; (z.1.ifc 0).frozen = false ∧ blockViol z.1 0 z.2 = false ∧ z.2.inh = true) ∧
    (blockOk (recX ((atBoth true).charge 0 0) 0x30200 128 0) = false) ∧
    (let z := launchAt (atBoth true) 0x30080; blockViol z.1 0 z.2 = false ∧ blockOk (recX ((atBoth true).charge 0 0) 0x30080 128 0) = true ∧ z.2.inh = false ∧ z.2.prio = 7) ∧
    (let z := launchAt (fullQueue (atBoth true)) 0x30000; z.2.prio ≠ 7 ∧ openCores z.1 0 (placement z.2) = []) ∧
    (let z := launchAt (atBoth true) 0x30000; blockViol z.1 0 z.2 = false ∧ blockOk (recX ((atBoth true).charge 0 0) 0x30000 128 0) = true ∧ z.2.inh = false ∧ z.2.prio ≠ 7 ∧
        openCores z.1 0 (placement z.2) ≠ []) := by
  refine ⟨by unfold Runs; decide +kernel, ⟨_, in_of (by decide +kernel)⟩, fun a h => ⟨_, _, recordReads_of ?_⟩, by decide +kernel⟩
  revert a h
  decide +kernel

/-- The other stream words: a satisfied wait by count, by time and by witness; 63 and 64 signals open; all addresses and the last page. -/
theorem witness_StreamWords_rest : (let s := atStream.modIfc 0 fun i => { i with evc := 1 }; (s.me.sreg 1).toNat < (s.ifc 0).evc.toNat) ∧
    (let s := streamWith fun c => { c with s := [(2, 1)] }; ((s.me.sreg 2) ≠ 0 ∧ (s.me.sreg 2).toNat ≤ ({ s with now := 1 } : State).tick)) ∧
    (let s := streamWith fun c => { c with w := [(1, { val := 2 ^ 63 })] }; (tget {} s.me.w 1).pend = none ∧ wPsn (tget {} s.me.w 1).val = false ∧ sat s (tget {} s.me.w 1).val = true) ∧
    (∃ w, SatReady atStream [none, none] w) ∧
    ((atStream.modIfc 0 fun i => { i with hsc := 63 }).ifc 0).hsc - (atStream.ifc 0).hrd < 64 ∧
    64 ≤ (((atStream.modIfc 0 fun i => { i with hsc := 64 }).ifc 0).hsc - (atStream.ifc 0).hrd).toNat ∧
    ((2 ^ 48 - 65536) % 65536 = 0 ∧ (2 ^ 48 - 65536) + 65536 ≤ 2 ^ 48) :=
  ⟨by decide +kernel, by decide +kernel, by decide +kernel, ⟨_, sat_of (by decide +kernel)⟩, by decide +kernel, by decide +kernel, by decide⟩

/-- A snapshot record at 192 KiB: its storage is a global address, one region of 64 KiB at 0. -/
def atSnap : State := laid atStream 0x30000 128 (2 ^ 63 + 1 * 2 ^ 144 + 65536 * 2 ^ 320)

theorem witness_StreamWords_snap : (∃ w, SatReady atSnap [none, none] w) ∧
    (∃ u r, RecordReads (atSnap.charge 0 0) 128 0x30000 128 0 u r ∧ snapMisaligned r = false ∧ fld r 1023 768 = 0 ∧ fld r 191 152 = 0 ∧
      1 ≤ fld r 151 144 ∧ fld r 151 144 ≤ 4 ∧ snapOverlap r = false ∧ fld r 63 63 = 1 ∧ (u.ifc 0).step < 1 ∧ (u.ifc 0).snap.st = 0) ∧
    ((atSnap.modIfc 0 fun i => { i with snap := { i.snap with st := 1 } }).ifc 0).snap.st ≠ 0 :=
  ⟨⟨_, sat_of (by decide +kernel)⟩, ⟨_, _, recordReads_of (by decide +kernel), by decide +kernel⟩, by decide +kernel⟩

/-- A fabric owner in a drain that is not locked. -/
def atDrain : State := atStream.modFab fun f => { f with fown := some 0, drain := 1 }

/-- Items in and out of range; a group allotted; no frozen context; the owner in a drain, locked, not draining, and another interface. -/
theorem witness_StreamItems : Runs atStream false 0 ∧ (fld (3 * 2 ^ 10) 11 10 = 3 ∧ ¬ fld (3 * 2 ^ 10) 11 10 < 2 ∧ fld 0 31 0 ≤ (atStream.ifc 0).qci) ∧
    fld (tget 0 atStream.thyme (thymeKey 255 6 1023)).toNat 30 25 = atStream.me.ifc ∧
    allotted (atStream.modDie 3 fun d => { d with grp := [(255, { allot := true })] }) (1023 / 256) (1023 % 256) 0 = true ∧
    (∀ c ∈ frozenCtxs ((atBoth true).modCtx 0 fun c => { c with st := .frozen }) 0, ((atBoth true).ctx c).dying = false) ∧
    frozenCtxs ((atBoth true).modCtx 0 fun c => { c with st := .frozen }) 0 = [0] ∧
    (atDrain.fab.fown = some atDrain.me.ifc ∧ atDrain.fab.drain ≠ 0 ∧ atDrain.fab.locked = false) ∧
    (4095 < 4096 ∧ fld 4095 7 5 ≠ 0 ∧ fld 31 7 5 = 0 ∧ (2 ^ 32 - 1 < 2 ^ 32)) ∧
    ((atStream.modFab fun f => { f with fown := some 0 }).fab.drain = 0) ∧ atStream.fab.fown ≠ some atStream.me.ifc := by
  unfold Runs; decide +kernel

/-- Vector registers, witness w1, and a port: an exhausted one (port 0), one with a chunk fetched ahead (port 1), one that reads (port 2). -/
def vecTask : State := { taskWith fun c => { c with
    w := [(1, { val := 2 ^ 63 })]
    v0 := { c.v0 with
      r := [(1, 0x20000), (2, 0x3F800000), (3, 4)]
      ports := [(0, { conf := true, pos := 1 }), (1, { conf := true, chunks := [{ pos := 0, bytes := List.replicate 256 7 }] }),
        (2, { conf := true, base := 0x20000 })] } } with now := 4 }

theorem pops_none {s : State} {file : Bool} {n : Nat} (hc : (s.portNow file n).conf = true) (h : (pStep (s.portNow file n)).1 = none) :
    ∃ t v, Pops s file n t v := by
  refine ⟨s.eff (.port file n { s.portNow file n with pos := (pStep (s.portNow file n)).2 }), 0, hc, ?_⟩
  simp only [h, and_self]

theorem pops_some {s : State} {file : Bool} {n j : Nat} (hc : (s.portNow file n).conf = true) (h : (pStep (s.portNow file n)).1 = some j)
    (k : ∃ u bs, match (s.portNow file n).chunks.find? fun c => c.pos == j && chunkHeld s (coreOf s.iss.cid) c with
        | some c => c.fault = none ∧ u = s ∧ bs = c.bytes
        | none => L1Reads s accPort (pAddr (s.portNow file n) j) (pBytes (s.portNow file n).rcd) (s.portNow file n).wit u bs) :
    ∃ t v, Pops s file n t v := by
  obtain ⟨u, bs, k⟩ := k
  simp only [Pops, h]
  exact ⟨_, _, hc, u, bs, k, rfl, rfl⟩

/-- A pop of an exhausted port, of one with its chunk ahead, and of one that reads through L1. -/
theorem witness_pops : (∃ t v, Pops vecTask false 0 t v) ∧ (∃ t v, Pops vecTask false 1 t v) ∧ ∃ t v, Pops vecTask false 2 t v := by
  refine ⟨pops_none (by decide +kernel) (by decide +kernel), pops_some (j := 0) (by decide +kernel) (by decide +kernel) ?_,
    pops_some (j := 0) (by decide +kernel) (by decide +kernel) ?_⟩
  · rw [show ((vecTask.portNow false 1).chunks.find? fun c => c.pos == 0 && chunkHeld vecTask (coreOf vecTask.iss.cid) c) =
      some { pos := 0, bytes := List.replicate 256 7 } by decide +kernel]
    exact ⟨_, _, rfl, rfl, rfl⟩
  · rw [show ((vecTask.portNow false 2).chunks.find? fun c => c.pos == 0 && chunkHeld vecTask (coreOf vecTask.iss.cid) c) = none by decide +kernel]
    exact l1Reads_of (by decide +kernel)

/-- The first and the last register; a port, `mrow`, and the bundle immediate as sources. -/
theorem witness_sources : (∃ t vs, Sources (vecTask.charge 1 0) false 8 [1, 1535, 2] t vs) ∧
    (∃ t v, Source vecTask false 8 1536 t v) ∧ (∃ t v, Source vecTask false 8 1544 t v) ∧ (∃ t v, Source vecTask false 8 1545 t v) :=
  ⟨⟨_, _, sources_of (by decide +kernel)⟩, witness_pops.1.elim fun t h => h.elim fun v h => ⟨t, v, .inr (.inl ⟨by decide, by decide, h⟩)⟩,
    ⟨_, _, .inr (.inr (.inl ⟨rfl, rfl, rfl⟩))⟩, ⟨_, _, .inr (.inr (.inr ⟨by decide, rfl, rfl⟩))⟩⟩

/-- All lanes active; some lanes active and the destination not expired. -/
theorem witness_VectorElements : (∃ t vs, Sources (vecTask.charge 1 0) false (fmtW 0) [1, 2] t vs) ∧
    actBits (vecTask.me.qreg false 0) false = BitVec.allOnes 64 ∧
    expired vecTask (vecTask.me.vf false) 3 = false ∧ expired vecTask (vecTask.me.vf false) 1535 = false :=
  ⟨⟨_, _, sources_of (by decide +kernel)⟩, by decide +kernel, by decide +kernel, by decide +kernel⟩

theorem witness_VectorResults : (∃ t vs, Sources (vecTask.charge 1 0) false (fmtW 8) [1, 2, 3] t vs) ∧
    DestReady vecTask { vo with fmt := 8, d := 1535 } 0 ∧ DestReady vecTask vo (2 ^ 2048 - 1) :=
  ⟨⟨_, _, sources_of (by decide +kernel)⟩, .inr (by decide +kernel), .inl (by decide +kernel)⟩

theorem witness_VectorRounding : (∃ t vs, Sources (vecTask.charge 2 0) false (fmtW 15) [1, 2] t vs) ∧
    (∃ t vs, Sources (vecTask.charge 1 0) false 32 [1535] t vs) ∧ DestReady vecTask { vo with fmt := 11 } 1 :=
  ⟨⟨_, _, sources_of (by decide +kernel)⟩, ⟨_, _, sources_of (by decide +kernel)⟩, .inr (by decide +kernel)⟩

theorem witness_PredicatesAndMoves : (∃ t vs, Sources (vecTask.charge 1 0) false (fmtW 9) [1, 2] t vs) ∧
    (∃ t v, Sources (vecTask.charge 1 0) false 32 [1] t [v]) :=
  ⟨⟨_, _, sources_of (by decide +kernel)⟩, ⟨_, _, sources_of (l := [1]) (by decide +kernel)⟩⟩

/-- Index and element registers of a gather and a scatter. -/
def elems : List (Nat × Nat) := elemAddrs (BitVec.allOnes 64) 0x20000 4

/-- An aligned base; the reads and writes; the elements reachable and read; port records with and without a relative base. -/
theorem witness_VectorMemory :
    (let a := (tget 0 (vecTask.me.vf false).r 1).setWidth 64 + 256 * (0 : BitVec 5).signExtend 64; a.toNat % 64 = 0) ∧
    (∃ w, SatReady (vecTask.charge 1 0) [wfOf 0x21] w) ∧ (∃ u bs, L1Reads (vecTask.charge 1 0) accLoad 0x20000 256 (2 ^ 63) u bs) ∧
    (∃ w, InReady (vecTask.charge 1 0) [wfOf 0] w) ∧ (∃ u segs, WriteMay (vecTask.charge 1 0) accStore 0x20000 256 u segs) ∧
    actBits (vecTask.me.qreg false 0) false ≠ 0 ∧
    ((∀ p ∈ elems, elemFault (vecTask.charge 4 0) accLoad p.2 = none ∧ fillPages (vecTask.charge 4 0).me p.2 4 = [] ∧
        storePending (vecTask.charge 4 0) (vecTask.charge 4 0).iss.cid (elemSegs (vecTask.charge 4 0) accLoad p.2) = false) ∧
      tileLocked (vecTask.charge 4 0) 0 (elems.flatMap fun p => elemSegs (vecTask.charge 4 0) accLoad p.2) = false ∧
      fillsBefore (vecTask.charge 4 0) 0 (elems.flatMap fun p => elemSegs (vecTask.charge 4 0) accLoad p.2) = false) ∧
    ((gatherAll (vecTask.charge 4 0) 0 elems).2.2.1 = [] ∧ (gatherAll (vecTask.charge 4 0) 0 elems).2.2.2 = []) ∧
    (elems ≠ [] ∧ ∀ p ∈ elems, elemFault (vecTask.charge 4 0) accStore p.2 = none ∧
      heldPages (vecTask.charge 4 0) (vecTask.charge 4 0).iss.cid p.2 4 = [] ∧ fillPages (vecTask.charge 4 0).me p.2 4 = []) :=
  ⟨by decide +kernel, ⟨_, sat_of (by decide +kernel)⟩, l1Reads_of (by decide +kernel), ⟨_, in_of (by decide +kernel)⟩,
    ⟨_, _, writeMay_of (by decide +kernel)⟩, by decide +kernel, by decide +kernel, by decide +kernel, by decide +kernel⟩

/-- A port record of zeros at 128 KiB, and one with REL at 128 KiB + 64. -/
def portTask : State := laid vecTask 0x20040 64 (2 ^ 291)

/-- A record answers a port. -/
def portOk : Except Code Port → Bool
  | .ok _ => true
  | .error _ => false

theorem portOk_of {x : Except Code Port} (h : portOk x = true) : ∃ p, x = .ok p := by
  cases x with
  | ok p => exact ⟨p, rfl⟩
  | error => cases h

theorem witness_VectorMemory_ports :
    (∃ u x p, RecordReads (portTask.charge 2 0) 64 0x20000 64 0 u x ∧ fld x 291 291 = 0 ∧ portRecord (BitVec.ofNat 512 x) 0 = .ok p) ∧
    (∃ u x p, RecordReads (portTask.charge 2 0) 64 0x20040 64 0 u x ∧ fld x 291 291 = 1 ∧ portRecord (BitVec.ofNat 512 x) 0x20000 = .ok p) ∧
    ((vecTask.portNow false 0).conf = true ∧ (vecTask.portNow false 0).pos ≤ pTotal (vecTask.portNow false 0).rcd ∧
      (vecTask.portNow false 0).rcd.getLsbD 290 = false) ∧
    (let p : Port := { conf := true, rcd := 2 ^ 290 }; p.rcd.getLsbD 290 = true ∧ p.pos + 1 ≤ pTotal p.rcd) ∧
    (vecTask.portNow false 7).conf = false :=
  ⟨(portOk_of (by decide +kernel)).elim fun p h => ⟨_, _, p, recordReads_of (by decide +kernel), by decide +kernel, h⟩,
    (portOk_of (by decide +kernel)).elim fun p h => ⟨_, _, p, recordReads_of (by decide +kernel), by decide +kernel, h⟩,
    by decide +kernel, by decide +kernel, by decide +kernel⟩

/-- Misaligned addresses of a whole register, and of one element of many, the others reached. -/
theorem witness_VectorMemory_align :
    (let a := (0x20001 : VReg).setWidth 64 + 256 * (0 : BitVec 5).signExtend 64; a.toNat % 64 ≠ 0) ∧
    elemAddrs 1 0x20002 0 = [(0, 0x20002)] ∧ (elemBad vecTask accLoad 0x20002).isNone = true ∧ 0x20002 % 4 ≠ 0 :=
  ⟨by decide +kernel, by decide +kernel, by decide +kernel, by decide⟩

/-- Descriptors: td1 has two blocks and two lines at 128 KiB with k origin 32, td2 one block and one line at 128 KiB; seven engine
operations of core 0 in flight. -/
def matTask : State :=
  { (taskWith fun c => { c with td := [(1, 0x20000 * 2 ^ 192 + 128 * 2 ^ 160 + 32 * 2 ^ 144 + 1 * 2 ^ 5 + 1), (2, 0x20000 * 2 ^ 192)] }) with
    ops := (List.range 7).map fun i => { id := 100 + i, own := ⟨0, 1, 0, 1⟩, kind := .m { kind := .mzero, acc := 0 } } }

/-- The lines of an operand, as `mma` and `mst` look at them. -/
def linesOk (s : State) (l : List (Nat × Except (Code × Nat) (List Seg))) (len : Nat) : Bool :=
  (lineErrs l).isEmpty && l.all fun p => (fillPages s.me p.1 len).isEmpty

theorem lines_of {s : State} {l : List (Nat × Except (Code × Nat) (List Seg))} {len : Nat} (h : linesOk s l len = true) :
    LinesReady s l len := by
  simp only [linesOk, Bool.and_eq_true, List.all_eq_true, List.isEmpty_iff] at h
  exact h

/-- A descriptor of zeros at the image's data; scale bytes; both operands of a multiply, with the k origin at its limit; a row inside the
tile and one outside; stores and loads of rows. -/
theorem witness_MatrixWords :
    (∃ w, SatReady matTask [none, none, none] w) ∧ (∃ u bs, HomeReads ((matTask.charge 1 0).charge 0 1) accRec 0x20000 32 0 u bs ∧
      fld (leNat bs) 143 130 = 0 ∧ fld (leNat bs) 127 12 = 0 ∧ fld (leNat bs) 129 128 ≠ 3 ∧ fld (leNat bs) 159 144 % 32 = 0) ∧
    (imgAddr mo (matTask.modIss fun i => { i with bimm := 0x20000 })).toNat = 0x20000 ∧
    (∃ segs, resolve (matTask.charge 1 16) (matTask.who matTask.iss.cid) accRec false 0x20000 1024 = .ok segs) ∧
      fillPages matTask.me 0x20000 1024 = [] ∧ (mInFlight matTask (coreOf matTask.iss.cid)).length = 7 ∧ (∃ w, InReady matTask [none, none, none] w) ∧
    (let a := matTask.tdreg 1; let k := kOrigin matTask mo a;
      k = 32 ∧ k ≤ 65504 ∧ tdLines a = 2 ∧ tdLines a ≤ 64 ∧ tdBlks a = tdBlks a ∧ linesOk matTask (tileLines matTask a false k (bpb 9)) (tdBlks a * bpb 9) = true) ∧
    (7 * 16 + 15 + 0 * 0 ≤ 127 ∧ 127 < 7 * 16 + 15 + 1 * 1) ∧
    (let a := matTask.tdreg 2; tdKorg a / 32 + tdBlks a ≤ 2 ∧ linesOk matTask (tileLines matTask a true (tdKorg a) (bpb 9)) (tdBlks a * bpb 9) = true ∧
      linesOk matTask (tileLines matTask a false (tdKorg a) (bpb 8)) (tdBlks a * bpb 8) = true) :=
  ⟨⟨_, sat_of (by decide +kernel)⟩, ⟨_, _, homeReads_of (by decide +kernel), by decide +kernel⟩, by decide +kernel,
    ⟨_, eq_ok (by decide +kernel)⟩, by decide +kernel, by decide +kernel, ⟨_, in_of (by decide +kernel)⟩, by decide +kernel, by decide,
    by decide +kernel⟩

/-- Copy registers: a1 = 256 KiB, a2 = the local window, a3 = 512 bytes, a4 = 64 KiB, a5 = 16 MiB, a6 = the shape of two rows of one
sector, a7 = the part's own global space, a8 = 128 KiB, a9 = 192 KiB. -/
def copyTask : State :=
  let s := laid (laid (taskWith fun c =>
    { c with
      a0 := [(1, 0x40000), (2, BitVec.ofNat 64 localBase), (3, 512), (4, 0x10000), (5, 0x1000000), (6, 2 ^ 16), (7, 2 ^ 63), (8, 0x20000), (9, 0x30000)]
      ge := [(1, some ⟨5, 0⟩)] }) 0x20000 64 1) 0x30000 128 (1 + 64 * 2 ^ 512)
  s

/-- Copies between memory and the window at both ends of their length; a strided copy; a page written back. -/
theorem witness_CopyAndPageWords_copies : (∃ w, InReady copyTask [none, none, none] w) ∧ chanBusy copyTask 0 7 = false ∧
    (∀ p ∈ [(0x40000, localBase, 512), (localBase, 0x40000, 65536), (0x1000000, 0x2000000, 16777216), (0, 64, 0)],
      rangeKind copyTask 0 p.1 p.2.2 = none ∧ rangeKind copyTask 0 p.2.1 p.2.2 = none ∧ p.1 % 64 = 0 ∧ p.2.1 % 64 = 0 ∧ p.2.2 % 64 = 0 ∧
        p.2.2 ≤ 16777216 ∧ endsXlat copyTask 0 true p.1 p.2.2 = none ∧ endsXlat copyTask 0 false p.2.1 p.2.2 = none) ∧
    (let o := cpsOp copyTask { co with d := 2, a := 1, b := 6 } (BitVec.ofNat 64 localBase) 0x40000 65536;
      o.rows = 2 ∧ o.total * 64 ≤ 16777216 ∧ o.dsw = false ∧ o.ssw = false ∧
      (∀ i, i < o.rows → rangeKind copyTask 0 (o.sector (i * o.rlen)).1 (o.rlen * 64) = none ∧ rangeKind copyTask 0 (o.sector (i * o.rlen)).2 (o.rlen * 64) = none) ∧
      sectorXlat copyTask 0 true localBase = none ∧ sectorXlat copyTask 0 true (o.sector (o.total - 1)).1 = none ∧
      sectorXlat copyTask 0 false 0x40000 = none ∧ sectorXlat copyTask 0 false (o.sector (o.total - 1)).2 = none) ∧
    (7 < copyTask.me.pages.length ∧ rangeKind copyTask 0 (backing copyTask.me.lb + 65536 * 7) 65536 = none ∧
      endsXlat copyTask 0 true (backing copyTask.me.lb + 65536 * 7) 65536 = none) :=
  ⟨⟨_, in_of (by decide +kernel)⟩, by decide +kernel, by decide +kernel, by decide +kernel, by decide +kernel⟩

/-- A multicast list of the task itself; retain masks at both ends; a range of 64 bytes with three in flight; a group load. -/
theorem witness_CopyAndPageWords_rest :
    (∃ u x, RecordReads copyTask 64 0x20000 64 0 u x ∧ x ≠ 0 ∧ mcstViol u x = false ∧ chanBusy copyTask 0 7 = false) ∧
    (rangeKind copyTask 0 0x40000 65536 = none ∧ endsXlat copyTask 0 false 0x40000 65536 = none) ∧
    (255 < 2 ^ copyTask.me.pages.length ∧ 2 ^ copyTask.me.pages.length ≤ 256) ∧
    (rangeKind copyTask 0 0x40000 64 = none ∧ kindOf 0x40000 = 0 ∧ endsXlat copyTask 0 false 0x40000 64 = none ∧ l2Running copyTask < 4) ∧
    (joinOpen copyTask = false ∧ rangeKind copyTask 0 localBase 65536 = none ∧ kindOf localBase = 2 ∧ offDie copyTask 0x40000 65536 0 = none ∧
      tget none copyTask.me.ge (5#3 |>.extractLsb' 0 2).toNat = some ⟨5, 0⟩) :=
  ⟨⟨_, _, recordReads_of (by decide +kernel), by decide +kernel, by decide +kernel, by decide +kernel⟩, by decide +kernel, by decide +kernel,
    by decide +kernel, by decide +kernel⟩

/-- A notice record with this task as its consumer; a walk of one tile with this task as its target; timeouts at their ends. -/
theorem witness_NoticeWords_pub : (∃ w, InReady copyTask [none, none, none] w) ∧
    (∃ u r, RecordReads copyTask 128 0x30000 128 0 u r ∧ noticeSize r % 64 = 0 ∧ badNotice r 63 = false ∧
      rangeKind u 0 0x40000 (noticeSize r) = none ∧ endsXlat u 0 false 0x40000 (noticeSize r) = none ∧ noticeViol u r = false ∧ slotTaken u 63 = false) ∧
    (1 ≤ 1000000 ∧ ¬ 1000000 < 1000000 ∧ 1000000 < 1000001 ∧ 1000001 < 2 ^ 20) :=
  ⟨⟨_, in_of (by decide +kernel)⟩, ⟨_, _, recordReads_of (by decide +kernel), by decide +kernel⟩, by decide⟩

/-- A descriptor at 256 KiB: rows of one sector of 64 KiB to page 0 of context 0. -/
def walkTask : State := laid copyTask 0x40000 128 (0x10000 + localBase * 2 ^ 64 + 32 * 2 ^ 448)

theorem witness_NoticeWords_walk : (∃ w, InReady walkTask [none, none, none] w) ∧
    ∃ u x, RecordReads (walkTask.charge 4 0) 128 0x40000 128 0 u x ∧ walkSkew x = none ∧ badWalk x = false ∧ walkTgts 0 x = [(0, 0)] ∧
      (∀ p ∈ walkTgts 0 x, (u.ctx p.2).st ≠ .free ∧ (u.ctx p.2).st ≠ .frozen ∧ (u.ctx p.2).ifc = walkTask.me.ifc ∧ walkRange u x p.2 = none) ∧
      kindOf (fld x 63 0) = 0 ∧ sectorXlat u walkTask.iss.cid (fld x 440 440 == 1) (fld x 63 0) = none ∧
      (u.iss.effs.filter fun e => match e with | .walk .. => true | _ => false).length < (freeEngines u 0).length :=
  ⟨⟨_, in_of (by decide +kernel)⟩, _, _, recordReads_of (by decide +kernel), by decide +kernel⟩

/-- Retain masks and mailboxes at their limits. -/
theorem witness_ReceiverItems : (let s := taskWith fun c => { c with lb := { c.lb with spp := 8 }, a0 := [(1, 255), (2, 256), (3, BitVec.ofNat 64 (localBase + 8 * 65536 - 2048)), (4, 0xFFFFF)] };
    (s.me.areg false 1).toNat % 2 ^ 32 < 2 ^ s.me.lb.spp ∧ 2 ^ s.me.lb.spp ≤ (s.me.areg false 2).toNat % 2 ^ 32 ∧ s.me.areg false 0 = 0 ∧
    (let v := s.me.areg false 3; v.toNat % 2048 = 0 ∧ rangeKind s s.iss.cid v.toNat 2048 = none ∧ kindOf v.toNat = 2) ∧
    (s.me.areg false 4).toNat < 2 ^ 20 ∧ (s.me.areg false 1).toNat < 2 ^ 16 ∧ (s.me.areg false 1).toNat < 2 ^ 8) := by decide +kernel

/-- A store into the part's own global space; a multicast record; tickets; a reduction descriptor; a contribution of one element and of
the greatest count. -/
def fabTask : State := laid (laid copyTask 0x50000 64 (2 ^ 256 + 2 ^ 5)) 0x60000 64 (1 + 2 ^ 256 + 15 * 2 ^ 288)

theorem witness_FabricWords : (∃ w, InReady fabTask [none, none, none] w) ∧
    (rangeKind fabTask 0 0x40000 65536 = none ∧ endsXlat fabTask 0 false 0x40000 65536 = none) ∧
    (∃ segs, resolve fabTask (fabTask.who fabTask.iss.cid) { wr := true, loc := false, dev := false, glob := true } false (2 ^ 63) 64 = .ok segs) ∧
    (∃ u x, RecordReads fabTask 64 0x50000 64 0 u x ∧ fld x 511 331 = 0 ∧ fld x 279 272 = 0 ∧ fld x 271 256 ≠ 0 ∧ fld x 255 0 ≠ 0) ∧
    (let v := 4095 + 31 * 2 ^ 16 + 1000 * 2 ^ 32; fld v 15 12 = 0 ∧ fld v 31 21 = 0 ∧ fld v 63 48 = 0 ∧ fld v 47 32 ≤ 1000) ∧
    (let v := 4095 + 31 * 2 ^ 16 + 4095 * 2 ^ 32; fld v 15 12 = 0 ∧ fld v 31 21 = 0 ∧ fld v 62 44 = 0 ∧ fld v 63 63 = 0 ∧ fld (v + 2 ^ 63) 63 63 = 1) ∧
    (∃ u x, RecordReads (fabTask.charge 8 0) 64 0x60000 64 0 u x ∧ badReduction u x = false) ∧
    (∀ h ∈ [0, 2 ^ 46 - 2 ^ 32], let n := 4 * (fld h 45 32 + 1);
      fld h 63 63 = 0 ∧ rangeKind fabTask 0 0x40000 n = none ∧ endsXlat fabTask 0 false 0x40000 n = none ∧
        isOk (resolve fabTask (fabTask.who fabTask.iss.cid) { wr := true } false 0x20000 (n + 64)) = true) :=
  ⟨⟨_, in_of (by decide +kernel)⟩, by decide +kernel, ⟨_, eq_ok (by decide +kernel)⟩, ⟨_, _, recordReads_of (by decide +kernel), by decide +kernel⟩,
    by decide, by decide, ⟨_, _, recordReads_of (by decide +kernel), by decide +kernel⟩, by decide +kernel⟩

/-- Windows that hold ranges whose address or length is no multiple of 64, for every kind of copy. -/
theorem witness_CopyAndPageWords_align :
    (∀ p ∈ [(0x40001, localBase, 512), (localBase, 0x40001, 512), (0x40000, localBase, 511)],
      rangeKind copyTask 0 p.1 p.2.2 = none ∧ rangeKind copyTask 0 p.2.1 p.2.2 = none ∧ (p.1 % 64 ≠ 0 ∨ p.2.1 % 64 ≠ 0 ∨ p.2.2 % 64 ≠ 0)) ∧
    (∀ d ∈ [(0x40001, 0x50000), (0x40000, 0x50001)], let o := cpsOp copyTask { co with d := 2, a := 1, b := 6 } (BitVec.ofNat 64 d.1) (BitVec.ofNat 64 d.2) 65536;
      o.total * 64 ≤ 16777216 ∧ o.dsw = false ∧ o.ssw = false ∧ ∀ i, i < o.rows →
        rangeKind copyTask 0 (o.sector (i * o.rlen)).1 (o.rlen * 64) = none ∧ rangeKind copyTask 0 (o.sector (i * o.rlen)).2 (o.rlen * 64) = none) ∧
    joinOpen copyTask = false ∧ (rangeKind copyTask 0 0x40000 63 = none ∧ kindOf 0x40000 = 0) := by decide +kernel

/-- A part at a stage of its start-up. -/
def plat (f : Platform → Platform) : State := State.reset.modPlat f

/-- Firmware starting; a rolled-back image; clusters up to the last; the ramp to the last eighth; a device time to take. -/
theorem witness_StartUp : State.reset.plat.boot = 0 ∧
    (let s := plat fun p => { p with boot := 1, clusters := 254 };
      s.plat.boot = 1 ∧ s.plat.clusters < 255 ∧ s.plat.bootAt + 16000 * s.plat.clusters ≤ ({ s with now := 16000 * 254 } : State).now) ∧
    (let s := { (plat fun p => { p with boot := 1, clusters := 255 }) with now := 16000 * 255 }; s.plat.bootAt + 16000 * 255 ≤ s.now) ∧
    (let s := { (plat fun p => { p with arrays := true, eighths := 7 }) with now := 2048000 + 256000 * 6 };
      s.plat.arrays = true ∧ s.plat.eighths < 8 ∧ s.plat.arraysAt + 2048000 + 256000 * (s.plat.eighths - 1) ≤ s.now) ∧
    (let s := { (plat fun p => { p with boot := 1, eighths := 8 }) with arg := { a := 2 ^ 60 - 1 } };
      s.plat.boot = 1 ∧ 8 ≤ s.plat.eighths ∧ s.tick ≤ s.arg.a % 2 ^ 60) ∧
    (∀ i, ((plat fun p => { p with boot := 1, eighths := 8 }).ifc i).heldEntry = none) :=
  ⟨rfl, by decide +kernel, by decide +kernel, by decide +kernel, by decide +kernel, fun _ => rfl⟩

/-- A part that accepts starts, with interface 63 named. -/
theorem witness_RegisterPages : (let s := { (plat fun p => { p with boot := 3 }) with arg := { a := 63, b := 0x010 } };
      s.arg.a < 64 ∧ s.plat.boot = 3 ∧ s.arg.flag = false ∧ (s.ifc 63).run = false ∧ (s.ifc 63).frozen = false ∧ s.arg.b = 0x010) ∧
    (let s := { ((plat fun p => { p with boot := 3 }).modIfc 63 fun i => { i with run := true }) with arg := { a := 63, b := 0x010 } };
      (s.ifc 63).run = true ∧ s.plat.boot = 3) := by decide +kernel

theorem witness_AttestationAndRecords : (plat fun p => { p with boot := 1 }).plat.boot = 1 ∧
    (let s := plat fun p => { p with boot := 3, spdm := { st := 3, session := true } }; s.plat.boot = 3 ∧ 3 ≤ s.plat.spdm.st ∧ s.plat.spdm.session = true) ∧
    (let s := { State.reset with now := 240000000000, arg := { a := 3, list := [65536] } };
      s.plat.dillTick + 240000000000 ≤ s.tick ∧ s.plat.tempAt + 4000000000 ≤ s.now ∧ s.arg.list = [65536] ∧ s.arg.a < 4) := by decide +kernel

/-- The last core, idle and unowned, to the last interface; the last Thyme slot; the last group; a tag nobody holds. -/
theorem witness_Management :
    (let s := { (plat fun p => { p with boot := 3 }) with arg := { a := 1023, b := 64 } };
      s.arg.a < 1024 ∧ 0 < s.arg.b ∧ s.arg.b ≤ 64 ∧ (s.core 1023).moving = none ∧ (s.core 1023).own ≠ some 63 ∧ (s.core 1023).queue = [] ∧
        (s.core 1023).reserved = [] ∧ ∀ n, n < 8 → (s.ctx (1023 * 8 + n)).st = .free) ∧
    (255 < 256 ∧ 6 < 7 ∧ 1023 < 1024 ∧ 63 < 64) ∧
    (let s := { (plat fun p => { p with boot := 1 }) with arg := { a := 63, c := 65536, d := 1 } };
      s.arg.c ≤ 65536 ∧ s.arg.c ≠ 0 ∧ tagHolder s (65536 - 1) = none) ∧
    (let s := { (plat fun p => { p with boot := 1 }) with arg := { a := 63, b := 2 ^ 32 - 1, c := 2 ^ 40 - 1 } };
      s.arg.b < 2 ^ 32 ∧ s.arg.c < 2 ^ 40) := by decide +kernel

/-- A task about to issue a bundle of one `add`. -/
def issueTask : State := { State.reset.withFetchWord 128 (0x00100041 + 0x01700C1080000000 * 2 ^ 64) with agenda := [], arg := { a := 0 } }

/-- The bundle at the pc of context `a`, fetched and checked after its results have landed. -/
def issueGood (s : State) : Bool :=
  let a := s.arg.a
  let u := (landDue s a false).modCtx a fun c => if c.group.isEmpty then { c with sg := c.s } else c
  let c := u.ctx a
  match fetchBundle u a c.pc.toNat with
  | .ok (h, l) => (checkBundle u a h c.rep ((issued c c.rep l).map fun p => (p.1, p.2.1))).isEmpty &&
      l.length == 1
  | .error _ => false

theorem witness_BundleIssues : canIssue issueTask issueTask.arg.a = true ∧ issueGood issueTask = true ∧
    (let u := (landDue issueTask 0 false).modCtx 0 fun c => if c.group.isEmpty then { c with sg := c.s } else c;
      lateDue u 0 = none ∧ (u.ctx 0).wakeFault = none ∧ (u.ctx 0).group.length < 16) := by decide +kernel

/-- A bundle of a task with one result to land, at its last repetition and before it, with its budget just enough. -/
def commitTask (rep : Nat) (stop : Bool) : State :=
  let l : Landing := { dst := .s 3, due := 1, val := 5, mask := BitVec.ofNat 2048 (2 ^ 64 - 1) }
  (taskWith fun c => { c with bi := 1, bm := 0, rep := rep }).modIss fun i => { i with effs := [.land l], repN := 15, rep := rep, stop := stop, ci := 1 }

theorem witness_BundleCommits : ∀ s ∈ [commitTask 0 false, commitTask 15 false, commitTask 15 true],
    s.iss.on = true ∧ s.iss.cid = s.arg.a ∧ s.arg.a < 8192 ∧ s.iss.hdr = none ∧ s.iss.stall = false ∧ s.iss.flts = [] ∧ s.iss.viol = none ∧
      s.iss.effs = [{ dst := .s 3, due := 1, val := 5, mask := BitVec.ofNat 2048 (2 ^ 64 - 1) }].map .land ∧ s.iss.yield = false ∧
      (s.ctx 0).resume = none ∧ max 1 s.iss.ci ≤ (s.ctx 0).bi ∧ s.iss.cm ≤ (s.ctx 0).bm ∧ (∀ l ∈ (s.ctx 0).landing, l.stop = false) := by
  decide +kernel

/-- A bundle of a task that holds one effect, and of a command stream. -/
def commitE (f : Ctx → Ctx) (e : Eff) : State :=
  (taskWith fun c => f { c with bi := 1, bm := 0, rep := 15 }).modIss fun i => { i with effs := [e], repN := 15, rep := 15, stop := true, ci := 1 }

def commitItem (n : Nat) : State :=
  { (streamWith id).modIss fun i => { i with effs := [.item n 7 77], ci := 1 } with arg := { a := 8192 } }

def commitOk (s : State) (e : Eff) : Bool :=
  let c := s.ctx s.iss.cid
  s.iss.on && s.iss.cid == s.arg.a && s.iss.hdr.isNone && !s.iss.stall && s.iss.flts.isEmpty && s.iss.viol.isNone && decide (s.iss.effs = [e]) &&
    !s.iss.yield && (c.queued.isEmpty || c.resume.isSome) && fitsBudget c (isStream s.iss.cid) (max 1 s.iss.ci) s.iss.cm && c.landing.all (!·.stop)

/-- Every kind of effect, with what its clause asks for; a fault due in place of the bundle. -/
theorem witness_BundleCommits_effects :
    (∀ e ∈ [Eff.jump 0x8008, .wset 31 5, .cont 9, .w1c 2 127, .bari 31 4095, .barl 31 5, .rearm 31, .tkill 77, .swtrap 77], commitOk (commitE id e) e = true) ∧
    (let s := commitE (fun c => { c with st := .inHandler, hb := 5, resume := some { pc := 0x9000, rep := 3, sticky := [], landing := [] } }) .tret;
      commitOk s .tret = true ∧ (s.ctx 0).landing = [] ∧ scalesOpen s { cid := 0, uid := 1 } = false ∧ (s.ctx 0).resume.isSome = true) ∧
    (let s := commitE id (.tkill 77); (s.ctx 0).resumedByPolicy = false ∧ (s.ctx 0).queued = [] ∧ (s.ctx 0).chain.length < 8 ∧ (s.ctx 0).lb.handler ≠ 0) ∧
    (∀ n ∈ [0, 1, 2, 3, 4, 5, 6, 14], commitOk (commitItem n) (.item n 7 77) = true) ∧
    (let s := commitE (fun c => { c with queued := [{ cls := 3, code := 0x1B }] }) (.wset 1 5); (s.ctx 0).queued ≠ [] ∧ (s.ctx 0).st = .running) := by
  decide +kernel

/-- A task whose one result in flight is due, for each kind of destination. -/
def landTask (d : Dst) : State :=
  { (taskWith fun c => { c with landing := [{ dst := d, due := 0, val := 5, mask := BitVec.ofNat 2048 (2 ^ 64 - 1) }] }) with iss := {} }

theorem witness_ResultsLand : ∀ s ∈ [landTask (.s 63), landTask (.k 7), landTask (.v false 1535), landTask (.a true 31)],
    canIssue s s.arg.a = true ∧ s.ops = [] ∧ (s.ctx 0).landing.length = 1 ∧
      ∀ l ∈ (s.ctx 0).landing, l.late = none ∧ l.stop = false ∧ l.due ≤ (s.ctx 0).n ∧ l.mask.setWidth 64 = BitVec.allOnes 64 := by decide +kernel

/-- A yield with and without a wait; a bundle past its hang limit; a register at its deadline; a refresh that is due. -/
theorem witness_YieldsAndSlowSteps : (∀ w ∈ [Wait.none, .barrier 31], let s := { (taskWith fun c => { c with yield := some w }) with iss := {} };
      (s.ctx s.arg.a).yield = some w ∧ (s.ctx s.arg.a).st = .running ∧ stillDraining s s.arg.a = false ∧ (s.ctx 0).returning = false ∧
        stillDraining { s with ops := [{ id := 5, own := ⟨0, 1, 0, 1⟩, kind := .m { kind := .mzero, acc := 0 } }] } 0 = true) ∧
    (let s := taskWith fun c => { c with st := .inHandler, returning := true, resume := some { pc := 0, rep := 0, sticky := [], landing := [] } };
      (s.ctx 0).returning = true ∧ (s.ctx 0).st = .inHandler ∧ stillLanding s 0 = false ∧
      stillLanding (s.modCtx 0 fun c => { c with landing := [{ dst := .s 1, due := 0, val := 1, mask := 1, late := some 9 }] }) 0 = true) ∧
    (let s := taskWith fun c => { c with stallT := 2330169 }; s.arg.a < 8192 ∧ (s.ctx 0).st = .running ∧ 2330168 < (s.ctx 0).stallT) ∧
    (let s := { (taskWith fun c => { c with v0 := { c.v0 with eph := [(1535, 0)] } }) with arg := { b := 1535 } };
      ((s.ctx 0).vf s.arg.flag).eph = [(s.arg.b, 0)] ∧ 0 ≤ s.cycle) ∧
    (let s := { atTask with now := 20 }; (s.core 0).refreshAt0 < s.cycle ∧ s.arg.flag = false) := by decide +kernel

/-- A queued engine fault of a task outside a handler. -/
theorem witness_AsyncFaultsTrap : (let s := { (taskWith fun c => { c with queued := [{ cls := 4, code := 0x13 }, { cls := 3, code := 0x1B }] }) with iss := {} };
    (let u := s.modCtx 0 fun c => { c with yield := some .none }; u.iss.on = false ∧ (u.ctx 0).yield ≠ none) ∧
    (let u := { s with iss := { on := true, cid := 0 } }; u.iss.cid = u.arg.a ∧ u.iss.hdr = none ∧ u.iss.flts = []) ∧
    s.arg.a < 8192 ∧ s.iss.on = false ∧ (s.ctx 0).queued = [{ cls := 4, code := 0x13 }, { cls := 3, code := 0x1B }] ∧ (s.ctx 0).st = .running ∧
      (s.ctx 0).resume = none ∧ (s.ctx 0).lb.handler ≠ 0) := by decide +kernel

/-- A queue entry of interface 0 whose image header stands at 64 KiB, with an eighth of a core. -/
def entry0 : QEntry :=
  { id := 7, lb := { wholeLb with image := 0x10000, arg := 9, vp0 := 1, vp1 := 1, acc := 1, td := 1, spp := 1, prio := 5, save := 0x40000 }, ifc := 0,
    tseq := 2, evict := false, pend := false, rtick := 0, prio := 5, age := 0, bi := 100, bm := 100 }

/-- Core 0 of interface 0 with that entry in its queue and nothing else. -/
def queueTask (q : QEntry) : State :=
  let hdr := 0x54425A4E + 1 * 2 ^ 32 + 64 * 2 ^ 48 + 0x01020304050607080901 * 2 ^ 64
  laid ((mapFirst State.reset).modCore 0 fun k => { k with own := some 0, queue := [q] }) 0x10000 64 hdr

/-- An entry on its way; one held outside; one whose start witness is satisfied; one that is the only ready context of its core. -/
theorem witness_QueuesAndAdmission_queues :
    (let s := { (queueTask entry0) with ops := [{ id := 5, own := ⟨8192, 0, 0, 0⟩, kind := .enqueue entry0 0 }], arg := { a := 5 } };
      (s.op? s.arg.a).map (·.kind) = some (.enqueue entry0 0) ∧ placeable s entry0.ifc 0 = true) ∧
    (let s := { (queueTask entry0) with heldQ := [entry0], arg := { a := 7 } };
      s.heldQ = [entry0] ∧ entry0.id = s.arg.a ∧ entry0.st = 0 ∧ entry0.evict = false ∧
        bestCore { s with heldQ := [] } (openCores { s with heldQ := [] } 0 (placement entry0.lb)) = some 0) ∧
    (let q := { entry0 with pend := true }; let s := { (queueTask q) with arg := { a := 0, b := 7 } };
      (s.core s.arg.a).queue = [q] ∧ q.id = s.arg.b ∧ q.pend = true ∧ sat s q.lb.wstart = true) ∧
    (let s := (atTask.modCore 0 fun k => { k with run := none }).modCtx 7 fun _ => { atTask.ctx 0 with st := .ready };
      let s := s.modCtx 0 fun c => { c with st := .waiting };
      (s.core 0).run = none ∧ ∀ m, m < 8 → ((s.ctx (0 * 8 + m)).st = .ready ↔ m = 7)) := by decide +kernel

/-- Its admission. -/
theorem witness_QueuesAndAdmission_admission : (let s := queueTask entry0;
    s.arg.a < 1024 ∧ (s.core 0).queue = [entry0] ∧ (s.core 0).reserved = [] ∧ (s.core 0).own = some entry0.ifc ∧ (s.core 0).moving = none ∧
      entry0.pend = false ∧ entry0.evict = false ∧ entry0.prio < 6 ∧ (∀ n, n < 8 → (s.ctx (0 * 8 + n)).st = .free) ∧ capable (s.core 0) entry0.lb = true ∧
      poolsHold s 0 entry0.lb = true ∧ entry0.lb.ge = [none, none, none, none] ∧
      (match loadVa (unqueue s 0 7) 0 0x10000 64 with
        | .ok bs => (imageHeader (leNat bs)).isSome
        | .error _ => false) = true) := by decide +kernel

/-- A context ready for 8,192 commits at the last level that rises; waits that hold; a top-up. -/
theorem witness_WaitsBudgetsEvictions_waits :
    (let s := (atTask.modCore 0 fun k => { k with committed := 8192 }).modCtx 0 fun c => { c with st := .ready, epri := 5 };
      (s.core 0).queue = [] ∧ (s.core 0).reserved = [] ∧ (s.ctx 0).st = .ready ∧ (s.ctx 0).epri < 6 ∧ (s.ctx 0).age + 8192 ≤ (s.core 0).committed) ∧
    (let s := taskWith fun c => { c with st := .waiting, wait := .witness 31 }; (s.ctx 0).queued = [] ∧ (tget {} (s.ctx 0).w 31).pend = none ∧
      wPsn (tget {} (s.ctx 0).w 31).val = false ∧ sat s (tget {} (s.ctx 0).w 31).val = true) ∧
    (let s := taskWith fun c => { c with st := .waiting, wait := .barrier 31, b := [(31, { done := true })] }; (tget {} (s.ctx 0).b 31).done = true) ∧
    (let s := taskWith fun c => { c with st := .waiting, wait := .budget, topped := true }; (s.ctx 0).wait = .budget ∧ (s.ctx 0).topped = true) ∧
    (let s := taskWith fun c => { c with st := .waiting, wait := .queue [] }; (s.ctx 0).queued = [] ∧ (s.ctx 0).wait = .queue []) ∧
    (let s := { (taskWith fun c => { c with st := .waiting }) with ops := [{ id := 5, own := ⟨8192, 0, 0, 0⟩, kind := .topup 0 1 (2 ^ 32 - 1) 1 }], arg := { a := 5 } };
      (s.op? s.arg.a).map (·.kind) = some (.topup 0 1 (2 ^ 32 - 1) 1) ∧ (s.ctx 0).ifc = 0 ∧ (s.ctx 0).tseq = 1 ∧ (s.ctx 0).st = .waiting) := by
  decide +kernel

theorem length_leBytes (n x : Nat) : (leBytes n x).length = n := by
  induction n generalizing x with
  | zero => rfl
  | succ n ih => simp [leBytes, ih]

theorem length_flatMap {α : Type} {f : α → List Byte} {n : Nat} (h : ∀ a, (f a).length = n) (l : List α) :
    (l.flatMap f).length = n * l.length := by
  induction l with
  | nil => rfl
  | cons a l ih => rw [List.flatMap_cons, List.length_append, h, ih, List.length_cons, Nat.mul_add]; omega

theorem length_wordBytes (l : List Word) : (wordBytes l).length = 8 * l.length := length_flatMap (fun _ => length_leBytes _ _) l

theorem length_padTo (n : Nat) (l : List Byte) : (padTo n l).length = n := by
  simp only [padTo, List.length_take, List.length_append, List.length_replicate]; omega

theorem length_barriers (f : Nat → List Word) (h : ∀ i, (f i).length = 2) (l : List Nat) : (l.flatMap f).length = 2 * l.length := by
  induction l with
  | nil => rfl
  | cons a l ih => rw [List.flatMap_cons, List.length_append, h, ih, List.length_cons, Nat.mul_add]; omega

theorem length_recordBase (s : State) (cid : Nat) : (recordBase s cid).length = 4096 := by
  have hp : ∀ p : Port, (portBytes p).length = 80 := fun p => by
    simp only [portBytes, List.length_append, length_leBytes]
  have hg : ∀ v : VFile, (gensOf v).length = 64 := fun v => by simp only [gensOf, List.length_map, List.length_range]
  have hb : ((List.range 32).flatMap fun i => let b := tget {} (s.ctx cid).b i; [b.control, b.w]).length = 64 :=
    length_barriers _ (fun _ => rfl) _
  simp only [recordBase, List.length_append, length_wordBytes, List.length_map, List.length_range, List.length_replicate, hg, hb, length_flatMap (fun _ => length_leBytes 2 _), length_flatMap (fun _ => hp _), controlWords,
    List.length_cons, List.length_nil]

theorem length_recordExt (s : State) (cid : Nat) : (recordExt s cid).length = 262144 := by
  simp only [recordExt, List.length_append, valueBytes, vBytes, queueBytes, markBytes, length_padTo, length_leBytes, List.length_replicate,
    List.length_range, length_flatMap (fun _ => length_padTo _ _), length_flatMap (fun _ => length_leBytes 32 _)]

/-- A save of a context whose interface's core holds a writable translation of the first gigabyte: no sector is bad, no line fresh, no
snapshot marks a page, and no view write is open. -/
structure Saves (s : State) (ifc : Nat) : Prop where
  hit : ∃ x : Xlat, x.pte[59] = false ∧ ∀ a, a < 2 ^ 30 → tlbHit (s.core (1024 + ifc / 4)).tlb ifc a = some x
  ue : s.ue = []
  poison : s.poison = []
  l1 : (s.cores.all fun p => p.2.l1.isEmpty) = true
  marks : (s.ifcs.all fun p => p.2.snap.marks.isEmpty) = true
  views : s.views = []

/-- What a save leaves as it was. -/
structure Same (s t : State) : Prop where
  ctxs : t.ctxs = s.ctxs
  cores : t.cores = s.cores
  ifcs : t.ifcs = s.ifcs
  views : t.views = s.views
  ue : t.ue = s.ue
  poison : t.poison = s.poison

theorem Same.trans {s t u : State} (h : Same s t) (k : Same t u) : Same s u :=
  ⟨k.1.trans h.1, k.2.trans h.2, k.3.trans h.3, k.4.trans h.4, k.5.trans h.5, k.6.trans h.6⟩

theorem Saves.same {s t : State} {ifc : Nat} (h : Saves s ifc) (k : Same s t) : Saves t ifc :=
  ⟨by simpa [State.core, k.cores] using h.hit, k.ue.trans h.ue, k.poison.trans h.poison, by rw [k.cores]; exact h.l1,
    by rw [k.ifcs]; exact h.marks, k.views.trans h.views⟩

theorem devSegs_ok {s : State} {ifc : Nat} (h : Saves s ifc) (fuel a n : Nat) (b : a + n ≤ 2 ^ 30) :
    ∃ l, devSegs s (ifcWho ifc) { wr := true, loc := false } fuel a n = .ok l ∧ ∀ g ∈ l, ∃ p, g.loc = .dev p := by
  obtain ⟨x, hx, hit⟩ := h.hit
  induction fuel generalizing a n with
  | zero => exact ⟨[], rfl, by simp⟩
  | succ k ih =>
    by_cases e : n = 0
    · exact ⟨[], by simp [devSegs, e], by simp⟩
    · obtain ⟨l, hl, hd⟩ := ih (a + min n (65536 - a % 65536)) (n - min n (65536 - a % 65536)) (by omega)
      refine ⟨⟨.dev (x.pa a), min n (65536 - a % 65536)⟩ :: l, ?_, ?_⟩
      · have c : pteOf s (ifcWho ifc) a = .ok x := by simp [pteOf, cachedXlat, coreHit, ifcWho, hit a (by omega)]
        simp [devSegs, e, c, hx, hl]
      · intro g hg
        rcases List.mem_cons.mp hg with rfl | hg
        · exact ⟨_, rfl⟩
        · exact hd g hg

theorem badSeg_none {s : State} (hu : s.ue = []) (hp : s.poison = []) (off : Nat) (l : List Seg) (h : ∀ g ∈ l, ∃ p, g.loc = .dev p) :
    badSeg s off l = none := by
  induction l generalizing off with
  | nil => rfl
  | cons g l ih =>
    obtain ⟨p, e⟩ := h g (by simp)
    have hn : ∀ q : List Nat, q.findSome? (fun q => if ([] : List Nat).contains q then some (Code.memue, off + (q * 64 - p))
        else if ([] : List Nat).contains q then some (Code.poison, off + (q * 64 - p)) else none) = none := by simp
    simp only [badSeg, e, hu, hp, hn]
    exact ih _ fun g hg => h g (by simp [hg])

theorem l2Access_same (s : State) (a n : Nat) (wr : Bool) : Same s (l2Access s a n wr) := by
  unfold l2Access
  generalize lineRuns (n / 256 + 2) a n = l
  induction l generalizing s with
  | nil => exact ⟨rfl, rfl, rfl, rfl, rfl, rfl⟩
  | cons r l ih =>
    have k := ih { s with l2 := l2Touch s.l2 (r.1 / 256) (secMask r.1 r.2) (if wr then secMask r.1 r.2 else 0) }
    exact ⟨k.1, k.2, k.3, k.4, k.5, k.6⟩

theorem patchFills_none {s : State} (h : (s.cores.all fun p => p.2.l1.isEmpty) = true) (a : Nat) (bs : List Byte) : patchFills s a bs = s := by
  unfold patchFills
  refine if_neg fun c => ?_
  obtain ⟨p, hp, hx⟩ := List.any_eq_true.mp c
  have := List.isEmpty_iff.mp (List.all_eq_true.mp h p hp)
  simp [this] at hx

theorem writeLoc_same {s : State} {ifc : Nat} (h : Saves s ifc) (p : Nat) (bs : List Byte) : Same s (writeLoc s (.dev p) bs) := by
  have k := l2Access_same s p bs.length true
  have e := patchFills_none (h.same k).l1 p bs
  have m : marksAfter (l2Access s p bs.length true).ue (l2Access s p bs.length true).poison p bs.length = ([], []) := by
    rw [k.ue, k.poison, h.ue, h.poison]; simp [marksAfter, clearMarks]
  simp only [writeLoc, e, m]
  exact ⟨k.ctxs, k.cores, k.ifcs, k.views, h.ue.symm, h.poison.symm⟩

theorem writeSegs_same {s : State} {ifc : Nat} (h : Saves s ifc) (l : List Seg) (bs : List Byte) (hl : ∀ g ∈ l, ∃ p, g.loc = .dev p) :
    Same s (writeSegs s l bs) := by
  induction l generalizing s bs with
  | nil => exact ⟨rfl, rfl, rfl, rfl, rfl, rfl⟩
  | cons g l ih =>
    obtain ⟨p, e⟩ := hl g (by simp)
    have k := writeLoc_same h p (bs.take g.len)
    have w : writePiece s none ⟨.dev p, bs.take g.len⟩ = writeLoc s (.dev p) (bs.take g.len) :=
      if_pos (by rw [List.isEmpty_iff]; exact (h.same k).views)
    have r : writeSegs s (g :: l) bs = writeSegs (writeLoc s (.dev p) (bs.take g.len)) l (bs.drop g.len) := by
      simp only [writeSegs, piecesOf, List.foldl_cons, e, w]
    rw [r]
    exact k.trans (ih (h.same k) (bs.drop g.len) fun g hg => hl g (by simp [hg]))

theorem admitSegs_none {s : State} {ifc : Nat} (h : Saves s ifc) (l : List Seg) : admitSegs s l = s := by
  have m : ∀ pa, marksAt s pa = [] := fun pa => by
    unfold marksAt
    rw [List.flatMap_eq_nil_iff]
    intro p hp
    have := List.isEmpty_iff.mp (List.all_eq_true.mp h.marks p hp)
    simp [this]
  unfold admitSegs
  refine if_neg fun c => ?_
  obtain ⟨g, -, hx⟩ := List.any_eq_true.mp c
  unfold marked at hx
  split at hx <;> simp [m] at hx

theorem saveVa_ok {s : State} {ifc a : Nat} {bs : List Byte} (h : Saves s ifc) (b : a + bs.length ≤ 2 ^ 30) :
    ∃ t, saveVa s ifc a bs = .ok t ∧ Same s t := by
  obtain ⟨l, hl, hd⟩ := devSegs_ok h (bs.length / 65536 + 2) a bs.length b
  have hr : ∃ l, resolve s (ifcWho ifc) { wr := true, loc := false } false a bs.length = .ok l ∧ ∀ g ∈ l, ∃ p, g.loc = .dev p := by
    by_cases e : bs.length = 0
    · exact ⟨[], by simp [resolve, e], by simp⟩
    · refine ⟨l, ?_, hd⟩
      have k0 : kindOf a = 0 := if_pos (by omega)
      have k1 : kindOf (a + (bs.length - 1)) = 0 := if_pos (by omega)
      have k2 : ¬ 2 ^ 64 ≤ a + (bs.length - 1) := by omega
      simp only [resolve, e, k0, k1, k2, if_false, hl, ne_eq, not_true_eq_false, if_true]
  obtain ⟨l, hl, hd⟩ := hr
  exact ⟨writeSegs s l bs, by simp only [saveVa, hl, badSeg_none h.ue h.poison 0 l hd, admitSegs_none h l], writeSegs_same h l bs hd⟩

theorem saveVa_len {s : State} {ifc a n : Nat} {bs : List Byte} (h : Saves s ifc) (e : bs.length = n) (b : a + n ≤ 2 ^ 30) :
    ∃ t, saveVa s ifc a bs = .ok t ∧ Same s t := saveVa_ok h (by rw [e]; exact b)

theorem thenOk_ok {E A B : Type} {x : Except E A} {a : A} (h : x = .ok a) (f : A → Except E B) : thenOk x f = f a := by rw [h]; rfl

theorem saveCtx_of {s t1 t2 t3 : State} {cid : Nat} (hp : (s.ctx cid).pages = [])
    (e1 : saveVa s (s.ctx cid).ifc (s.ctx cid).lb.save.toNat (recordBase s cid) = .ok t1)
    (e2 : saveVa t1 (s.ctx cid).ifc ((s.ctx cid).lb.save.toNat + 4096) (recordBulk s cid) = .ok t2)
    (e3 : saveVa t2 (s.ctx cid).ifc (extBase (s.ctx cid).lb) (recordExt s cid) = .ok t3) : saveCtx s cid = .ok t3 := by
  unfold saveCtx
  extract_lets c b
  revert e1 e2 e3
  generalize recordBase s cid = x1, recordBulk s cid = x2, recordExt s cid = x3
  intro e1 e2 e3
  rw [thenOk_ok e1, thenOk_ok e2, thenOk_ok e3]
  have w : writeBack t3 cid (s.ctx cid).pages.zipIdx = .ok t3 := by rw [hp]; rfl
  exact w

theorem saveCtx_ok {s : State} {cid n : Nat} (h : Saves s (s.ctx cid).ifc) (hp : (s.ctx cid).pages = [])
    (h0 : (s.ctx cid).lb.save.toNat + 4096 ≤ 2 ^ 30) (hn : (recordBulk s cid).length = n) (hb : (s.ctx cid).lb.save.toNat + 4096 + n ≤ 2 ^ 30)
    (h1 : extBase (s.ctx cid).lb + 262144 ≤ 2 ^ 30) : ∃ t, saveCtx s cid = .ok t ∧ t.ctxs = s.ctxs ∧ t.cores = s.cores :=
  (saveVa_len h (length_recordBase s cid) h0).elim fun _ h1' =>
    (saveVa_len (h.same h1'.2) hn hb).elim fun _ h2 =>
      (saveVa_len ((h.same h1'.2).same h2.2) (length_recordExt s cid) h1).elim fun t3 h3 =>
        let k := (h1'.2.trans h2.2).trans h3.2
        ⟨t3, saveCtx_of hp h1'.1 h2.1 h3.1, k.ctxs, k.cores⟩

/-- A context with no pages whose eviction has begun; core 1024, which walks for interface 0, holds a translation of the first gigabyte. -/
def evictTask : State := (taskWith fun c =>
  { c with st := .evicted, evicting := true, pages := [], vpages0 := [], vpages1 := [], lb := { c.lb with vp0 := 0, vp1 := 0, acc := 0, td := 0, esc := 0, spp := 0 } }).modCore
    1024 fun k => { k with tlb := [{ ifc := 0, va := 0, size := 2 ^ 30, pte := 0xC400000000000000, gen := 0 }] }

theorem evictTask_saved : ∃ t, saveCtx evictTask 0 = .ok t ∧ t.ctxs = evictTask.ctxs ∧ t.cores = evictTask.cores := by
  have he : (evictTask.ue = [] ∧ evictTask.poison = [] ∧ (evictTask.cores.all fun p => p.2.l1.isEmpty) = true ∧
      (evictTask.ifcs.all fun p => p.2.snap.marks.isEmpty) = true ∧ evictTask.views = []) ∧ (evictTask.ctx 0).ifc = 0 ∧
      (evictTask.core (1024 + 0 / 4)).tlb = [{ ifc := 0, va := 0, size := 2 ^ 30, pte := 0xC400000000000000, gen := 0 }] := by decide +kernel
  have hn : (evictTask.ctx 0).pages = [] ∧ (evictTask.ctx 0).lb.save.toNat + 4096 ≤ 2 ^ 30 ∧ (recordBulk evictTask 0).length = 0 ∧
      (evictTask.ctx 0).lb.save.toNat + 4096 + 0 ≤ 2 ^ 30 ∧ extBase (evictTask.ctx 0).lb + 262144 ≤ 2 ^ 30 := by decide +kernel
  refine saveCtx_ok ⟨⟨{ ifc := 0, va := 0, size := 2 ^ 30, pte := 0xC400000000000000, gen := 0 }, rfl, fun a h => ?_⟩, he.1.1, he.1.2.1, he.1.2.2.1, he.1.2.2.2.1, he.1.2.2.2.2⟩
    hn.1 hn.2.1 hn.2.2.1 hn.2.2.2.1 hn.2.2.2.2
  rw [he.2.1, he.2.2]
  have hb : a < 1073741824 := h
  simp [tlbHit, h, hb]

/-- It is saved, and its interface owns a core of its placement set. -/
theorem witness_WaitsBudgetsEvictions_evictions :
    ((evictTask.ctx evictTask.arg.a).st = .evicted ∧ (evictTask.ctx 0).evicting = true ∧ saveQuiet evictTask 0 = true ∧ backOpen evictTask 0 = true ∧
      (evictTask.ctx 0).dying = false ∧ landScales evictTask 0 true = evictTask ∧
      ownedCores evictTask (recordOf (evictTask.ctx 0) evictTask.nextId 0 evictTask.tick) ≠ []) ∧
    (∃ t, saveCtx evictTask 0 = .ok t ∧ t.ctxs = evictTask.ctxs ∧ t.cores = evictTask.cores) ∧
    (let s := evictTask.modCtx 0 fun c => { c with st := .frozen, evicting := false, dying := true }; saveQuiet s 0 = true) :=
  ⟨by decide +kernel, evictTask_saved, by decide +kernel⟩

/-- Slots of interface 0 that open every path from a slice of die 0 to cluster 0: west along each row, north along column 0, and in. -/
def openThyme : Tbl (BitVec 32) :=
  ((List.range 64).flatMap fun (st : Nat) => (if st % 8 = 0 then (if st = 0 then [] else [(0, 6), (0, 1), (0, 2)]) else [(3, 6), (3, 1)]).map
    fun (p : Nat × Nat) => ((st * 7 + p.1) * 1024 + p.2, BitVec.ofNat 32 (2 ^ 31 + p.2 * 2 ^ 22))) ++
  [6, 1, 2].map fun (i : Nat) => (4 * 1024 + i, BitVec.ofNat 32 (2 ^ 31 + i * 2 ^ 22))

/-- The task of core 0 with one operation of its own in flight, number 50, which operand `a` names. -/
def opTask (k : OpKind) : State := { atTask with iss := {}, thyme := openThyme, nextId := 60, ops := [{ id := 50, own := ⟨0, 1, 0, 1⟩, kind := k }], arg := { a := 50 } }

theorem paths_open : ∀ st < 64, pathOpen (opTask (.wb 0)) 0 (st, 6) (0, 4) = true := by decide +kernel

/-- Device lines of die 0 reach cluster 0 whatever slice the hash gives them. -/
theorem mesh_in (s : State) (pa a : Nat) (h : s.thyme = openThyme) (hp : pa < 192 * 2 ^ 30) (ha : a < 2 ^ 21) :
    meshOpen s 0 (.dev pa) (.sp a) = true := by
  have e : ∀ x y, pathOpen s 0 x y = pathOpen (opTask (.wb 0)) 0 x y := by
    intro x y
    have f : slotFor s 0 = slotFor (opTask (.wb 0)) 0 := by funext p; simp only [slotFor, h]; rfl
    simp only [pathOpen, f]
  have hd : homeDie pa = 0 := by unfold homeDie; split <;> omega
  have hs : sliceOf pa < 512 := by
    have b : ∀ n lo, fld n (lo + 8) lo < 2 ^ 9 := fun n lo => by
      unfold fld; rw [show lo + 8 + 1 - lo = 9 by omega]; exact Nat.mod_lt _ (by decide)
    unfold sliceOf
    exact Nat.xor_lt_two_pow (Nat.xor_lt_two_pow (Nat.xor_lt_two_pow (Nat.xor_lt_two_pow (b _ 0) (b _ 9)) (b _ 18)) (b _ 27)) (b _ 36)
  have ha' : a / 2 ^ 21 = 0 := by omega
  simp only [meshOpen, e, locStation, hd, ha']
  exact paths_open _ (by omega)

/-- A location of die 0 in device memory. -/
def near : Loc → Bool
  | .dev pa => decide (pa < 192 * 2 ^ 30)
  | _ => false

theorem mesh_near {s : State} {l : Loc} (a : Nat) (h : s.thyme = openThyme) (hl : near l = true) (ha : a < 2 ^ 21) : meshOpen s 0 l (.sp a) = true := by
  cases l with
  | dev pa => exact mesh_in s pa a h (by simpa [near] using hl) ha
  | _ => cases hl

/-- Runs of die 0 in device memory, to cluster 0. -/
theorem crosses_in {s : State} {segs : List Seg} (a : Nat) (h : s.thyme = openThyme) (ha : a < 2 ^ 21)
    (hn : (segs.all fun g => match g.loc with | .dev pa => decide (pa + g.len < 192 * 2 ^ 30) | _ => false) = true) :
    crossesTo s 0 segs (.sp a) = true := by
  simp only [crossesTo, List.all_eq_true] at hn ⊢
  intro x hx
  obtain ⟨g, hg, hm⟩ := List.mem_flatMap.mp (List.mem_eraseDups.mp hx)
  have hb := hn g hg
  cases e : g.loc with
  | dev pa =>
    rw [e] at hm hb
    obtain ⟨n, hl, rfl⟩ := List.mem_map.mp hm
    obtain ⟨i, hi, rfl⟩ := List.mem_map.mp hl
    have := List.mem_range.mp hi
    have := of_decide_eq_true hb
    exact mesh_in s _ a h (by omega) ha
  | _ => rw [e] at hb; cases hb

/-- Nothing but the mesh holds up a read, and the bytes are of die 0. -/
def openNow (s : State) (o : Op) (segs : List Seg) : Bool :=
  satHome s o.win && !tileLocked s (coreOf o.own.cid) segs && !fillsBefore s o.win segs && segs.all fun g => match g.loc with
    | .dev pa => decide (pa + g.len < 192 * 2 ^ 30)
    | _ => false

theorem open_of {k : OpKind} {s : State} {segs : List Seg} (h : s.thyme = openThyme)
    (hn : openNow s { id := 50, own := ⟨0, 1, 0, 1⟩, kind := k } segs = true) : readOpen s { id := 50, own := ⟨0, 1, 0, 1⟩, kind := k } segs = true := by
  rw [openNow, Bool.and_eq_true] at hn
  rw [readOpen, Bool.and_eq_true]
  exact ⟨hn.1, crosses_in (cidStation 0 * 2 ^ 21) h (by decide) hn.2⟩

/-- The same with a way free in every set. -/
def readNow (s : State) (o : Op) (segs : List Seg) : Bool := openNow s o segs && !l2Waits s segs

theorem ready_of {k : OpKind} {s : State} {segs : List Seg} (h : s.thyme = openThyme)
    (hn : readNow s { id := 50, own := ⟨0, 1, 0, 1⟩, kind := k } segs = true) : readReady s { id := 50, own := ⟨0, 1, 0, 1⟩, kind := k } segs = true := by
  rw [readNow, Bool.and_eq_true] at hn
  rw [readReady, Bool.and_eq_true]
  exact ⟨open_of h hn.1, hn.2⟩

theorem cross_of {s : State} {src dst : List Seg} (h : s.thyme = openThyme)
    (hn : ((src.zip dst).all fun (p : Seg × Seg) => near p.1.loc && (match p.2.loc with | .sp a => decide (a < 2 ^ 21) | _ => false)) = true) :
    sectorsCross s 0 src dst = true := by
  simp only [sectorsCross, List.all_eq_true, Bool.and_eq_true] at hn ⊢
  intro p hp
  obtain ⟨h1, h2⟩ := hn p hp
  split at h2
  · rename_i a e; rw [e]; exact mesh_near a h h1 (by simpa using h2)
  · cases h2

/-- That operation. -/
def op0 (k : OpKind) : Op := { id := 50, own := ⟨0, 1, 0, 1⟩, kind := k }

/-- A store of two bytes on a line's last byte and the next line's first; one to the last line of another part; an atomic at the last
doubleword, and on a sector with a mark; one of another part. -/
theorem witness_StoresPerform :
    (let x : StoreOp := { sw := false, va := 0x1FF, left := [⟨.dev 0x1FF, [1, 2]⟩] }; let s := opTask (.store x); let o := op0 (.store x);
      s.op? s.arg.a = some o ∧ x.left ≠ [] ∧ x.await = 0 ∧ x.acc = 0 ∧ (∀ p ∈ x.left, p.loc.isGlob = false) ∧ sat s o.win = true ∧
        olderMeets s o (x.left.map (·.seg)) = false ∧ writeHeld s 0 (x.left.map (·.seg)) = false ∧ olderMeets s o [⟨.dev 0x1FF, 2⟩] = false ∧
        writeHeld s 0 [⟨.dev 0x1FF, 2⟩] = false) ∧
    (∀ n ∈ [0, 1], let x : StoreOp := { sw := true, va := 0, left := [⟨.sp 0x1FFFFF, [1]⟩], await := n }; let s := opTask (.store x);
      let o := op0 (.store x); s.op? s.arg.a = some o ∧ x.left.filter (·.loc.isGlob) = [] ∧ x.left.filter (!·.loc.isGlob) ≠ [] ∧
        sat s o.win = true ∧ olderMeets s o (x.left.map (·.seg)) = false ∧ writeHeld s 0 (x.left.map (·.seg)) = false) ∧
    (let x : StoreOp := { sw := false, va := 0, left := [⟨.glob (2 ^ 63 - 1), [1]⟩] }; let s := opTask (.store x); let o := op0 (.store x);
      s.op? s.arg.a = some o ∧ x.await = 0 ∧ (2 ^ 63 - 1) % 256 + 1 ≤ 256 ∧ olderMeets s o [⟨.glob (2 ^ 63 - 1), 1⟩] = false) ∧
    (let x : AtomicOp := { fn := 0, f := false, ty := 7, va := 0xFFF8, loc := .glob (2 ^ 63 - 8), v := 1, cmp := 0, reg := 3 };
      let s := opTask (.atomic x); s.op? s.arg.a = some (op0 (.atomic x)) ∧ olderMeets s (op0 (.atomic x)) [⟨x.loc, 8⟩] = false ∧ x.sent = false) ∧
    (let x : AtomicOp := { fn := 0, f := false, ty := 7, va := 0xFFF8, loc := .dev 0xFFF8, v := 1, cmp := 0, reg := 3 };
      let s := { (opTask (.atomic x)) with ue := [0xFFF8 / 64] }; (badSeg s 0 [⟨.dev 0xFFF8, 8⟩]).isSome = true ∧ delivered s 50 = true) ∧
    (let x : AtomicOp := { fn := 0, f := false, ty := 7, va := 0xFFF8, loc := .dev 0xFFF8, v := 1, cmp := 0, reg := 3 };
      let s := opTask (.atomic x); let o := op0 (.atomic x);
      s.op? s.arg.a = some o ∧ 0xFFF8 % 8 = 0 ∧ sat s o.win = true ∧ olderMeets s o [⟨.dev 0xFFF8, 8⟩] = false ∧ writeHeld s 0 [⟨.dev 0xFFF8, 8⟩] = false ∧
        badSeg s 0 [⟨.dev 0xFFF8, 8⟩] = none ∧ s.views = [] ∧ s.holds? o.own = true ∧ delivered s o.id = true) := by decide +kernel

/-- Lines asked of another part and of this one, not sent and sent, not delivered and delivered; a cluster about to change its mode;
sectors that fill; walks that succeed and fail. -/
theorem witness_CachesAndFills_caches :
    (opTask (.wb 0)).op? 0 = none ∧
    (let k : OpKind := .rload 0 (2 ^ 55) 0 4 false; let s := opTask k;
      s.op? s.arg.a = some (op0 k) ∧ s.fab.sends.any (·.op == 50) = false ∧
      (let u := fabRequest s 50 0 0 { kind := .load, tag := 0, off := 0, len := 256, wit := 0 } (2 ^ 55);
        u.op? u.arg.a = some (op0 k) ∧ u.fab.sends.any (·.op == 50) = true)) ∧
    (let k : OpKind := .rload 0 512 3 1 false; let s := opTask k;
      s.op? s.arg.a = some (op0 k) ∧ satHome s (op0 k).win = true ∧ l2Full s.l2 512 = false ∧ delivered s 50 = true ∧
        secFault s (512 * 256 + 3 * 64) = none ∧ l1Find s 0 512 false 0 = none ∧
      (let u := l1Fill s 0 512 [2] 0; u.op? u.arg.a = some (op0 k) ∧ delivered u 50 = true ∧ satHome u 0 = true ∧ l2Full u.l2 512 = false ∧
        (∃ y, l1Find u 0 512 false 0 = some y ∧ y.secs.all (fun q => q.1 != 3) = true))) ∧
    (let s := atTask.modStn 0 fun t => { t with fusePend := some true }; (s.stn s.arg.a).fusePend = some true ∧ s.ops = []) ∧
    (∀ b ∈ [0, 1, 2, 3, 4], ∀ f : Bool, let s := { atTask with arg := { a := 768 * 2 ^ 30 - 64, b := b, flag := f } };
      tierOk s (s.arg.a / 64 * 64 / 2 ^ 44) (s.arg.a / 64 * 64 % 2 ^ 44) 64 = true ∧ l2Full s.l2 (s.arg.a / 256) = false) ∧
    (let s := { atTask with arg := { a := 0, b := 2 ^ 30 - 1 } };
      walkIfc s s.arg.a = some 0 ∧ kindOf s.arg.b = 0 ∧ (match walk s 0 s.arg.b with | .ok _ => true | .error _ => false) = true) ∧
    (let s := { atTask with arg := { a := 0, b := 2 ^ 48 - 1 } };
      walkIfc s s.arg.a = some 0 ∧ kindOf s.arg.b = 0 ∧ (match walk s 0 s.arg.b with | .ok _ => false | .error _ => true) = true) := by
  decide +kernel

/-- R269: a sector asked for fills the line at the head of L1 with the tick of the fill. -/
theorem test_l1Fill :
    (let s := { opTask (.rload 0 512 3 1 false) with mem := [(512 * 256 + 192, 7)], now := 9 };
      (match exec .l1Fill s with
      | .next t => decide (((t.core 0).l1.head?.map fun x => (x.line, x.tick, x.secs.map fun q => (q.1, q.2.head?))) =
          some (512, s.tick, [(3, some 7)]) ∧ t.ops = [])
      | _ => false) = true) := by decide +kernel

/-- A page being refilled, and a chunk that a port lacks. -/
def fillTask : State := { (taskWith fun c => { c with
  pages := [⟨0, .fill⟩, ⟨31, .present⟩], refill := [0], v0 := { c.v0 with ports := [(7, { conf := true, base := 0x20000 })] } }) with iss := {}, thyme := openThyme, arg := { a := 0, b := 0 } }

theorem witness_CachesAndFills_fills :
    ((fillTask.ctx 0).pages[fillTask.arg.b]? = some ⟨0, .fill⟩ ∧ fillTask.arg.b ∈ (fillTask.ctx 0).refill ∧ (fillTask.ctx 0).st ≠ .free ∧
      (∀ q ∈ (fillTask.ctx 0).pages, q.phys = 0 → q.st ≠ .zero)) ∧
    (∃ src, resolve fillTask (ifcWho 0) { loc := false } false (backingVa (fillTask.ctx 0).lb 0) 65536 = .ok src ∧
      crossesTo fillTask 0 src (.sp (cidStation 0 * 2 ^ 21)) = true) ∧
    (let x : Orphan := { phys := 31, ifc := 0, va := 0x20000, asked := true };
      let s := { (fillTask.modStn 0 fun t => { t with orphans := [x] }) with arg := { a := 0, b := 31, flag := true } };
      ((s.stn s.arg.a).orphans.find? fun x => x.phys == s.arg.b && x.asked) = some x) ∧
    (∃ src, resolve fillTask (ifcWho 0) { loc := false } false 0x20000 65536 = .ok src ∧ crossesTo fillTask 0 src (.sp (0 * 2 ^ 21)) = true) ∧
    (let s := { fillTask with arg := { a := 0, b := 7 } }; let p : Port := { conf := true, base := 0x20000 };
      (s.ctx 0).st = .running ∧ tget {} ((s.ctx 0).vf s.arg.flag).ports s.arg.b = p ∧ p.conf = true ∧ sat s p.wit = true ∧
        (aheadOf p 8).find? (fun j => !p.chunks.any (·.pos == j)) = some 0 ∧ fusing s 0 = false ∧ l2Waits s [⟨.dev 0x20000, 256⟩] = false ∧ isOk (resolve s (s.who 0) accPort false (pAddr p 0) (pBytes p.rcd)) = true ∧
        segsOf (resolve s (s.who 0) accPort false (pAddr p 0) (pBytes p.rcd)) = [⟨.dev 0x20000, 256⟩] ∧ storePending s 0 [⟨.dev 0x20000, 256⟩] = false ∧
        l1Ok (l1Read (touchXlat s (s.who 0) (pAddr p 0) (pBytes p.rcd)) 0 p.wit [⟨.dev 0x20000, 256⟩]).2 = true) :=
  ⟨by decide +kernel, ⟨_, eq_ok (by decide +kernel), crosses_in 0 rfl (by decide) (by decide +kernel)⟩, by decide +kernel,
    ⟨_, eq_ok (by decide +kernel), crosses_in 0 rfl (by decide) (by decide +kernel)⟩, by decide +kernel⟩

/-- The last arrival on a barrier, and one before it; a witness just old enough. -/
theorem witness_ArrivalsAndOldWitnesses :
    (∀ x ∈ [({ arm := true, exp := 4095, arr := 4094 } : Barrier), { arm := true, exp := 4095, arr := 0 }],
      let k : OpKind := .barv 0 0 1 31 (2 ^ 63 + 5); let s := (opTask k).modCtx 0 fun c => { c with b := [(31, x)] };
      s.op? s.arg.a = some (op0 k) ∧ delivered s 50 = true ∧ (s.ctx 0).st = .running ∧ (s.ctx 0).ifc = 0 ∧ (s.ctx 0).tseq = 1 ∧
        (tget {} (s.ctx 0).b 31).arm = true ∧ (tget {} (s.ctx 0).b 31).done = false ∧ (tget {} (s.ctx 0).b 31).arr.toNat + 1 < 2 ^ 12) ∧
    (let s := { (taskWith fun c => { c with w := [(31, { val := 2 ^ 63 })] }) with now := 65537, arg := { a := 0, b := 31 } };
      (tget {} (s.ctx s.arg.a).w s.arg.b).pend = none ∧ oldWit s (tget {} (s.ctx s.arg.a).w s.arg.b).val = true) := by decide +kernel

/-- A multiply of one block of `.bf16` lines at 128 KiB and 192 KiB, not yet asked for, asked for, and granted. -/
def mul0 : MOp :=
  { kind := .mma, acc := 7, tda := 0x20000 * 2 ^ 192, tdb := 0x30000 * 2 ^ 192, fa := 9, fb := 9, linesA := [[⟨.dev 0x20000, 64⟩]],
    linesB := [[⟨.dev 0x30000, 64⟩]] }

theorem witness_Power :
    (let s := { (opTask (.m mul0)) with arg := { a := 0 } }; let o := op0 (.m mul0);
      arrayOp s s.arg.a = some (o, mul0) ∧ mul0.asked = none ∧ mul0.granted ≤ mul0.blk ∧ mul0.blk < mul0.blocks ∧
        (tileFree s o mul0 = true ∧ regBad s o mul0 = false ∧ badBlock s mul0 = none) ∧
        readOpen s o ((nextBlock mul0).1 ++ (nextBlock mul0).2).flatten = true ∧ (fetchBlock s mul0).wait = false) ∧
    (let m : MOp := { mul0 with granted := 1 }; let s := opTask (.m m); arrayOp s 0 = some (op0 (.m m), m) ∧ blockHere m = false ∧ tileFree s (op0 (.m m)) m = true) ∧
    (let s := { (opTask (.m mul0)) with l2 := [{ line := 512, pins := 15 }] }; (fetchBlock s mul0).wait = true) ∧
    (let m : MOp := { mul0 with asked := some 9 }; let s := ({ (opTask (.m m)) with arg := { a := 0 } } : State).modDie 0 fun d => { d with left := 9 };
      dieAsks s s.arg.a = [(op0 (.m m), m, 9)] ∧ 9 ≤ (s.die s.arg.a).left ∧ s.holds? (op0 (.m m)).own = true) ∧
    (let m : MOp := { mul0 with asked := some 9 }; let s := ({ (opTask (.m m)) with arg := { a := 0 } } : State).modDie 0 fun d => { d with left := 8 };
      dieAsks s s.arg.a = [(op0 (.m m), m, 9)] ∧ (s.die s.arg.a).left < 9) ∧
    (let s := { atTask with now := 2276, arg := { a := 3 } }; s.arg.a < 4 ∧ (s.die s.arg.a).period < s.cycle / 1024 ∧ s.plat.envNext = [] ∧
      (let u := s.modPlat fun p => { p with envNext := [(4000, 0), (3200, 1)] }; u.plat.envNext.filter (fun x => decide (x.2 + 4000000 ≤ 2 * 1024 * 20 / 9)) = [])) ∧
    (let s := { (atTask.modPlat fun p => { p with envNext := [(4000, 0), (3200, 426), (4800, 427)] }) with now := 4000430, arg := { a := 3 } };
      let k := s.cycle / 1024; (s.die s.arg.a).period < k ∧ (s.plat.envNext.filter fun x => decide (x.2 + 4000000 ≤ k * 1024 * 20 / 9)) = [(4000, 0), (3200, 426)]) :=
  ⟨⟨by decide +kernel, rfl, by decide, by decide +kernel, by decide +kernel, open_of rfl (by decide +kernel), by decide +kernel⟩,
    by decide +kernel⟩

/-- Scale bytes that arrive, of a bundle that is due and of one that is not. -/
def scl0 (due : Nat) : OpKind := .mscl 7 0x20000 [⟨.dev 0x20000, 1024⟩] due []

theorem scl_ready (due : Nat) (ue : List Nat) (h : readNow { (opTask (scl0 due)) with ue := ue } (op0 (scl0 due)) [⟨.dev 0x20000, 1024⟩] = true) :
    msclReady { (opTask (scl0 due)) with ue := ue } (op0 (scl0 due)) 7 [⟨.dev 0x20000, 1024⟩] = true := by
  have hr : readReady { (opTask (scl0 due)) with ue := ue } (op0 (scl0 due)) [⟨.dev 0x20000, 1024⟩] = true := ready_of rfl h
  have ho : olderOps { (opTask (scl0 due)) with ue := ue } (op0 (scl0 due)) = [] := rfl
  rw [msclReady, hr, ho]; rfl

/-- A load of a tile's row, and what is wrong with its line. -/
def mld0 : MOp := { mul0 with kind := .mld, fa := 8, linesA := [[⟨.dev 0x20000, 128⟩]] }

/-- The multiply of one block, granted and fetched. -/
def mulGot : MOp := { mul0 with granted := 1, got := [512, 768] }

/-- Each operation of the engine at its turn. -/
theorem witness_MatrixPerforms_turns :
    ((let s := opTask (.m mulGot); let o := op0 (.m mulGot); let m := mulGot;
      s.op? s.arg.a = some o ∧ s.holds? o.own = true ∧ m.onArray = true ∧ o.held = false ∧ m.blk < m.granted ∧ m.blk < m.blocks ∧
        m.blk + 1 = m.blocks ∧ arrayTurn s o = true ∧ tileFree s o m = true ∧ blockHere m = true ∧ regBad s o m = false ∧ badBlock s m = none) ∧
    (∀ k ∈ [MKind.mdrn, .mzero, .mmov], let m : MOp := { kind := k, acc := 7, row := 127 }; let s := opTask (.m m);
      s.op? s.arg.a = some (op0 (.m m)) ∧ s.holds? ⟨0, 1, 0, 1⟩ = true ∧ tileFree s (op0 (.m m)) m = true ∧ regBad s (op0 (.m m)) m = false) ∧
    (let m : MOp := { mul0 with kind := .mst, fa := 8, linesA := [[⟨.dev 0x20000, 128⟩]] }; let s := opTask (.m m); let o := op0 (.m m);
      s.op? s.arg.a = some o ∧ tileFree s o m = true ∧ regBad s o m = false ∧ satHome s o.win = true ∧ heldSegs s o m.linesA.flatten = false ∧
        writeHeld s 0 m.linesA.flatten = false) ∧
    (let s := opTask (.m mld0); s.op? s.arg.a = some (op0 (.m mld0)) ∧ tileFree s (op0 (.m mld0)) mld0 = true ∧
      regBad s (op0 (.m mld0)) mld0 = false ∧ badLine s (tileRows mld0) = none)) ∧
    readReady (opTask (.m mld0)) (op0 (.m mld0)) mld0.linesA.flatten = true ∧
    readOpen (opTask (.m mulGot)) (op0 (.m mulGot)) ((nextBlock mulGot).1 ++ (nextBlock mulGot).2).flatten = true :=
  ⟨by decide +kernel, ready_of rfl (by decide +kernel), open_of rfl (by decide +kernel)⟩

/-- The landing of scale bytes, and bad data for each operation that reads. -/
theorem witness_MatrixPerforms_data :
    (∀ n ∈ [0, 1], let s := opTask (scl0 n); s.op? s.arg.a = some (op0 (scl0 n)) ∧ badSeg s 0 [⟨.dev 0x20000, 1024⟩] = none ∧
      s.ops = [op0 (scl0 n)] ∧ (op0 (scl0 n)).own.uid = (s.ctx 0).uid ∧ (s.ctx 0).n = 0 ∧ readSegs s [⟨.dev 0x20000, 1024⟩] ≠ []) ∧
    (∀ m ∈ [mul0, mld0], let s := { (opTask (.m m)) with ue := [0x20000 / 64] }; let o := op0 (.m m);
      s.op? s.arg.a = some o ∧ s.residence o.own = some 0 ∧ tileFree s o m = true ∧ sat s o.win = true ∧ arrayTurn s o = true ∧
        (m.onArray = true → (badBlock s m).isSome = true) ∧ (m.kind = .mld → (badLine s (tileRows m)).isSome = true) ∧ (s.ctx 0).queued = [] ∧
        (s.ctx 0).resume = none) ∧
    (let m : MOp := { kind := .mdrn, acc := 7, row := 127 }; let s := (opTask (.m m)).modCtx 0 fun c => { c with accUe := [1023] }; let o := op0 (.m m);
      s.op? s.arg.a = some o ∧ s.residence o.own = some 0 ∧ satHome s o.win = true ∧ tileFree s o m = true ∧ m.onArray = false ∧ regBad s o m = true ∧
        (s.ctx 0).queued = [] ∧ (s.ctx 0).resume = none) ∧
    (let s := { (opTask (scl0 0)) with ue := [0x20000 / 64] }; (badSeg s 0 [⟨.dev 0x20000, 1024⟩]).isSome = true) ∧
    msclReady (opTask (scl0 0)) (op0 (scl0 0)) 7 [⟨.dev 0x20000, 1024⟩] = true ∧ msclReady (opTask (scl0 1)) (op0 (scl0 1)) 7 [⟨.dev 0x20000, 1024⟩] = true ∧
    msclReady { (opTask (scl0 0)) with ue := [0x20000 / 64] } (op0 (scl0 0)) 7 [⟨.dev 0x20000, 1024⟩] = true :=
  ⟨by decide +kernel, by decide +kernel, by decide +kernel, by decide +kernel, scl_ready 0 [] (by decide +kernel), scl_ready 1 [] (by decide +kernel),
    scl_ready 0 _ (by decide +kernel)⟩

/-- A copy of two sectors from device memory to page 0, not started, moving, and moved. -/
def cp0 (pos : Nat) (started : Bool) : CopyOp :=
  { kind := 0, ch := 7, core := 0, dst := BitVec.ofNat 64 localBase, src := 0x20000, rows := 1, rlen := 2, dstr := 0, sstr := 0, dsw := false,
    ssw := false, pos := pos, started := started }

/-- The task with that copy and the page it held at its start. -/
def cpTask (x : CopyOp) : State := { (opTask (.copy x)) with ops := [{ op0 (.copy x) with pages := List.range 8 }] }

theorem witness_CopiesRun_copies :
    (let x := cp0 0 false; let s := cpTask x; let o := { op0 (.copy x) with pages := List.range 8 };
      s.op? s.arg.a = some o ∧ satHome s o.win = true ∧ x.started = false ∧ chanWaits s o x.core x.ch = false) ∧
    (let x := cp0 0 true; let s := cpTask x; let o := { op0 (.copy x) with pages := List.range 8 }; let l := copyTile' x;
      s.op? s.arg.a = some o ∧ x.stop = none ∧ x.pos < x.total ∧ heldSegs s o (sectorLocs s o.who (l.map (·.1))) = false ∧
        lockedOut s o x = false ∧
        (let b := sectorLocs s o.who (l.map (·.1)) ++ sectorLocs s o.who (l.map (·.2));
          engineWaits s o b = false ∧ (fillGate s (physPages b)).isNone = true) ∧
        ((sectorLocs s o.who (l.map (·.1))).any fun g => marked s g.loc g.len) = false ∧
        sectorsCross s o.own.ifc (sectorLocs s o.who (l.map (·.2))) (sectorLocs s o.who (l.map (·.1))) = true ∧
        (copySectors o x l.length x.pos s).2.2 = none) ∧
    (let x := { cp0 0 true with ch := 6 }; let y : Op := { op0 (.copy { cp0 0 true with lock := true }) with id := 51, pages := List.range 8 };
      let s := { (cpTask x) with ops := (cpTask x).ops ++ [y] }; let o := { op0 (.copy x) with pages := List.range 8 };
      s.op? s.arg.a = some o ∧ lockedOut s o x = true) ∧
    (let x := cp0 2 true; (cpTask x).op? 50 = some { op0 (.copy x) with pages := List.range 8 } ∧ x.started = true ∧ x.stop = none ∧
      x.total ≤ x.pos ∧ 0 < x.total) ∧
    (let x : McstOp := { ch := 7, core := 0, src := 0x20000, len := 64, br := [] }; let s := opTask (.mcst x); let o := op0 (.mcst x);
      let src := sectorLocs s o.who [x.src.toNat]; s.op? s.arg.a = some o ∧ chanWaits s o x.core x.ch = false ∧ engineWaits s o src = false ∧
        tileLocked s x.core src = false ∧ (fillGate s (opPages o x.src.toNat x.len)).isNone = true) ∧
    (let b : Branch := { idx := 7, cid := 0, tseq := 1, page := 7, sect := 1023 };
      ∀ y ∈ [{ b with done := true }, { b with dropped := true }], let x : McstOp := { ch := 7, core := 0, src := 0x20000, len := 64, br := [y], started := true };
      (opTask (.mcst x)).op? 50 = some (op0 (.mcst x)) ∧ ∀ b ∈ x.br, b.done = true ∨ b.dropped = true) :=
  ⟨by decide +kernel, ⟨by decide +kernel, rfl, by decide +kernel, by decide +kernel, by decide +kernel, by decide +kernel, by decide +kernel, cross_of rfl (by decide +kernel), by decide +kernel⟩, by decide +kernel⟩

/-- A branch to the task itself, and one to a task that is gone; a range, a line, a join; a store into a marked page. -/
theorem witness_CopiesRun_rest :
    (∀ t ∈ [1, 2], let b : Branch := { idx := 7, cid := 0, tseq := t, page := 7, sect := 1023 };
      let x : McstOp := { ch := 7, core := 0, src := 0x20000, len := 64, br := [b], data := List.replicate 64 1, started := true };
      let s := { (opTask (.mcst x)) with arg := { a := 50, b := 7 } };
      s.op? s.arg.a = some (op0 (.mcst x)) ∧ b.idx = s.arg.b ∧ branchTaken s (op0 (.mcst x)) b x.len = decide (t = 1) ∧
        (let d := spSegs (cidStation b.cid) ((s.ctx b.cid).pages.map (·.phys)) false (x.data.length / 65536 + 2) (b.page * 65536 + b.sect * 64) x.data.length;
          heldSegs s (op0 (.mcst x)) d = false ∧ (fillGate s (physPages d)).isNone = true) ∧
        (∀ g ∈ sectorLocs s (op0 (.mcst x)).who [x.src.toNat], meshOpen s 0 g.loc (.sp (cidStation b.cid * 2 ^ 21)) = true)) ∧
    (∀ k ∈ [OpKind.wb 0x20000, .l2range 1 0x20000 64 0, .join 3 255 0], let s := opTask k;
      s.op? s.arg.a = some (op0 k) ∧ sat s 0 = true ∧ s.holds? ⟨0, 1, 0, 1⟩ = true ∧ delivered s 50 = true) ∧
    (let x : StoreOp := { sw := false, va := 0x2FFFF, left := [⟨.dev 0x2FFFF, [1]⟩] };
      let s := (opTask (.store x)).modIfc 0 fun i => { i with snap := { i.snap with st := 2, marks := [(2, 2)] } };
      s.op? s.arg.a = some (op0 (.store x)) ∧ sat s 0 = true ∧ marked s (.dev 0x2FFFF) 1 = true) :=
  ⟨by
    intro t ht
    simp only [List.mem_cons, List.not_mem_nil, or_false] at ht
    rcases ht with rfl | rfl <;>
      exact ⟨by decide +kernel, rfl, by decide +kernel, by decide +kernel,
        fun g hg => mesh_near _ rfl ((by decide +kernel : ∀ g ∈ _, near g.loc = true) g hg) (by decide)⟩,
    by decide +kernel⟩

/-- A group load of 64 bytes to page 0; a hold entry that waits and one that trails. -/
def gld0 (stat : Nat) : GldOp :=
  { e := 3, die := 0, g := 255, q := 1, dst := BitVec.ofNat 64 localBase, src := 0x20000, len := 64, sw := false, stat := stat,
    segs := [⟨.dev 0x20000, 64⟩] }

def hold0 (slice : Nat) (trail : Bool) : Hold :=
  { id := 70, slice := slice, die := 0, g := 255, q := 1, src := 0x20000, spa := 0x20000, len := 64, exp := [(8, 2)], reqs := [50], trailing := trail, made := 0, until' := 0 }

/-- A task whose load of that range is at a stage, in a group with another member at a sequence. -/
def gldTask (stat q : Nat) : State := (opTask (.gld (gld0 stat))).modDie 0 fun d => { d with grp := [(255, { allot := true, mem := [(0, 1, 0), (8, 2, q)] })] }

def gldSlice : Nat := (gldHome (gld0 0)).1

/-- A member that has passed the load, and one that has not; a full slice; entries of its sequence that wait, trail, and name another source. -/
theorem witness_GroupLoadsRun_arrivals :
    (∀ q ∈ [1, 2], let s := gldTask 0 q; gldOf s s.arg.a = some (op0 (.gld (gld0 0)), gld0 0) ∧ s.holds = [] ∧
      ((gldGroup s (gld0 0)).mem.any fun m => m.1 != 0 && seqAbove m.2.2 (gld0 0).q) = decide (q = 2)) ∧
    (let s := { (gldTask 0 1) with holds := (List.range 32).map fun i => { hold0 gldSlice false with id := 70 + i, q := BitVec.ofNat 32 (2 + i) } };
      32 ≤ (s.holds.filter (·.slice == gldSlice)).length ∧
        (s.holds.find? fun h => h.slice == gldSlice && h.die == 0 && h.g == 255 && h.q == (gld0 0).q) = none) ∧
    (∀ t x : Bool, let h := { hold0 gldSlice t with src := if x then 0x20000 else 0x30000 }; let s := { (gldTask 0 1) with holds := [h] };
      (s.holds.find? fun h => h.slice == gldSlice && h.die == 0 && h.g == 255 && h.q == (gld0 0).q) = some h ∧ h.mis = false) ∧
    (let s := gldTask 1 1; let s := { s with arg := { a := (gldHome (gld0 1)).1 } };
      s.ops = [op0 (.gld (gld0 1))] ∧ (gldHome (gld0 1)).1 = s.arg.a ∧ s.holds = [] ∧ gldEntry s (gld0 1) = none ∧
      (let u := { s with holds := [hold0 gldSlice false] }; gldEntry u (gld0 1) = some (hold0 gldSlice false) ∧ (u.holds.filter (·.slice == u.arg.a)).length < 32)) := by
  decide +kernel

/-- Timers that are over; a fill that is read, one that is written, and one whose pages have gone back. -/
theorem witness_GroupLoadsRun_fills :
    (∀ b : Bool, let s := { (opTask (.gld (gld0 2))) with holds := [hold0 0 b], arg := { a := 70 } };
      s.holds = [hold0 0 b] ∧ (hold0 0 b).id = s.arg.a ∧ (hold0 0 b).trailing = b ∧ (hold0 0 b).until' ≤ s.tick ∧ (hold0 0 b).exp ≠ []) ∧
    (let x := gld0 4; let s := gldTask 4 1; let o := op0 (.gld x); gldOf s s.arg.a = some (o, x) ∧ x.read = false ∧ peersSat s x = true ∧
      l2Waits s x.segs = false ∧ (readUpTo s false 0 x.segs).2.2 = none ∧ (gldOf (gldRead s { x with peers := [50] }) o.id).isSome = true) ∧
    (let x : GldOp := { gld0 4 with read := true, gone := true }; gldOf (opTask (.gld x)) 50 = some (op0 (.gld x), x)) ∧
    (let x : GldOp := { gld0 4 with read := true, data := List.replicate 64 5 };
      let o : Op := { op0 (.gld x) with pages := List.range 8 }; let s := { (opTask (.gld x)) with ops := [o] };
      let dst := resolve s o.who { wr := true, dev := false } x.sw x.dst.toNat x.data.length;
      gldOf s s.arg.a = some (o, x) ∧ x.gone = false ∧ isOk dst = true ∧ heldSegs s o (segsOf dst) = false ∧
        (fillGate s (physPages (segsOf dst))).isNone = true) ∧
    crossesTo (gldTask 4 1) 0 (gld0 4).segs (.sp (cidStation 0 * 2 ^ 21)) = true :=
  ⟨by decide +kernel, by decide +kernel, by decide +kernel, by decide +kernel, crosses_in (cidStation 0 * 2 ^ 21) rfl (by decide) (by decide +kernel)⟩


/-! #### Notices, pulls and walks -/

/-- A notice of 64 KiB from the task to a task of context 0, on retention slot 63. -/
def note (st ctseq : Nat) : Notice :=
  { cons := 0, ctseq := ctseq, cifc := 0, idx := 7, tag := 0xFFFFFFFF, size := 65536, prio := 7, addr := BitVec.ofNat 64 localBase, pcore := 0,
    puid := 1, pcid := 0, slot := 63, gen := 255, win := 0, st := st }

/-- Every index of the notice table of cluster 0 taken. -/
def fullTable : List Op := (List.range 256).map fun i => { id := 100 + i, own := ⟨0, 1, 0, 1⟩, kind := .notice { note 2 1 with tidx := i } }

/-- The retention slot of that notice. -/
def retSlot : RetSlot := { holder := some ⟨0, 1, 0, 1⟩, gen := 255, count := 1, out := 128, pages := [0], phys := [0], addr := BitVec.ofNat 64 localBase }

/-- A notice whose task is gone; one that a free entry takes; one that a full table does not. -/
theorem witness_NoticesRun_arrivals :
    (∀ t ∈ [1, 2], let n := note 0 t; let s := opTask (.notice n); s.op? s.arg.a = some (op0 (.notice n)) ∧ delivered s 50 = true ∧ n.rem = false ∧
      consumerThere s n = decide (t = 1) ∧ n.tag.toNat ∉ (s.ctx n.cons).standing ∧ blockPages n ≤ (s.ctx n.cons).pages.length ∧
      freeIdx s (cidStation n.cons) = some 0) ∧
    (let n := note 0 1; let s := { (opTask (.notice n)) with ops := op0 (.notice n) :: fullTable };
      s.op? s.arg.a = some (op0 (.notice n)) ∧ delivered s 50 = true ∧ consumerThere s n = true ∧ freeIdx s (cidStation n.cons) = none) ∧
    (let n := note 0 1; let s := (opTask (.notice n)).modCtx 0 fun c => { c with standing := [0xFFFFFFFF] };
      n.tag.toNat ∈ (s.ctx n.cons).standing ∧ consumerThere s n = true) ∧
    (let n := { note 0 1 with size := 9 * 65536 }; let s := opTask (.notice n); (s.ctx n.cons).pages.length < blockPages n) ∧
    (∀ k ∈ [1023, 1024], let n : Notice := { note 0 1 with rem := true, port := 31, part := 1 };
      let s := { (opTask (.notice n)) with fab := { ports := [(31, { notices := upto 60 k })] } };
      s.op? s.arg.a = some (op0 (.notice n)) ∧ delivered s 50 = true ∧ 50 ∉ (s.port n.port).notices ∧ (s.port n.port).notices.length = k) ∧
    (let n := note 1 1; let s := opTask (.notice n); s.op? s.arg.a = some (op0 (.notice n)) ∧ n.rem = false ∧ freeIdx s (cidStation n.cons) ≠ none) ∧
    (let n := note 2 1; let s := { (opTask (.notice n)).modCtx 0 (fun c => { c with dl := 1 }) with now := 4001 * 256, arg := { a := 0, b := 50 } };
      s.op? s.arg.b = some (op0 (.notice n)) ∧ cidStation n.cons = s.arg.a ∧ (s.ctx n.cons).dl ≠ 0 ∧
        (s.ctx n.cons).dl * 4000 < s.tick - n.atick) := by decide +kernel

/-- The last answer and one before it; a slot whose deadline is over; a notice that goes to another part. -/
theorem witness_NoticesRun_answers :
    (∀ n ∈ [1, 8], let k : OpKind := .answer 0 63 255 7; let s := (opTask k).modCore 0 fun c => { c with ret := [(63, { retSlot with count := n })] };
      s.op? s.arg.a = some (op0 k) ∧ s.arg.a ≠ 0 ∧ delivered s 50 = true ∧ (let r := tget ({} : RetSlot) (s.core 0).ret 63;
        r.holder ≠ none ∧ r.gen.toNat = 255 ∧ r.out.getLsbD 7 = true ∧ r.count = n)) ∧
    (let s := { (atTask.modCore 0 fun c => { c with ret := [(63, retSlot)] }) with arg := { a := 0, b := 63 } };
      let r := tget ({} : RetSlot) (s.core s.arg.a).ret s.arg.b;
      r.holder = some ⟨0, 1, 0, 1⟩ ∧ r.deadline ≤ s.tick ∧ r.raised = false ∧ s.residence ⟨0, 1, 0, 1⟩ = some 0 ∧ coreOf 0 = s.arg.a ∧
        (s.ctx 0).queued = []) ∧
    (let o : Owner := ⟨0, 2, 0, 2⟩; let s := { (atTask.modCore 0 fun c => { c with ret := [(63, { retSlot with holder := some o })] }) with arg := { a := 0, b := 63 } };
      (tget {} (s.core s.arg.a).ret s.arg.b).holder = some o ∧ holderResident s s.arg.a o = false ∧ s.holds? o = false) := by decide +kernel

/-- A notice that its optical port forwards, and one that came for the last context. -/
theorem witness_NoticesRun_remote :
    (∀ st ∈ [0, 3], let n : Notice := { note st 1 with rem := true, part := 1, port := 31 }
     let s : State := { (opTask (.notice n)) with fab := { ports := [(31, { notices := [50] })] }, arg := { a := 50, flag := decide (st = 3) } }
     s.arg.a ≠ 0 ∧ s.op? s.arg.a = some (op0 (.notice n)) ∧ (op0 (.notice n)).id ∈ (s.port n.port).notices ∧ n.inc = false ∧
       (s.arg.flag = true ↔ n.st = 3)) ∧
    (let r : FabReq := { port := 31, cmp := BitVec.ofNat 64 (8191 * 2 ^ 32) }
     ∀ k ∈ [1023, 1024], let s : State := { atTask with fab := { ports := [(31, { notices := upto 60 k })] }, arg := { req := r } }
     let n := noticeOf s.arg.req s.arg.req.src; s.arg.a = 0 ∧ s.arg.req.port < 32 ∧ n.cons = 8191 ∧ (s.port n.port).notices.length = k) := by
  decide +kernel

/-- A block of one sector in the producer's page 0, for the other end of the cluster's first page. -/
def pull0 (pos : Nat) : PullOp := { no := { note 2 1 with size := 64 }, run := 7, mb := 0, pos := pos }

/-- A task gone from context 0, with a pull of its own that still runs. -/
def pullTask (pos : Nat) : State :=
  { (opTask (.pull (pull0 pos))).modCore 0 (fun c => { c with ret := [(63, retSlot)] }) with
    ops := [{ id := 50, own := ⟨0, 2, 0, 2⟩, pages := List.range 8, kind := .pull (pull0 pos) }] }

theorem witness_PullsAndWalks_pulls :
    (∀ m ∈ [0, localBase + 7 * 65536], let n := note 2 1;
      let s := { (opTask (.notice n)).modCtx 0 (fun c => { c with mo := 1, bm := 1024, lm := 128, mb := BitVec.ofNat 64 m }) with arg := { a := 0 } };
      sagePick s s.arg.a = some (op0 (.notice n), n) ∧ lowestRun (s.ctx n.cons).lm (blockPages n) = some 7 ∧
        (m ≠ 0 → fillPages (s.ctx 0) m 32 = [] ∧ heldPages s 0 m 32 = [] ∧
          isOk (resolve s (s.who 0) { wr := true, dev := false } false m 32) = true)) ∧
    (∀ g ∈ [255, 254], let p := { pull0 0 with no := { (pull0 0).no with gen := g } }; let o : Op := { id := 50, own := ⟨0, 2, 0, 2⟩, pages := List.range 8, kind := .pull p };
      let s := { (pullTask 0) with ops := [o] };
      let va := p.no.addr.toNat + p.pos; let k := nextRequest s p.no p.pos; let dst := spSegs 0 o.pages false 3 (p.run * 65536) k; let src := blockSpan s p.no.pcore p.no.cifc p.no.slot va k;
      s.op? s.arg.a = some o ∧ p.stop = none ∧ p.asked = false ∧ p.no.inc = false ∧ p.pos < p.no.size ∧ satHome s o.win = true ∧ heldSegs s o dst = false ∧
        ingressOpen s p.no p.pos = true ∧ src = [⟨.sp 0, 64⟩] ∧ p.got = none ∧ (fillGate s (physPages dst)).isNone = true ∧
        crossesTo s p.no.cifc src (.sp (cidStation o.own.cid * 2 ^ 21)) = true ∧ blockWaits s p.no.pcore p.no.slot p.no.gen p.no.win src = false ∧
        (let b := blockRead (takeCredit s p.no p.pos k) p.no.pcore p.no.cifc p.no.slot p.no.gen va k p.no.win;
          b.2.2 = (if g = 255 then none else some Code.nstale) ∧ (b.2.1 ≠ [] ↔ g = 255))) ∧
    (∀ r ∈ [0, 3], let s := { (pullTask 0) with now := 4 }; s.inCycle r = decide (r = 3)) ∧
    (let p := pull0 64; let s := pullTask 64; let o : Op := { id := 50, own := ⟨0, 2, 0, 2⟩, pages := List.range 8, kind := .pull p };
      s.op? s.arg.a = some o ∧ o.id < s.nextId ∧ p.no.size ≤ p.pos ∧ p.stop = none) := by decide +kernel

/-- Where one link of one port leads to a part, every line takes it. -/
theorem one_path {s : State} {part p l : Nat} (h0 : part ≠ s.fab.part) (h1 : routePorts s part = [p]) (h2 : linksUp (s.port p) = [l])
    (line : Nat) : pathTo s part line = some (p, l) := by
  have hl : l < 4 := by
    have : l ∈ linksUp (s.port p) := by simp [h2]
    exact List.mem_range.mp (List.mem_filter.mp this).1
  have k : ∀ k < 4, ∀ l < 4, ((upto k 4).map (· % 4)).find? [l].contains = some l := by decide
  have e : linkAt (s.port p) (Config.lineHash line / 32) = l := by rw [linkAt, h2, k _ (Nat.mod_lt _ (by decide)) l hl]; rfl
  simp [pathTo, h0, h1, portPath, Nat.mod_one, h2, e]

/-- A pull from the last part, through the port engine at cluster 0's station. -/
def farPull : PullOp := { pull0 0 with no := { (pull0 0).no with rem := true, inc := true, part := 4095 } }

def farTask : State :=
  { (pullTask 0).modIfc 0 (fun i => { i with sh := 64 }) with
    ops := [{ id := 50, own := ⟨0, 2, 0, 2⟩, pages := List.range 8, kind := .pull farPull }]
    fab := { ports := [(0, { linkUp := 8 })], route := [(4095, 1)] }, thyme := [(4 * 1024, BitVec.ofNat 32 (2 ^ 31 + 5 * 2 ^ 22))] }

theorem farPull_port : pullPort farTask farPull.no farPull.pos = 0 := by
  rw [pullPort, show farPull.no.part = 4095 from rfl, one_path (by decide +kernel) (by decide +kernel : routePorts farTask 4095 = [0]) (by decide +kernel : linksUp (farTask.port 0) = [3])]; rfl

theorem witness_PullsAndWalks_remote : (farTask.op? farTask.arg.a).map (·.kind) = some (.pull farPull) ∧
    ingressOpen farTask farPull.no farPull.pos = true ∧
      pathOpen farTask farPull.no.cifc (portStation (pullPort farTask farPull.no farPull.pos), 5) (cidStation 0, 4) = true := by
  rw [ingressOpen, pullUsed, producerLit, farPull_port]; decide +kernel

/-- A walk of one tile of one sector, and one of two tiles, from 128 KiB to page 0 or back, granted to its one target. -/
def walk0 (tiles : Nat) (store : Bool) : Walk :=
  { op := 50, own := ⟨0, 2, 0, 2⟩,
    desc := BitVec.ofNat 1024 (0x20000 + localBase * 2 ^ 64 + (tiles - 1) * 2 ^ 288 + if store then 2 ^ 440 else 0), tgts := [(0, ⟨0, 1, 0, 1⟩)], grants := [1] }

def movingTask (tiles : Nat) (store : Bool) : State :=
  { (opTask (.walkWit 0 3 4 tiles)).modStn 0 (fun t => { t with walks := [(3, some (walk0 tiles store))] }) with
    thyme := ((List.range 64).flatMap fun st => ((List.range 7).map fun o => ((st * 7 + o) * 1024, BitVec.ofNat 32 (2 ^ 31 + 4 * 2 ^ 22)))) ++ openThyme
    ops := [{ id := 50, own := ⟨0, 2, 0, 2⟩, kind := .walkWit 0 3 4 tiles }], arg := { a := 0, b := 3 } }

def memOf : Except Nat (List Seg) → List Seg
  | .ok l => l
  | .error _ => []

theorem witness_PullsAndWalks_walks :
    ∀ n ∈ [1, 2], ∀ b : Bool,
      let s := movingTask n b; let w := walk0 n b; let o : Op := { id := 50, own := ⟨0, 2, 0, 2⟩, kind := .walkWit 0 3 4 n }; let d := w.desc.toNat
      let buf := w.tgts.flatMap fun p => bufSegs s d w.tile p.2.cid; let mem := memOf (tileMem s o d w.tile b)
      tget none (s.stn s.arg.a).walks s.arg.b = some w ∧ s.op? w.op = some o ∧ fld d 440 440 = (if b then 1 else 0) ∧
      (∀ g ∈ w.grants, w.tile < g) ∧ sat s o.win = true ∧ permitsOf w w.tile = [] ∧ s.holds? o.own = false ∧
      (w.tgts.any fun p => (tileBuf d w.tile).any fun r => !(heldPages s p.2.cid r.1 r.2).isEmpty) = false ∧
      (fillGate s (physPages buf)).isNone = true ∧ l2Waits s mem = false ∧ fillsBefore s o.win buf = false ∧
      mem = [⟨.dev 0x20000, 64⟩] ∧ marked s (.dev 0x20000) 64 = false ∧ badSeg s 0 (if b then buf else mem) = none ∧ walkTiles d = n ∧
      (if b then meshOpen s 0 (.sp 0) (.dev 0x20000) else meshOpen s 0 (.dev 0x20000) (.sp 0)) = true := by decide +kernel

/-! #### The mesh, Bay and the fabric -/

/-- The last Thyme entry of the part, staged at the start of a revolution; the eighth replay of the last link and the one before it; Chive
messages that arrive, are sent again and are given up. -/
theorem witness_MeshAndSnapshots_mesh :
    (let s := { atTask with now := 2 ^ 30, thymeStaged := [(1835007, 2 ^ 31)], arg := { a := 3 } };
      s.arg.a < 4 ∧ tget 0 s.thymeAt s.arg.a < s.cycle / 1024 ∧ 1835007 / 7168 / 64 = s.arg.a) ∧
    (∀ n ∈ [6, 7], let s := { (atTask.modStn 255 fun t => { t with replays := [(6, List.replicate n 0)] }) with arg := { a := 255, b := 6 } };
      s.arg.a < 256 ∧ s.arg.b < 7 ∧ ((tget [] (s.stn s.arg.a).replays s.arg.b).filter fun t => decide (s.tick < t + 4000000)).length = n) ∧
    (∀ r ∈ [7, 8], let m : Chive := { id := 9, op := 50, src := 0, dst := 255, seq := 65535, sent := 0, resends := r, arrived := decide (r = 8) };
      let s := { atTask with now := 8000, chive := [m], arg := { a := 9, flag := decide (r = 8) } };
      s.chive = [m] ∧ m.id = s.arg.a ∧ m.sent + 8000 ≤ s.now) := by decide +kernel

/-- Bay with two pages to drain, with a page that is bad, with none, and with a line that still leaves. -/
theorem witness_MeshAndSnapshots_bay :
    (let s := { (atTask.modIfc 63 fun i => { i with snap := { st := 2, marks := [(0, 0), (1, 9)], todo := [(0, 0), (1, 9)] } }) with arg := { a := 63 } };
      let x := (s.ifc s.arg.a).snap; x.st = 2 ∧ x.todo = (0, 0) :: [(1, 9)] ∧ x.shadows = [] ∧ badSeg s 0 [⟨.dev (0 * 65536), 65536⟩] = none) ∧
    (let s := { (atTask.modIfc 63 fun i => { i with snap := { st := 2, todo := [(0, 0)] } }) with ue := [0], arg := { a := 63 } };
      (s.ifc s.arg.a).snap.st = 2 ∧ (badSeg s 0 [⟨.dev (0 * 65536), 65536⟩]).isSome = true) ∧
    (let s := { (atTask.modIfc 63 fun i => { i with snap := { st := 2 } }) with arg := { a := 63 } };
      let x := (s.ifc s.arg.a).snap; x.st = 2 ∧ x.todo = [] ∧ x.out = [] ∧ x.await = 0) ∧
    (∀ sh ∈ [0, 64], let l : BayLine := { addr := 4095 * 2 ^ 51, src := .dev 0, data := List.replicate 256 7 };
      let s := { (atTask.modIfc 0 fun i => { i with sh := sh, snap := { st := 2, out := [l], stat := 2 } }) with arg := { a := 0 } };
      let x := (s.ifc s.arg.a).snap; x.st = 2 ∧ x.out = [l] ∧ x.stat ≠ 0 ∧ fld l.addr 62 51 = 4095 ∧ routePorts s 4095 = [] ∧ bayShare s 0 31 256 = decide (sh = 64)) := by
  decide +kernel

/-- A part with one optical port as given, and members. -/
def fabWith (p : Nat) (x : FPort) (f : Fabric → Fabric) : State := { atTask with fab := f { ports := [(p, x)] }, arg := { a := p, b := 3 } }

/-- The last link of the last port, with sixteen replays of the last millisecond and with one fewer; a circuit port at a slot, entered and
not; a locked part; a drained one with one item staged. -/
theorem witness_LinksAndCircuits :
    (∀ n ∈ [15, 16], let s := fabWith 31 { replays := [(3, List.replicate n 0)] } id;
      s.arg.a < 32 ∧ s.arg.b < 4 ∧ (s.port s.arg.a).linkUp.getLsbD s.arg.b = true ∧ s.arg.b ∉ (s.port s.arg.a).peerDown ∧
        ((tget [] (s.port s.arg.a).replays s.arg.b).filter fun t => decide (s.tick < t + 4000000)).length = n) ∧
    (∀ k ∈ [none, some 0], let s := fabWith 31 { circuit := true, sched := [(15, 0x000100800100C000)], slot := k } id;
      s.arg.a < 32 ∧ (s.port 31).circuit = true ∧ s.fab.drain ≠ 2 ∧ slotNow (s.port 31) s.tick = some (0, 1, true) ∧ (s.port 31).slot = k) ∧
    (let s := fabWith 31 { circuit := true } id; slotNow (s.port 31) s.tick = none) ∧
    (let s := fabWith 0 {} fun f => { f with drain := 1, locked := true }; s.fab.drain = 1 ∧ s.fab.locked = true ∧ s.fab.drainWit = none) ∧
    (∀ k ∈ [9, 10, 11, 12, 13], let s := { (fabWith 5 {} fun f => { f with drain := 2, staged := [(k, 4095, 1)] }) with arg := { a := 5, list := [5, 4095] } };
      s.fab.drain = 2 ∧ s.fab.staged = [(k, 4095, 1)]) ∧
    (∀ p ∈ [some 1, some 2], let s := { (fabWith 31 { circuit := true, sched := [(15, 0x000100800100C000)], sentPeer := p, sentSlot := 33 } fun f => { f with drain := 2 }) with
        arg := { a := 5, c := 2 ^ 31 } };
      s.fab.drain = 2 ∧ s.fab.staged = [] ∧ s.arg.c.testBit 31 = true ∧ slotNow (s.port 31) s.tick = some (0, 1, true) ∧ (s.port 31).sentPeer = p) := by
  decide +kernel

/-- A part alone, and one with a peer behind one link; markers of consecutive windows; the last drain marker; a wait of five windows. -/
theorem witness_Windows :
    (let s := { (fabWith 31 {} fun f => { f with members := [0] }) with now := 4 * 16000 }; s.fab.windowN < s.tick / s.fab.window ∧ s.fab.members = [s.fab.part]) ∧
    (let s := { (fabWith 31 { linkUp := 8 } fun f => { f with members := [0, 4095], route := [(4095, 2 ^ 31)] }) with now := 4 * 16000 };
      s.fab.windowN < s.tick / s.fab.window ∧ s.peers = [4095] ∧ s.fab.drain = 0 ∧ routePorts s 4095 = [31] ∧ linksUp (s.port 31) = [3]) ∧
    (∀ n ∈ [7, 8], let s := { (fabWith 31 {} fun f => { f with closed := [(4095 * 128 + 127, 8)], drainStand := [(4095, 8)] }) with
        arg := { a := 4095, b := 31, c := 3, d := 8 } };
      let k := s.arg.a * 128 + s.arg.b * 4 + s.arg.c; s.arg.b < 32 ∧ s.arg.c < 4 ∧ n ≤ s.arg.d ∧
        s.arg.d ≤ max (tget 0 s.fab.closed k) (tget 0 s.fab.drainStand s.arg.a) ∧ tget 0 s.fab.closed k ≤ s.arg.d) ∧
    (let s := { (fabWith 31 { linkUp := 8 } fun f => { f with members := [0, 4095], route := [(4095, 2 ^ 31)], drain := 1, drainWit := some 50 }) with
        ops := [op0 (.drain false)], arg := { a := 4095, b := 31, c := 3 } };
      s.arg.b < 32 ∧ s.arg.c < 4 ∧ s.peers = [s.arg.a] ∧ s.fab.drained = [] ∧ s.fab.drain ≠ 0 ∧
        pathKeys s s.arg.a = [s.arg.a * 128 + s.arg.b * 4 + s.arg.c] ∧ s.fab.drainWit = some 50 ∧ s.op? 50 = some (op0 (.drain false))) ∧
    (let o := { op0 (.l2range 0 0 64 0) with win := mkWit 3 false true 32000 };
      let s := { (fabWith 31 { linkUp := 8 } fun f => { f with members := [0, 4095], route := [(4095, 2 ^ 31)] }) with
        now := 4 * 80000, ctxs := [], cores := [], ops := [o], arg := { a := 0 } };
      s.ops = [o] ∧ waitsOn s s.arg.a o.win = true ∧ (s.arg.a + 5) * s.fab.window ≤ s.tick ∧ s.ctxs = [] ∧ s.cores = []) ∧
    (let s := { (fabWith 31 { linkUp := 8 } fun f => { f with members := [0, 4095], route := [(4095, 2 ^ 31)] }) with now := 4 * 80000, ops := [], arg := { a := 0 } };
      let q := { entry0 with pend := true, lb := { entry0.lb with wstart := mkWit 3 false true 32000 } };
      let s := { s with ctxs := [], cores := [(1023, { queue := [q] })] };
      (s.ops.filter fun o => waitsOn s s.arg.a o.win) = [] ∧ waitsOn s s.arg.a q.lb.wstart = true ∧ q.pend = true) := by decide +kernel

/-- A request on the last link of the last port to the last part. -/
def send0 (dep : Option Nat) (resent : Nat) : FSend :=
  { id := 70, op := 50, piece := 2, kind := 0, port := 31, link := 3, part := 4095, req := { kind := .store }, departed := dep, resent := resent }

/-- A part whose interface 0 has tag 65,535 and exports its first page. -/
def exporter : State :=
  { (fabWith 31 {} fun f => { f with members := [0, 4095] }).modIfc 0 (fun i => { i with ftag := some 65535 }) with
    mem := memPut atTask.mem 0x2000 (leBytes 8 0xE400000000000000) }

/-- A store to that tag. -/
def store0 : FabReq := { kind := .store, src := 4095, srcPort := 31, port := 31, seq := 9, tag := 65535, off := 0x2FFC0, len := 64, data := List.replicate 64 7 }

/-- A request that may depart, for this part, to a peer that is gone, without a way, and held; a reply to one, sent once or again. -/
theorem witness_Requests_source :
    (∀ k ∈ [0, 1], let m := { (send0 none 0) with kind := k };
      let s := { (fabWith 31 {} fun f => { f with members := [0, 4095], route := [(4095, 2 ^ 31)], sends := [m] }) with arg := { a := 70 } };
      s.fab.sends.find? (·.id == s.arg.a) = some m ∧ m.part ≠ s.fab.part ∧ m.req.ff = false ∧ peerGone s m.part = false ∧ m.held = false ∧
        routePorts s m.part ≠ [] ∧ mayDepart s m = true) ∧
    (let m := { (send0 none 0) with part := 0 }; let s := { (fabWith 31 {} fun f => { f with sends := [m] }) with arg := { a := 70 } };
      s.fab.sends.find? (·.id == s.arg.a) = some m ∧ m.part = s.fab.part ∧ m.kind = 0) ∧
    (∀ l ∈ [[0], [0, 4095]], let s := { (fabWith 31 {} fun f => { f with members := l, sends := [send0 none 0] }) with arg := { a := 70 } };
      s.fab.drain = 0 ∧ peerGone s 4095 = decide (l = [0]) ∧ routePorts s 4095 = []) ∧
    (let m := { (send0 none 0) with held := true }; let s := { (fabWith 31 {} fun f => { f with members := [0, 4095], route := [(4095, 2 ^ 31)], sends := [m] }) with arg := { a := 70 } };
      s.fab.sends.find? (·.id == s.arg.a) = some m ∧ routePorts s m.part ≠ [] ∧ mayDepart s m = false) ∧
    (∀ d ∈ [some 0, none], let m := send0 d 1; let s := { (fabWith 31 {} fun f => { f with sends := [m] }) with arg := { reply := { id := 50, piece := 2 } } };
      s.arg.flag = false ∧ (s.fab.sends.find? fun m => m.op == s.arg.reply.id && m.piece == s.arg.reply.piece && (m.departed.isSome || decide (0 < m.resent))) = some m) ∧
    (∀ r ∈ [7, 8], let m := send0 (some 0) r; let s := { (fabWith 31 {} fun f => { f with sends := [m] }) with now := 128000, arg := { a := 70 } };
      s.fab.sends.find? (·.id == s.arg.a) = some m ∧ m.kind = 0 ∧ m.departed ≠ none ∧ s.fab.drain = 0 ∧ 32000 ≤ timerOf s m ∧ m.resent = r) := by
  decide +kernel

/-- A store of another part, waited for or not; one that its tag's interface does not let in; one cached, and one at FLOOR. -/
theorem witness_Requests_home :
    (∀ f : Bool, let s := { exporter with arg := { req := { store0 with ff := f } } };
      s.arg.req.port < 32 ∧ servable s s.arg.req = true ∧ (answer s s.arg.req).2.outcome = .performed) ∧
    (let s := { exporter with arg := { req := { store0 with tag := 65534 } } }; servable s s.arg.req = true ∧ reqSegs s s.arg.req = none) ∧
    (let s := { exporter with arg := { req := { store0 with wit := 2 ^ 63 - 1 } } }; servable s s.arg.req = false) ∧
    (let s := exporter; let r := store0; (s.port r.port).cache = [] ∧ floorOf (s.port r.port) r.src r.srcPort = none ∧
      reqSegs s r = some (0, [⟨.dev 0x2FFC0, 64⟩]) ∧ marked s (.dev 0x2FFC0) 64 = false) ∧
    (∀ x ∈ [({ cache := [{ src := 4095, port := 31, seq := 9, reply := {}, tick := 0 }] } : FPort), { floor := [(4095, 31, 9)] }],
      let s := { (exporter.modPort 31 fun _ => x) with arg := { a := 31 } };
      let cached := (s.port 31).cache.find? fun c => c.src == store0.src && c.port == store0.srcPort && c.seq == store0.seq
      s.arg.a < 32 ∧ (cached.isSome = true ∨ (cached = none ∧ floorOf (s.port 31) 4095 31 = some 9 ∧ store0.seq ≤ 9))) := by decide +kernel

/-- A fabric store of 64 bytes, not read; a multicast, read. -/
def fst0 (mc read : Bool) : FstOp := { mc := mc, ff := false, rcd := false, dests := [4095], off := 0, src := 0x20000, len := 64, read := read }

/-- A fabric whose one port, at cluster 0's station, leads to the last part and the last switch. -/
def srcFab : Fabric :=
  { members := [0, 4095], route := [(4095, 1)], ports := (0, { linkUp := 8, sw := 255 }) :: (upto 1 31).map fun p => (p, { circuit := true, linkUp := 0 }) }

/-- An operation on it that reads page 0. -/
def srcTask (k : OpKind) (ue : List Nat) : State :=
  { (opTask k) with
    ops := [{ op0 k with pages := List.range 8 }], thyme := [(5 * 1024, BitVec.ofNat 32 (2 ^ 31 + 4 * 2 ^ 22))], spUe := ue, fab := srcFab }

/-- A fabric store and a contribution of the first sector of page 0. -/
def fst1 (mc : Bool) : FstOp := { fst0 mc false with src := BitVec.ofNat 64 localBase }
def rsto1 : RstoOp := { dst := 0, src := BitVec.ofNat 64 localBase, handle := 255 * 2 ^ 20, count := 16, segs := [] }

theorem fst1_ports (k : OpKind) (mc : Bool) (ue : List Nat) : fstPorts (srcTask k ue) (fst1 mc) = fun _ => [0] := by
  have h : ∀ l, pathTo (srcTask k ue) 4095 l = some (0, 3) := fun l =>
    one_path (s := { State.reset with fab := srcFab }) (by decide) (by decide +kernel) (by decide +kernel) l
  have n : nearDests (srcTask k ue) (fst1 mc) = [] := by
    simp [nearDests, fst1, fst0, show (srcTask k ue).fab.part = 0 from rfl]
  have e : (fst1 mc).dests = [4095] := rfl
  funext i; simp only [fstPorts, n, e]; simp [h]

theorem rsto1_ports (k : OpKind) (ue : List Nat) : rstoPorts (srcTask k ue) rsto1 = [0] := by
  have h : ((List.range 32).filter fun p => !(({ State.reset with fab := srcFab } : State).port p).circuit &&
      (({ State.reset with fab := srcFab } : State).port p).sw == fld rsto1.handle.toNat 27 20) = [0] := by decide +kernel
  replace h : ((List.range 32).filter fun p => !((srcTask k ue).port p).circuit && ((srcTask k ue).port p).sw == fld rsto1.handle.toNat 27 20) = [0] := h
  have u : linksUp ((srcTask k ue).port 0) = [3] := by
    have : linksUp (({ State.reset with fab := srcFab } : State).port 0) = [3] := by decide +kernel
    exact this
  simp only [rstoPorts, switchPath]
  rw [h]; simp [portPath, Nat.mod_one, u]

/-- What the two wait for is there, and what they read is good, or bad. -/
theorem witness_TicketsAndReductions_sources :
    (∀ mc : Bool, let o : Op := { op0 (.fst (fst1 mc)) with pages := List.range 8 }; let s := srcTask (.fst (fst1 mc)) [];
      s.op? s.arg.a = some o ∧ satHome s o.win = true ∧ sourceWaits s o localBase 64 = false ∧ (fillGate s (opPages o localBase 64)).isNone = true ∧
        sourceWay s o localBase 64 (fun _ => [0]) = true) ∧
    (∀ ue ∈ [[], [0]], let o : Op := { op0 (.rsto rsto1) with pages := List.range 8 }; let s := srcTask (.rsto rsto1) ue;
      s.op? s.arg.a = some o ∧ satHome s o.win = true ∧ sourceWaits s o localBase 64 = false ∧ (fillGate s (opPages o localBase 64)).isNone = true ∧
        sourceWay s o localBase 64 (fun _ => [0]) = true ∧ (readAscending o.who false o.win 1 localBase s).2.2.isNone = ue.isEmpty) ∧
    (∀ d ∈ [[255], [254]], let m : FSend := { id := 7, op := 50, piece := 0, part := 255, port := 0, link := 3, kind := 10, dests := d, departed := some 0, req := {} };
      let s := { (atTask) with fab := { srcFab with members := [0, 255], sends := [m] }, arg := { a := 7 } };
      s.fab.sends.find? (·.id == s.arg.a) = some m ∧ m.dests.any (peerGone s) = decide (d = [254])) := by decide +kernel

/-- The last ticket number; a ticket to call, and one called 1 µs ago; the last slot of the last switch; both ends of a contribution. -/
theorem witness_TicketsAndReductions_slots :
    (let k : OpKind := .tkget 0 31 1; let s := { (opTask k) with fab := { ports := [(31, { nextTk := 4095 })] } };
      s.arg.a ≠ 0 ∧ s.op? s.arg.a = some (op0 k) ∧ s.fab.part = 0 ∧ freeTicket (s.port 31) = some 4095 ∧ s.holds? ⟨0, 1, 0, 1⟩ = true) ∧
    (let k : Ticket := { num := 4095, tmo := 1 }; let s := fabWith 31 { tickets := [k] } id;
      s.arg.a < 32 ∧ (s.port s.arg.a).tickets = [k] ∧ k.called = none ∧ 0 < (s.port s.arg.a).callmax) ∧
    (∀ c ∈ [none, some 0], let k : Ticket := { num := 4095, tmo := 1, called := c }; let s := { (opTask (.tkwait 0 31 4095)) with fab := { ports := [(31, { tickets := [k] })] } };
      s.op? s.arg.a = some (op0 (.tkwait 0 31 4095)) ∧ (s.port 31).tickets = [k] ∧ 50 ∉ k.waiters) ∧
    (let s := { (opTask (.tkget 0 31 1)) with fab := { ports := [(31, { tickets := (List.range 4096).map fun n => { num := n, tmo := 1 } })] } }; s.fab.part = 0) ∧
    (let k : Ticket := { num := 4095, tmo := 1, called := some 0 };
      let s := { (fabWith 31 { tickets := [k] } id) with now := 16000, arg := { a := 31, b := 4095 } };
      s.arg.a < 32 ∧ (s.port s.arg.a).tickets = [k] ∧ k.num = s.arg.b ∧ 0 + k.tmo * 4000 ≤ s.tick) ∧
    (let d : BitVec 512 := BitVec.ofNat 512 (255 * 2 ^ 312); let s := { (opTask (.rslot d)) with fab := { ports := [(31, { sw := 255 })] } };
      s.op? s.arg.a = some (op0 (.rslot d)) ∧ s.fab.drain = 0 ∧ swReached s (fld d.toNat 319 312) = true) ∧
    (∀ b : Bool, let x : RstoOp := { dst := 0, src := 0, handle := 0, count := 16, segs := [], data := List.replicate 64 1, read := true };
      let s := { (opTask (.rsto x)) with fab := { red := [(0, { busy := b, desc := BitVec.ofNat 512 3 })] } };
      s.op? s.arg.a = some (op0 (.rsto x)) ∧ x.arrived = false ∧ s.fab.sends = [] ∧
        (contribute (s.setOp 50 (.rsto { x with arrived := true })) 0 50 0 x.data).2.isNone = b) ∧
    (let s := { atTask with fab := { red := [(4095, { busy := true, due := 0, gen := 255 })] }, arg := { a := 4095 } };
      (tget ({} : RedSlot) s.fab.red s.arg.a).busy = true ∧ (tget ({} : RedSlot) s.fab.red s.arg.a).due ≤ s.tick) ∧
    (let x : RstoOp := { dst := 0, src := 0, handle := 0, count := 16, segs := [⟨.dev 0x20000, 64⟩], result := some (List.replicate 64 1) };
      let s := opTask (.rsto x); s.op? s.arg.a = some (op0 (.rsto x)) ∧ heldSegs s (op0 (.rsto x)) x.segs = false ∧
        (∀ g ∈ x.segs, marked s g.loc g.len = false) ∧ partBad s x.segs = none) ∧
    [(0x80000000 : BitVec 32), 0x7FFFFFFF, 0xFFFFFFFF] ≠ [] := by decide +kernel

/-! #### The whole machine -/

/-- A well-formed instruction of each slot, and the words that mean them. -/
theorem witness_RoundTrip : (∃ sl w, (Instr.add { sr with d := 63, a := 63, b := 63 }).wf = true ∧ encode (.add { sr with d := 63, a := 63, b := 63 }) = some (sl, w)) ∧
    ∃ sl w, (Instr.vadd { vo with fmt := 8, d := 12 }).wf = true ∧ encode (.vadd { vo with fmt := 8, d := 12 }) = some (sl, w) :=
  ⟨⟨_, _, by decide +kernel, rfl⟩, _, _, by decide +kernel, rfl⟩

theorem witness_DecodedWords : ∃ i, decodeSlot .s 0x01EB2D6840000001 = .ok i := ⟨_, rfl⟩

/-- The part with `add s3, s1, s2` at the pc of a task whose bundle is next. -/
def oneAdd : State := State.reset.withFetchWord 128 (0x00100041 + 0x01700C1080000000 * 2 ^ 64)

/-- A word that was fetched. -/
def wordOf : Except (Flt × List Seg) Word → Option Word
  | .ok w => some w
  | .error _ => none

theorem wordOf_ok {x : Except (Flt × List Seg) Word} {w : Word} (h : wordOf x = some w) : x = .ok w := by
  cases x with
  | ok => rw [wordOf] at h; rw [Option.some.inj h]
  | error => cases h

/-- The state of its turn, and what its fetch sees. -/
def addTurn : State := { oneAdd with agenda := [], now := 3, arg := { a := 0 } }
def addFetch : State := (landDue addTurn 0 false).modCtx 0 fun c => { c with sg := c.s }

theorem witness_StepRunsDecoded_bundle :
    oneAdd.agenda = [{ dt := 3, ev := .bundleIssue, arg := { a := 0 } }] ∧ canIssue addTurn 0 = true ∧
    (let c := (landDue addTurn 0 false).ctx 0
     c.group = [] ∧ c.rep = 0 ∧ c.sticky = [] ∧ c.wakeFault = none ∧ lateDue (landDue addTurn 0 false) 0 = none ∧ c.pc = 0x10000) ∧
    fetchWord addFetch 0 0x10000 = .ok 0x00100041 ∧
    (∃ h, decodeHeader false 0x00100041 = some h ∧ presSlots h.pres = [.s] ∧
      checkBundle (touchXlat addFetch (addFetch.who 0) 0x10000 16) 0 h 0 [(.s, 0x01700C1080000000)] = []) ∧
    fetchWord addFetch 0 0x10008 = .ok 0x01700C1080000000 ∧ ∃ i, decodeSlot .s 0x01700C1080000000 = .ok i :=
  ⟨by decide +kernel, by decide +kernel, by decide +kernel, wordOf_ok (by decide +kernel), ⟨_, rfl, by decide +kernel, by decide +kernel⟩,
    wordOf_ok (by decide +kernel), _, rfl⟩

/-- A turn of an engine, and an empty agenda. -/
theorem witness_StepRunsDecoded_events :
    (let t : Turn := { dt := 4000, ev := .powerRampStep }; let s := { State.reset with agenda := [t] };
      s.agenda = t :: [] ∧ t.ev ≠ .bundleIssue ∧ encode t.ev = none) ∧ State.reset.agenda = [] := by decide +kernel

theorem witness_HeldUntilCommit : (encode (.st { sm with ty := 4, base := 2 })).isSome = true ∧
    ∃ t, exec (.st { sm with ty := 4, base := 2 }) atTask = .next t := ⟨by decide +kernel, _, rfl⟩

theorem witness_MemWfKept : atTask.MemWf := ⟨by decide +kernel, by decide +kernel, by decide +kernel, by decide +kernel⟩

/-- Witnesses of every scope, null ones among them. -/
theorem witness_MergeAlgebra : wNull 0 = true ∧ wNull (2 ^ 62) = false ∧ wNull (2 ^ 64 - 1) = false ∧ wPsn (2 ^ 62) = false ∧ wWin (2 ^ 64 - 1) = true := by
  decide +kernel

/-- A task with a handler on whose bundle the last slot, or the header, faulted. -/
theorem witness_PreciseTrap :
    (let f : Flt := { cls := 1, code := 7, mask := 32 }
     let s := { (taskWith fun c => { c with lb := { c.lb with handler := 0x20000 } }) with
       iss := { on := true, cid := 0, pc := 0x10000, len := 16, flts := [(.c1, f)] }, arg := { a := 0 } }
     s.iss.on = true ∧ s.iss.cid = s.arg.a ∧ s.iss.marks = [] ∧ (s.ctx 0).resume = none ∧ (s.ctx 0).lb.handler ≠ 0 ∧ s.iss.hdr = none ∧
       s.iss.stall = false ∧ f.cls ≠ 6 ∧ (∀ p ∈ s.iss.flts, p = (.c1, f) ∨ slotNo .c1 < slotNo p.1) ∧
       ∀ x ∈ [Slot.s, .v0, .v1, .m, .c0, .c1], (2 ^ slotNo .c1).testBit (slotNo x) = s.iss.flts.any (·.1 == x)) ∧
    (let f : Flt := { cls := 0, code := 1, mask := 0 }
     let s := { (taskWith fun c => { c with lb := { c.lb with handler := 0x20000 } }) with
       iss := { on := true, cid := 0, pc := 0x10000, len := 8, hdr := some f }, arg := { a := 0 } }
     s.iss.on = true ∧ s.iss.cid = s.arg.a ∧ s.iss.marks = [] ∧ (s.ctx 0).resume = none ∧ (s.ctx 0).lb.handler ≠ 0 ∧ s.iss.hdr = some f ∧
       f.cls ≠ 6) ∧
    (let f : Flt := { cls := 6, code := 33, mask := 1 }
     let s := { (atStream.modIfc 0 fun i => { i with handler := 0x20000 }) with
       iss := { on := true, cid := 8192, pc := 0x10000, len := 8, hdr := some f }, arg := { a := 8192 } }
     s.iss.cid = s.arg.a ∧ isStream s.arg.a = true ∧ (unland (s.ctx 8192)).resume = none ∧ (s.ifc (unland (s.ctx 8192)).ifc).handler ≠ 0 ∧
       s.iss.hdr = some f) := by decide +kernel

/-- The last byte of a stack of HBM and of a DDR channel. -/
theorem witness_SliceHash : 11 * 2 ^ 36 ≤ 12 * 2 ^ 36 - 1 ∧ 12 * 2 ^ 36 - 1 < 12 * 2 ^ 36 ∧ 2 ^ 44 + 7 * 2 ^ 38 ≤ 2 ^ 44 + 8 * 2 ^ 38 - 1 := by decide

theorem witness_E8m0AndTernary : 254 < 255 := by decide

end Sys2Proof.Tests
end

section
/-! From part reset to accepting starts (R8, R440, R442, R24): what each step of the start-up does, and how the writes to ENTRY that were
held take effect one interface after the other. -/
namespace Sys2Proof.Machine

/-! ### Tables and interfaces -/

/-- A table whose every value is mapped reads the mapped value, the default's included. -/
theorem tget_map {α β : Type} (f : α → β) (d : α) (t : Tbl α) (k : Nat) :
    tget (f d) (t.map fun p => (p.1, f p.2)) k = f (tget d t k) := by
  have keys : (fun p : Nat × β => p.1 == k) ∘ (fun p : Nat × α => (p.1, f p.2)) = fun p => p.1 == k := rfl
  unfold tget
  rw [List.find?_map, keys]
  cases t.find? (·.1 == k) with
  | none => rfl
  | some p => rfl

/-- What a table holds after a write is the new entry or an entry from before. -/
theorem mem_tput {α : Type} {t : Tbl α} {k : Nat} {v : α} {p : Nat × α} (h : p ∈ tput t k v) : p ∈ t ∨ p = (k, v) := by
  simp only [tput, List.mem_append, List.mem_cons, List.mem_filter] at h
  rcases h with ⟨hp, -⟩ | rfl | ⟨hp, -⟩
  · exact .inl hp
  · exact .inr rfl
  · exact .inl hp

theorem modIfc_ifc_other (s : State) (n m : Nat) (f : Ifc → Ifc) (h : m ≠ n) : (s.modIfc n f).ifc m = s.ifc m :=
  tget_tput_other _ _ _ _ _ h

/-! ### The platform and the device time, which no start of a stream changes -/

/-- The platform's registers and the two counts behind the device time. -/
def State.clock (s : State) : Platform × Nat × Nat := (s.plat, s.now, s.tickBase)

theorem clock_eq_iff {s t : State} : t.clock = s.clock ↔ t.plat = s.plat ∧ t.now = s.now ∧ t.tickBase = s.tickBase := by
  simp only [State.clock, Prod.mk.injEq]

@[simp] theorem clock_setCtx (s : State) (c : Nat) (x : Ctx) : (s.setCtx c x).clock = s.clock := rfl
@[simp] theorem clock_ctxs (s : State) (x : Tbl Ctx) : ({ s with ctxs := x } : State).clock = s.clock := rfl
@[simp] theorem clock_modCtx (s : State) (c : Nat) (f : Ctx → Ctx) : (s.modCtx c f).clock = s.clock := rfl
@[simp] theorem clock_modCore (s : State) (n : Nat) (f : Core → Core) : (s.modCore n f).clock = s.clock := rfl
@[simp] theorem clock_modStn (s : State) (n : Nat) (f : Station → Station) : (s.modStn n f).clock = s.clock := rfl
@[simp] theorem clock_modIfc (s : State) (n : Nat) (f : Ifc → Ifc) : (s.modIfc n f).clock = s.clock := rfl
@[simp] theorem clock_newId (s : State) : s.newId.2.clock = s.clock := rfl

theorem clock_foldl {α : Type} (f : State → α → State) (h : ∀ t x, (f t x).clock = t.clock) (l : List α) (s : State) :
    (l.foldl f s).clock = s.clock := by
  induction l generalizing s with
  | nil => rfl
  | cons x l ih => exact (ih _).trans (h s x)

theorem clock_sweepPages (s : State) (st : Nat) : (sweepPages s st).clock = s.clock := by
  simp only [sweepPages, clock_modStn]
  split <;> rfl

theorem clock_returnPages (s : State) (cid : Nat) : (returnPages s cid).clock = s.clock := by
  simp only [returnPages, clock_sweepPages, clock_modStn, clock_modCtx]

theorem clock_freeCtx (s : State) (cid : Nat) : (freeCtx s cid).clock = s.clock := by
  simp only [freeCtx, reviewL1, clock_modStn, clock_ctxs, clock_modCore, clock_returnPages]

theorem clock_thaw (s : State) (i : Nat) : (thaw s i).clock = s.clock := clock_foldl freeCtx clock_freeCtx _ s

theorem clock_startStream (s : State) (i : Nat) (v : Word) : (startStream s i v).clock = s.clock := by
  simp only [startStream, clock_modIfc, clock_setCtx, clock_newId]
  split
  · exact clock_thaw s i
  · rfl

theorem clock_entryWrite (s : State) (i : Nat) (v : Word) : (entryWrite s i v).clock = s.clock := by
  unfold entryWrite
  split
  · rfl
  · split
    · rfl
    · exact clock_startStream s i v

/-! ### A write to ENTRY where nothing is frozen -/

/-- No interface and no context is frozen, so that no start of a stream thaws anything (R422). -/
def Unfrozen (s : State) : Prop := ∀ i, (s.ifc i).frozen = false ∧ frozenCtxs s i = []

/-- The stream of an interface that is not frozen just started at an address (R410, R411). -/
def started (s : State) (i : Nat) (v : Word) : State :=
  ({ s with nextId := s.nextId + 1 }.setCtx (8192 + i) { st := .running, uid := s.nextId, ifc := i, pc := v, lastTry := s.now }).modIfc i
    fun x => { x with run := true, entry := v, heldEntry := none }

theorem startStream_of_not_frozen {s : State} {i : Nat} (v : Word) (h : (s.ifc i).frozen = false) : startStream s i v = started s i v := by
  simp only [startStream, h]
  rfl

theorem started_ifc (s : State) (i : Nat) (v : Word) :
    (started s i v).ifc i = { s.ifc i with run := true, entry := v, heldEntry := none } := modIfc_ifc _ _ _

theorem started_ctx (s : State) (i : Nat) (v : Word) : (started s i v).ctx (8192 + i) =
    { st := .running, uid := s.nextId, ifc := i, pc := v, lastTry := s.now } := setCtx_ctx _ _ _

theorem entryWrite_of_running {s : State} {i : Nat} (v : Word) (h : (s.ifc i).run = true) :
    entryWrite s i v = s.modIfc i fun x => { x with heldEntry := none } := by
  rw [entryWrite, if_pos h]

theorem entryWrite_of_stopped {s : State} {i : Nat} (v : Word) (hb : s.plat.boot = 3) (hu : Unfrozen s) (h : (s.ifc i).run = false) :
    entryWrite s i v = started s i v := by
  obtain ⟨hf, hc⟩ := hu i
  have hd : dumpsOpen s i = false := by rw [dumpsOpen, hc]; rfl
  rw [entryWrite, if_neg (by simp [h]), if_neg (by simp [hb, hd]), startStream_of_not_frozen v hf]

theorem unfrozen_modIfc {s : State} (i : Nat) {f : Ifc → Ifc} (hf : ∀ x, (f x).frozen = x.frozen) (h : Unfrozen s) :
    Unfrozen (s.modIfc i f) := by
  intro j
  refine ⟨?_, (h j).2⟩
  by_cases e : j = i
  · rw [e, modIfc_ifc, hf]
    exact (h i).1
  · rw [modIfc_ifc_other s i j f e]
    exact (h j).1

theorem unfrozen_setCtx {s : State} (c : Nat) {x : Ctx} (hx : x.st ≠ .frozen) (h : Unfrozen s) : Unfrozen (s.setCtx c x) := by
  intro j
  obtain ⟨hf, hc⟩ := h j
  refine ⟨hf, ?_⟩
  simp only [frozenCtxs, List.map_eq_nil_iff, List.filter_eq_nil_iff] at hc ⊢
  intro p hp
  rcases mem_tput hp with hp | rfl
  · exact hc p hp
  · simp [hx]

/-! ### A held write to ENTRY takes effect -/

/-- The write to ENTRY that an interface holds, if it holds one, takes effect (R440). -/
def takeHeld (s : State) (i : Nat) : State :=
  match (s.ifc i).heldEntry with
  | some v => entryWrite s i v
  | none => s

theorem takeHeld_none {s : State} {i : Nat} (h : (s.ifc i).heldEntry = none) : takeHeld s i = s := by
  simp only [takeHeld, h]

theorem takeHeld_some {s : State} {i : Nat} {v : Word} (h : (s.ifc i).heldEntry = some v) : takeHeld s i = entryWrite s i v := by
  simp only [takeHeld, h]

theorem clock_takeHeld (s : State) (i : Nat) : (takeHeld s i).clock = s.clock := by
  cases h : (s.ifc i).heldEntry with
  | none => rw [takeHeld_none h]
  | some v => rw [takeHeld_some h, clock_entryWrite]

/-- The part accepts starts, and nothing is frozen. -/
def StartsFreely (s : State) : Prop := s.plat.boot = 3 ∧ Unfrozen s

/-- All that a held write can do: there is none, its stream runs already, or the stream starts. -/
theorem takeHeld_cases {s : State} (i : Nat) (h : StartsFreely s) :
    takeHeld s i = s ∨ (takeHeld s i = s.modIfc i fun x => { x with heldEntry := none }) ∨ ∃ v, takeHeld s i = started s i v := by
  cases hh : (s.ifc i).heldEntry with
  | none => exact .inl (takeHeld_none hh)
  | some v =>
    rw [takeHeld_some hh]
    cases hr : (s.ifc i).run with
    | true => exact .inr (.inl (entryWrite_of_running v hr))
    | false =>
      obtain ⟨hb, hu⟩ := h
      exact .inr (.inr ⟨v, entryWrite_of_stopped v hb hu hr⟩)

theorem startsFreely_takeHeld {s : State} (i : Nat) (h : StartsFreely s) : StartsFreely (takeHeld s i) := by
  obtain ⟨hb, hu⟩ := h
  refine ⟨(congrArg Platform.boot (clock_eq_iff.mp (clock_takeHeld s i)).1).trans hb, ?_⟩
  rcases takeHeld_cases i ⟨hb, hu⟩ with e | e | ⟨v, e⟩
  · rw [e]; exact hu
  · rw [e]; exact unfrozen_modIfc i (fun _ => rfl) hu
  · rw [e]; exact unfrozen_modIfc i (fun _ => rfl) (unfrozen_setCtx (8192 + i) (by simp) hu)

/-- The page of an interface and the context of its stream stand as they did. -/
def SameStream (i : Nat) (s t : State) : Prop := t.ifc i = s.ifc i ∧ t.ctx (8192 + i) = s.ctx (8192 + i)

theorem SameStream.trans {i : Nat} {s t u : State} (h : SameStream i s t) (k : SameStream i t u) : SameStream i s u :=
  ⟨k.1.trans h.1, k.2.trans h.2⟩

theorem sameStream_takeHeld_other {s : State} {i j : Nat} (h : StartsFreely s) (hj : i ≠ j) : SameStream i s (takeHeld s j) := by
  rcases takeHeld_cases j h with e | e | ⟨v, e⟩
  · rw [e]; exact ⟨rfl, rfl⟩
  · rw [e]; exact ⟨modIfc_ifc_other _ _ _ _ hj, rfl⟩
  · rw [e]; exact ⟨modIfc_ifc_other _ _ _ _ hj, setCtx_ctx_other _ _ _ _ (by omega)⟩

/-! ### The held writes of a list of interfaces -/

theorem foldl_takeHeld_none {s : State} (l : List Nat) (h : ∀ i ∈ l, (s.ifc i).heldEntry = none) : l.foldl takeHeld s = s := by
  induction l with
  | nil => rfl
  | cons i l ih =>
    rw [List.foldl_cons, takeHeld_none (h i List.mem_cons_self)]
    exact ih fun j hj => h j (List.mem_cons_of_mem i hj)

theorem startsFreely_foldl {s : State} (l : List Nat) (h : StartsFreely s) : StartsFreely (l.foldl takeHeld s) :=
  List.foldlRecOn l takeHeld h fun _ ht i _ => startsFreely_takeHeld i ht

theorem sameStream_foldl_of_notMem {s : State} {i : Nat} {l : List Nat} (h : StartsFreely s) (hi : i ∉ l) :
    SameStream i s (l.foldl takeHeld s) := by
  induction l generalizing s with
  | nil => exact ⟨rfl, rfl⟩
  | cons j l ih =>
    obtain ⟨hj, hl⟩ := List.ne_and_not_mem_of_not_mem_cons hi
    exact (sameStream_takeHeld_other h hj).trans (ih (startsFreely_takeHeld j h) hl)

/-- An interface named once takes its held write in a state `u` in which its stream stands as it did at first, and the interfaces after
it leave what it then has. -/
theorem foldl_takeHeld_at {s : State} {i : Nat} {l : List Nat} (h : StartsFreely s) (hn : l.Nodup) (hi : i ∈ l) :
    ∃ u, StartsFreely u ∧ SameStream i s u ∧ SameStream i (takeHeld u i) (l.foldl takeHeld s) := by
  obtain ⟨before, after, rfl⟩ := List.append_of_mem hi
  obtain ⟨hb, ha⟩ : i ∉ before ∧ i ∉ after := by
    simp only [List.nodup_append, List.nodup_cons, List.mem_cons] at hn
    obtain ⟨-, ⟨ha, -⟩, apart⟩ := hn
    exact ⟨fun hm => apart i hm i (.inl rfl) rfl, ha⟩
  have hu := startsFreely_foldl before h
  refine ⟨before.foldl takeHeld s, hu, sameStream_foldl_of_notMem h hb, ?_⟩
  rw [List.foldl_append, List.foldl_cons]
  exact sameStream_foldl_of_notMem (startsFreely_takeHeld i hu) ha

/-! ### The steps of the start-up -/

/-- What a part reset leaves of a core (R8): its repair fuses. -/
def fusesLeft (k : Core) : Core := { gone0 := k.gone0, gone1 := k.gone1, goneAcc := k.goneAcc, goneTd := k.goneTd }

theorem exec_firmwareVerify_at_boot {s : State} (h : s.plat.boot = 0) :
    let img : List Byte := s.arg.list.map fun b => BitVec.ofNat 8 b
    exec .firmwareVerify s = .next (s.modPlat fun p =>
      { p with
        boot := if imageVerifies p.root img = true ∧ p.antiRoll ≤ imageVersion img then 1 else 2
        bootAt := s.now
        image := img
        imageOk := imageVerifies p.root img
        imageDigest := sha512 (imageBody img) }) := by
  intro img
  change execFirmwareVerify s = _
  simp only [execFirmwareVerify, img, h, ne_eq, not_true_eq_false, if_false, Bool.and_eq_true, decide_eq_true_eq]

theorem exec_firmwareVerify_later {s : State} (h : s.plat.boot ≠ 0) : exec .firmwareVerify s = .next s := by
  change execFirmwareVerify s = _
  rw [execFirmwareVerify, if_pos h]

theorem imageVerifies_iff (root img : List Byte) : imageVerifies root img = true ↔ root = [] ∨
    (sha512 (img.take 512) = root ∧ pssVerify (beNat (img.take 512)) (img.drop 1024) ((img.drop 512).take 512) = true) := by
  simp only [imageVerifies, imageBody, Bool.or_eq_true, List.isEmpty_iff, Bool.and_eq_true, beq_iff_eq]

theorem exec_clusterStart_idle {s : State}
    (h : s.plat.boot ≠ 1 ∨ 256 ≤ s.plat.clusters ∨ s.now < s.plat.bootAt + 16000 * s.plat.clusters) :
    exec .clusterStart s = .next s := by
  change execClusterStart s = _
  rw [execClusterStart, if_pos (by simpa [bootDue] using h)]

theorem exec_clusterStart_due {s : State} (hb : s.plat.boot = 1) (hn : s.plat.clusters < 256)
    (hd : s.plat.bootAt + 16000 * s.plat.clusters ≤ s.now) :
    exec .clusterStart s = .next (s.modPlat fun p =>
      if s.plat.clusters = 255 then { p with clusters := 256, arrays := true, arraysAt := s.now, eighths := 1 }
      else { p with clusters := s.plat.clusters + 1 }) := by
  change execClusterStart s = _
  rw [execClusterStart, if_neg (by simpa [bootDue, hb, hd] using hn)]

theorem exec_powerRampStep_idle {s : State}
    (h : s.plat.arrays = false ∨ 8 ≤ s.plat.eighths ∨ s.now < s.plat.arraysAt + 2048000 + 256000 * (s.plat.eighths - 1)) :
    exec .powerRampStep s = .next s := by
  change execPowerRampStep s = _
  rw [execPowerRampStep, if_pos (by simpa using h)]

theorem exec_powerRampStep_due {s : State} (ha : s.plat.arrays = true) (he : s.plat.eighths < 8)
    (hd : s.plat.arraysAt + 2048000 + 256000 * (s.plat.eighths - 1) ≤ s.now) :
    exec .powerRampStep s = .next { s with plat := { s.plat with eighths := s.plat.eighths + 1 } } := by
  change execPowerRampStep s = _
  rw [execPowerRampStep, if_neg (by simpa [ha] using ⟨he, hd⟩)]
  rfl

/-- The part has taken its device time and accepts starts, and the held writes still wait (R24, R440). -/
def startsAccepted (s : State) : State :=
  let t := max s.tick (s.arg.a % 2 ^ 60)
  { s with tickBase := t - s.now, fab := { s.fab with windowN := t / s.fab.window }, plat := { s.plat with boot := 3 } }

theorem exec_acceptStarts_idle {s : State} (h : s.plat.boot ≠ 1 ∨ s.plat.eighths < 8) : exec .acceptStarts s = .next s := by
  change execAcceptStarts s = _
  rw [execAcceptStarts, if_pos h]

theorem exec_acceptStarts_due {s : State} (hb : s.plat.boot = 1) (he : 8 ≤ s.plat.eighths) :
    exec .acceptStarts s = .next ((List.range 64).foldl takeHeld (startsAccepted s)) := by
  change execAcceptStarts s = _
  rw [execAcceptStarts, if_neg (by omega)]
  rfl

/-- The 64 interfaces in turn: one that holds no write stays, and one that is stopped starts at the value that it holds. -/
theorem takeHeld_interfaces {s : State} (h : StartsFreely s) {i : Nat} (hi : i < 64) :
    let t := (List.range 64).foldl takeHeld s
    ((s.ifc i).heldEntry = none → t.ifc i = s.ifc i ∧ t.ctx (8192 + i) = s.ctx (8192 + i)) ∧
    ∀ v, (s.ifc i).heldEntry = some v → (s.ifc i).run = false →
      t.ifc i = { s.ifc i with run := true, entry := v, heldEntry := none } ∧
      (t.ctx (8192 + i)).st = .running ∧ (t.ctx (8192 + i)).ifc = i ∧ (t.ctx (8192 + i)).pc = v := by
  obtain ⟨u, ⟨hb, hu⟩, ⟨hui, huc⟩, hti, htc⟩ := foldl_takeHeld_at h List.nodup_range (List.mem_range.mpr hi)
  refine ⟨fun hh => ?_, fun v hh hr => ?_⟩
  · rw [hti, htc, takeHeld_none (hui ▸ hh)]
    exact ⟨hui, huc⟩
  · have hs : takeHeld u i = started u i v := by
      rw [takeHeld_some (hui ▸ hh), entryWrite_of_stopped v hb hu (hui ▸ hr)]
    rw [hti, htc, hs, started_ifc, started_ctx, hui]
    exact ⟨rfl, rfl, rfl, rfl⟩

/-- Settles O25: each step of the start-up by its own lemma, and the held writes one interface after the other. -/
theorem startUp : Obligations.StartUp := by
  unfold Obligations.StartUp
  intro s img
  refine ⟨⟨_, rfl, fun _ => rfl, fun _ => rfl, tget_map fusesLeft {} s.cores, rfl, rfl, rfl, rfl, rfl, rfl⟩,
    exec_firmwareVerify_at_boot, imageVerifies_iff s.plat.root img, exec_firmwareVerify_later, ?_, exec_clusterStart_idle,
    exec_powerRampStep_due, exec_powerRampStep_idle, exec_acceptStarts_idle, ?_⟩
  · refine fun hb hd => ⟨fun hn => ?_, fun hn => ?_⟩
    · simp only [exec_clusterStart_due hb (by omega) hd, if_neg (Nat.ne_of_lt hn)]
      rfl
    · simp only [exec_clusterStart_due hb (by omega) hd, if_pos hn]
      rfl
  · intro hb he
    obtain ⟨hp, hnow, htb⟩ := clock_eq_iff.mp (clock_foldl takeHeld clock_takeHeld (List.range 64) (startsAccepted s))
    refine ⟨_, exec_acceptStarts_due hb he, congrArg Platform.boot hp, hnow, htb, fun hh => ?_,
      fun hu i hi => takeHeld_interfaces (s := startsAccepted s) ⟨rfl, hu⟩ hi⟩
    rw [foldl_takeHeld_none (s := startsAccepted s) (List.range 64) fun i hi => hh i (List.mem_range.mp hi)]
    exact ⟨rfl, rfl, rfl⟩

end Sys2Proof.Machine
end

section
/-! Where the statement on notices fails (R367): only a notice of or for another part ever leaves a port's table, and the statement asks
it of every notice whose number stands there. -/
namespace Sys2Proof.Machine

@[simp] theorem modPort_port (s : State) (p : Nat) (f : FPort → FPort) : (s.modPort p f).port p = f (s.port p) := tget_tput_self _ _ _ _

/-- After a notice has left its port's table, its number stands there exactly if it did and the notice stays within the part. -/
theorem mem_notices_leaveTable (s : State) (id : Nat) (n : Notice) :
    id ∈ ((leaveTable s id n).port n.port).notices ↔ n.rem = false ∧ id ∈ (s.port n.port).notices := by
  unfold leaveTable
  cases n.rem with
  | false => simp
  | true => simp

/-- The consumer's station has accepted a forwarded notice (R367): all that happens is that the notice leaves the table. -/
theorem exec_remoteNoticeForward_accepted {s : State} {o : Op} {n : Notice} (ha : s.arg.a ≠ 0) (ho : s.op? s.arg.a = some o)
    (hk : o.kind = .notice n) (hm : o.id ∈ (s.port n.port).notices) (hi : n.inc = false) (hf : s.arg.flag = true) (hs : n.st = 3) :
    exec .remoteNoticeForward s = .next (leaveTable s o.id n) := by
  change execRemoteNoticeForward s = _
  simp [execRemoteNoticeForward, ha, ho, hk, hm, hi, hf, hs]

/-- A notice within the part (`rem` is false) that has been forwarded. -/
def forwardedWithin : Notice :=
  { cons := 0, ctseq := 1, cifc := 0, idx := 0, tag := 0, size := 64, prio := 0, addr := 0, pcore := 0, puid := 1, pcid := 0, slot := 0,
    gen := 1, win := 0, rem := false, st := 3 }

def forwardedWithinOp : Op := { id := 1, own := { cid := 0, uid := 1 }, kind := .notice forwardedWithin }

/-- A part as after reset but for that notice, which stands in the table of port 0, and the event that tells of its acceptance. -/
def acceptedWithin : State :=
  { State.reset with
    nextId := 2, ops := [forwardedWithinOp], fab := { ports := [(0, { notices := [1] })] }, arg := { a := 1, flag := true } }

/-- Refutes O43: a notice within the part that stands in its port's table (`rem` is false) is still there once its consumer's station
has accepted it, where the last clause but one says that it has left. -/
theorem not_noticesRun : ¬ Obligations.NoticesRun := by
  unfold Obligations.NoticesRun
  intro h
  have ho : acceptedWithin.op? acceptedWithin.arg.a = some forwardedWithinOp := rfl
  have hm : forwardedWithinOp.id ∈ (acceptedWithin.port forwardedWithin.port).notices := by decide
  obtain ⟨-, -, -, -, -, forwards, -⟩ := h acceptedWithin
  obtain ⟨-, leaves, -⟩ := forwards forwardedWithinOp forwardedWithin (by decide) ho rfl
  obtain ⟨t, ht, hleft, -⟩ := leaves ⟨hm, rfl⟩ rfl rfl
  have hstep := exec_remoteNoticeForward_accepted (by decide) ho rfl hm rfl rfl rfl
  obtain rfl : leaveTable acceptedWithin forwardedWithinOp.id forwardedWithin = t := Host.Outcome.next.inj (hstep.symm.trans ht)
  exact hleft ((mem_notices_leaveTable _ _ _).mpr ⟨rfl, hm⟩)

end Sys2Proof.Machine
end

section
/-! What a vector word does once its sources are read and its destination may be written, for the words that write their destination
from their sources alone (R172, R173), and the register that such a word writes element by element. -/
namespace Sys2Proof.Machine

/-! ### A word with its sources read -/

theorem Held.now {s t : State} (h : Held s t) : t.now = s.now := by
  have e := congrArg State.now h.rest
  exact e

theorem Held.expired {s t : State} (h : Held s t) (v : VFile) (n : Nat) : Machine.expired t v n = Machine.expired s v n := by
  unfold Machine.expired State.cycle
  rw [h.now]

/-- Reading the sources of a word keeps the context that issues it. -/
theorem Sources.me {s t : State} {file : Bool} {w : Nat} {l : List (BitVec 11)} {vs : List VReg} (h : Sources s file w l t vs) :
    t.me = s.me := by
  obtain ⟨held, cid⟩ := h.held
  exact held.me cid

theorem Sources.destReady {s t : State} {f : VO} {w mask : Nat} {l : List (BitVec 11)} {vs : List VReg}
    (h : Sources s f.file w l t vs) (hd : DestReady s f mask) : DestReady t f mask := by
  unfold DestReady at hd ⊢
  rw [h.me, h.held.1.expired]
  exact hd

/-- A word that writes its destination from its sources alone lands what it makes of them and of the active lanes. -/
theorem vPure_ready {s t : State} {f : VO} {units lat : Nat} {src : List (BitVec 11)} {g : Word → List VReg → VRes} {vs : List VReg}
    (hs : Sources (s.charge units 0) f.file (fmtW f.fmt) src t vs) (hd : DestReady s f (g (voAct f s) vs).mask) :
    vPure s f units lat src g =
      vLands t f lat (fmtBits f.fmt (g (voAct f s) vs).val) (g (voAct f s) vs).mask (g (voAct f s) vs).fl := by
  have hact : voAct f t = voAct f s := congrArg (fun c : Ctx => actBits (c.qreg f.file f.qp.toNat) f.pn) hs.me
  unfold vPure vOp
  rw [readSrcs_ready hs, hact, landV_ready lat (hs.destReady hd)]

/-! ### Elements side by side in a number -/

/-- The numbers `d 0 … d (n - 1)` as digits of `w` bits, the lowest first. -/
def sideBySide (w : Nat) : Nat → (Nat → Nat) → Nat
  | 0, _ => 0
  | n + 1, d => sideBySide w n d + d n <<< (w * n)

theorem sideBySide_succ (w n : Nat) (d : Nat → Nat) : sideBySide w (n + 1) d = sideBySide w n d + d n * 2 ^ (w * n) :=
  congrArg (sideBySide w n d + ·) (Nat.shiftLeft_eq (d n) (w * n))

theorem sideBySide_lt {w : Nat} {d : Nat → Nat} (hd : ∀ k, d k < 2 ^ w) (n : Nat) : sideBySide w n d < 2 ^ (w * n) := by
  induction n with
  | zero => exact Nat.two_pow_pos _
  | succ n ih =>
    rw [sideBySide_succ]
    calc sideBySide w n d + d n * 2 ^ (w * n)
      _ < 2 ^ (w * n) + d n * 2 ^ (w * n) := Nat.add_lt_add_right ih _
      _ = (d n + 1) * 2 ^ (w * n) := by rw [Nat.succ_mul, Nat.add_comm]
      _ ≤ 2 ^ w * 2 ^ (w * n) := Nat.mul_le_mul_right _ (hd n)
      _ = 2 ^ (w * (n + 1)) := by rw [← Nat.pow_add, Nat.mul_succ, Nat.add_comm]

theorem sideBySide_element {w n k : Nat} {d : Nat → Nat} (hd : ∀ k, d k < 2 ^ w) (hk : k < n) :
    sideBySide w n d / 2 ^ (w * k) % 2 ^ w = d k := by
  induction n with
  | zero => exact absurd hk (Nat.not_lt_zero k)
  | succ n ih =>
    rw [sideBySide_succ]
    rcases Nat.lt_succ_iff_lt_or_eq.mp hk with hlt | rfl
    · obtain ⟨m, rfl⟩ := Nat.exists_eq_add_of_lt hlt
      have hplace : d (k + m + 1) * 2 ^ (w * (k + m + 1)) = 2 ^ (w * k) * (2 ^ w * (2 ^ (w * m) * d (k + m + 1))) := by
        rw [Nat.mul_comm, Nat.mul_succ, Nat.mul_add, Nat.pow_add, Nat.pow_add, Nat.mul_right_comm (2 ^ (w * k)), Nat.mul_assoc,
          Nat.mul_assoc]
      rw [hplace, Nat.add_mul_div_left _ _ (Nat.two_pow_pos _), Nat.add_mul_mod_self_left]
      exact ih hlt
    · rw [Nat.add_mul_div_right _ _ (Nat.two_pow_pos _), Nat.div_eq_of_lt (sideBySide_lt hd k), Nat.zero_add]
      exact Nat.mod_eq_of_lt (hd k)

/-- Bit `i` of elements side by side is a bit of element `i / w`. -/
theorem sideBySide_testBit {w n i : Nat} {d : Nat → Nat} (hw : 0 < w) (hd : ∀ k, d k < 2 ^ w) (hi : i < w * n) :
    (sideBySide w n d).testBit i = (d (i / w)).testBit (i % w) := by
  rw [← sideBySide_element hd (Nat.div_lt_of_lt_mul hi), Nat.testBit_mod_two_pow, Nat.testBit_div_two_pow, Nat.mod_add_div,
    decide_eq_true (Nat.mod_lt i hw), Bool.true_and]

/-! ### The element-wise form -/

theorem runE_succ (n w : Nat) (on : Nat → Bool) (dst ln : Nat → Nat) (rs : Bool) (gens : List (BitVec 16)) (fn : Nat → Nat → Rnd) :
    runE (n + 1) w on dst ln rs gens fn =
      let r := runE n w on dst ln rs gens fn
      let g := lfsr (r.gens.getD (ln n) 1)
      let x := fn n g.toNat
      if on n then
        ⟨r.val + (x.bits % 2 ^ w) <<< (w * dst n), r.mask + (2 ^ w - 1) <<< (w * dst n), r.fl ||| x.fl,
          if rs then r.gens.set (ln n) g else r.gens⟩
      else r := by
  unfold runE
  rw [List.range_succ, List.foldl_append]
  rfl

/-- Elements written each at its own place, with the generators left alone: the elements that are on stand side by side, and so do the
ones of their mask. -/
theorem runE_id (n w : Nat) (on : Nat → Bool) (ln : Nat → Nat) (gens : List (BitVec 16)) (fn : Nat → Nat → Rnd) :
    let r := runE n w on id ln false gens fn
    r.gens = gens ∧ r.mask = sideBySide w n (fun k => if on k then 2 ^ w - 1 else 0) ∧
      r.val = sideBySide w n (fun k => if on k then (fn k (lfsr (gens.getD (ln k) 1)).toNat).bits % 2 ^ w else 0) := by
  induction n with
  | zero => exact ⟨rfl, rfl, rfl⟩
  | succ n ih =>
    obtain ⟨hgens, hmask, hval⟩ := ih
    rw [runE_succ, sideBySide, sideBySide, ← hmask, ← hval, ← hgens]
    cases on n <;> simp [hgens]

theorem fmtW_dvd (fmt : BitVec 4) : fmtW fmt ∣ 32 := by
  revert fmt
  decide

/-- The lane of bit `i` is that of its element, for widths that divide the lane's. -/
theorem lane_of_element {w : Nat} (hw : w ∣ 32) (i : Nat) : i / w * w / 32 = i / 32 := by
  have hpos : 0 < w := Nat.pos_of_dvd_of_pos hw (by decide)
  obtain ⟨m, hm⟩ := hw
  rw [hm, ← Nat.div_div_eq_div_mul, Nat.mul_div_cancel _ hpos, Nat.div_div_eq_div_mul]

/-- The element-wise form writes exactly the active lanes, each element with the low bits of what was computed for it (R172). -/
theorem mapE_lanes {w : Nat} {act : Word} {gens : List (BitVec 16)} {fn : Nat → Nat → Rnd} {x : Nat → Nat} (hw : w ∣ 32)
    (h : ∀ k g, (fn k g).bits % 2 ^ w = x k) :
    Lanes w act (mapE w act false gens fn).val (mapE w act false gens fn).mask x := by
  have hpos : 0 < w := Nat.pos_of_dvd_of_pos hw (by decide)
  have hfull : w * (2048 / w) = 2048 := Nat.mul_div_cancel' (Nat.dvd_trans hw (by decide))
  have hones : ∀ k, (if activeE act w k then 2 ^ w - 1 else 0) < 2 ^ w := fun k => by
    have := Nat.two_pow_pos w
    split
    · omega
    · exact this
  have hdigits : ∀ k,
      (if activeE act w k then (fn k (lfsr (gens.getD (k * w / 32) 1)).toNat).bits % 2 ^ w else 0) < 2 ^ w := fun k => by
    split
    · exact Nat.mod_lt _ (Nat.two_pow_pos w)
    · exact Nat.two_pow_pos w
  obtain ⟨-, hmask, hval⟩ := runE_id (2048 / w) w (activeE act w) (fun k => k * w / 32) gens fn
  refine ⟨?_, fun i hi => ?_, fun k hk hact => ?_⟩
  · have hlt := sideBySide_lt hones (2048 / w)
    rw [hfull, ← hmask] at hlt
    exact hlt
  · have hbit := sideBySide_testBit (n := 2048 / w) (i := i) hpos hones (by rw [hfull]; exact hi)
    rw [← hmask, activeE, lane_of_element hw] at hbit
    refine hbit.trans ?_
    cases act.getLsbD (i / 32) with
    | false => exact Nat.zero_testBit _
    | true => simpa using Nat.mod_lt i hpos
  · have hel := sideBySide_element (n := 2048 / w) (k := k) hdigits hk
    rw [← hval] at hel
    refine hel.trans ?_
    rw [activeE, hact, if_pos rfl]
    exact h k _

/-- With all lanes active every bit is written. -/
theorem Lanes.full {w val mask : Nat} {act : Word} {x : Nat → Nat} (h : Lanes w act val mask x) (hact : act = BitVec.allOnes 64) :
    BitVec.ofNat 2048 mask = BitVec.allOnes 2048 := by
  obtain ⟨-, hbits, -⟩ := h
  refine BitVec.eq_of_getLsbD_eq fun i hi => ?_
  have hlane : i / 32 < 64 := by omega
  rw [BitVec.getLsbD_ofNat, hbits i hi, hact, BitVec.getLsbD_allOnes, BitVec.getLsbD_allOnes]
  simp [hi, hlane]

/-! ### Elements of a register -/

theorem elem_lt (w : Nat) (v : VReg) (k : Nat) : elem w v k < 2 ^ w := Nat.mod_lt _ (Nat.two_pow_pos w)

/-- A word of `w` bits as an integer under a signedness. -/
theorem intOf_toNat {w : Nat} (sg : Bool) (x : BitVec w) : intOf sg w x.toNat = if sg then x.toInt else (x.toNat : Int) := by
  unfold intOf
  rw [Nat.mod_eq_of_lt x.isLt, BitVec.toInt_eq_toNat_cond]
  by_cases h : 2 * x.toNat < 2 ^ w
  · simp [h, Nat.not_le.mpr h]
  · simp [h, Nat.not_lt.mp h]

/-- An element as an integer (R42). -/
theorem intOf_elem (sg : Bool) (w : Nat) (v : VReg) (k : Nat) : intOf sg w (elem w v k) = elVal sg w v k :=
  intOf_toNat sg (v.extractLsb' (w * k) w)

/-- What an exact result leaves in an element, wrapped or clamped (R179). -/
theorem iput_bits (sg : Bool) (w : Nat) (sat : Bool) (r : Int) : (iput sg w sat r).bits % 2 ^ w = elBits sg sat w r := by
  have hclamp : elBits sg sat w r = toBits w (if sat then clampInt sg w r else r) := by
    unfold elBits toBits clampInt minOf maxOf
    cases sg <;> simp [BitVec.toNat_ofInt]
  have hbits : (iput sg w sat r).bits = toBits w (if sat then clampInt sg w r else r) := by
    unfold iput
    cases sat with
    | false => simp
    | true => by_cases h : clampInt sg w r = r <;> simp [h]
  rw [hbits, ← hclamp]
  exact Nat.mod_eq_of_lt (BitVec.isLt _)

/-- What a move leaves in an element: the ternary code 0b10 reads as 0 (R81). -/
theorem copyE_bits (fmt : BitVec 4) {w x : Nat} (h : x < 2 ^ w) : (copyE fmt x).bits % 2 ^ w = if fmt = 6 ∧ x = 2 then 0 else x := by
  unfold copyE
  split
  · exact Nat.zero_mod _
  · exact Nat.mod_eq_of_lt h

end Sys2Proof.Machine
end

section
/-! The statements on the vector words that write their destination from their sources alone (R175–R181, R198, R199, R201, R205–R207):
the result of each word, and for the integer, logic, shift, select, permute and move words the elements of that result. -/
namespace Sys2Proof.Machine

/-- A row of a statement's table: a word, its sources, charge and latency, and what is said of its result. The word writes its
destination from its sources alone, and `P` holds of the result that it makes of them and of what is said. -/
abbrev MakesResult {α : Type} (s : State) (f : VO) (vs : List VReg) (P : VRes → α → Prop)
    (row : Instr × List (BitVec 11) × Nat × Nat × α) : Prop :=
  let (i, src, units, lat, x) := row
  ∃ g, exec i s = .next (vPure s f units lat src g) ∧ P (g (voAct f s) vs) x

/-! ### The elements that the words write -/

section
variable (fmt : BitVec 4) (sat : Bool) (act : Word)

/-- Integer results are those of exact arithmetic, wrapped or clamped into their elements (R179, R181). -/
theorem iput_lanes (z : Nat → Int) :
    let r := mapE (fmtW fmt) act false [] fun k _ => iput (fmtSg fmt) (fmtW fmt) sat (z k)
    Lanes (fmtW fmt) act r.val r.mask fun k => elBits (fmtSg fmt) sat (fmtW fmt) (z k) :=
  mapE_lanes (fmtW_dvd fmt) fun k _ => iput_bits _ _ _ (z k)

/-- Bits that fit their elements stand there as they are (R180, R198, R205). -/
theorem bits_lanes {x : Nat → Nat} (h : ∀ k, x k < 2 ^ fmtW fmt) :
    let r := mapE (fmtW fmt) act false [] fun k _ => ⟨x k, 0⟩
    Lanes (fmtW fmt) act r.val r.mask x :=
  mapE_lanes (fmtW_dvd fmt) fun k _ => Nat.mod_eq_of_lt (h k)

/-- Elements that a word moves stand there as they are, but for the ternary code 0b10 (R205, R207). -/
theorem copyE_lanes {x : Nat → Nat} (h : ∀ k, x k < 2 ^ fmtW fmt) :
    let r := mapE (fmtW fmt) act false [] fun k _ => copyE fmt (x k)
    Lanes (fmtW fmt) act r.val r.mask fun k => if fmt = 6 ∧ x k = 2 then 0 else x k :=
  mapE_lanes (fmtW_dvd fmt) fun k _ => copyE_bits fmt (h k)

/-- The complement of an element (R180). -/
theorem vLogic_not_lanes (a b : VReg) :
    let r := vLogic 3 fmt act a b
    Lanes (fmtW fmt) act r.val r.mask fun k => (~~~ a.extractLsb' (fmtW fmt * k) (fmtW fmt)).toNat := by
  simp only [BitVec.toNat_not]
  exact bits_lanes fmt act (x := fun k => 2 ^ fmtW fmt - 1 - elem (fmtW fmt) a k) fun k => by
    have := Nat.two_pow_pos (fmtW fmt)
    omega

/-- Half the elements of a register. -/
theorem half_elements (w : Nat) : 2048 / w / 2 = 1024 / w := by
  rw [Nat.div_div_eq_div_mul, Nat.mul_comm, ← Nat.div_div_eq_div_mul]

/-- `vzip` takes its elements from its two sources in turn (R205). -/
theorem vZip_lanes (h : Nat) (vs : List VReg) :
    let w := fmtW fmt
    let x := fun k => elem w (vs.getD (k % 2) 0) (h * (1024 / w) + k / 2)
    let r := vZip fmt h act (vs.getD 0 0) (vs.getD 1 0)
    Lanes w act r.val r.mask fun k => if fmt = 6 ∧ x k = 2 then 0 else x k := by
  intro w x r
  have hsrc : ∀ k, (if k % 2 = 0 then vs.getD 0 0 else vs.getD 1 0) = vs.getD (k % 2) 0 := fun k => by
    rcases Nat.mod_two_eq_zero_or_one k with hk | hk <;> simp [hk]
  have hr : r = mapE w act false [] fun k _ => copyE fmt (x k) := by
    simp only [r, vZip, hsrc, w, x, half_elements]
  rw [hr]
  exact copyE_lanes fmt act fun k => elem_lt _ _ _

/-- `vuzp` takes every second element, of its first source and then of its second (R205). -/
theorem vUzp_lanes (h : Nat) (a b : VReg) :
    let w := fmtW fmt
    let x := fun k => if k < 1024 / w then elem w a (2 * k + h) else elem w b (2 * (k - 1024 / w) + h)
    let r := vUzp fmt h act a b
    Lanes w act r.val r.mask fun k => if fmt = 6 ∧ x k = 2 then 0 else x k := by
  intro w x r
  have hr : r = mapE w act false [] fun k _ => copyE fmt (x k) := by
    simp only [r, vUzp, w, x, half_elements]
  rw [hr]
  exact copyE_lanes fmt act fun k => by
    simp only [x]
    split
    · exact elem_lt _ _ _
    · exact elem_lt _ _ _

end

/-! ### The statements -/

/-- Settles O15: every word makes its result element by element, so it writes exactly the active lanes. -/
theorem vectorElements : Obligations.VectorElements := by
  unfold Obligations.VectorElements
  intro f s t vs i src u lat x w act sg e z q tern hi hs hd
  have hz : ∀ n k, z n k = intOf sg w (elem w (vs.getD n 0) k) := fun n k => (intOf_elem sg w (vs.getD n 0) k).symm
  have word : MakesResult s f vs (fun r x => Lanes w act r.val r.mask x) (i, src, u, lat, x) := by
    refine (?_ : ∀ row ∈ _, MakesResult s f vs (fun r x => Lanes w act r.val r.mask x) row) _ hi
    simp only [hz, List.forall_mem_cons]
    exact ⟨
      ⟨_, rfl, iput_lanes _ _ _ _⟩, ⟨_, rfl, iput_lanes _ _ _ _⟩,  -- viadd, visub
      ⟨_, rfl, iput_lanes _ _ _ _⟩, ⟨_, rfl, iput_lanes _ _ _ _⟩,  -- vimul, vimad
      ⟨_, rfl, iput_lanes _ _ _ _⟩, ⟨_, rfl, iput_lanes _ _ _ _⟩,  -- vimax, vimin
      ⟨_, rfl, iput_lanes _ _ _ _⟩,  -- viabs
      ⟨_, rfl, bits_lanes _ _ fun _ => Nat.and_lt_two_pow _ (elem_lt _ _ _)⟩,  -- vand
      ⟨_, rfl, bits_lanes _ _ fun _ => Nat.or_lt_two_pow (elem_lt _ _ _) (elem_lt _ _ _)⟩,  -- vor
      ⟨_, rfl, bits_lanes _ _ fun _ => Nat.xor_lt_two_pow (elem_lt _ _ _) (elem_lt _ _ _)⟩,  -- vxor
      ⟨_, rfl, vLogic_not_lanes _ _ _ _⟩,  -- vnot
      ⟨_, rfl, iput_lanes _ _ _ _⟩, ⟨_, rfl, iput_lanes _ _ _ _⟩,  -- vshl, vshr
      ⟨_, rfl, bits_lanes _ _ fun _ => by split <;> exact elem_lt _ _ _⟩,  -- vsel
      ⟨_, rfl, bits_lanes _ _ fun _ => elem_lt _ _ _⟩,  -- vperm
      ⟨_, rfl, copyE_lanes _ _ fun _ => elem_lt _ _ _⟩,  -- vbcast
      ⟨_, rfl, vZip_lanes _ _ _ _⟩,  -- vzip
      ⟨_, rfl, vUzp_lanes _ _ _ _ _⟩,  -- vuzp
      ⟨_, rfl, copyE_lanes _ _ fun _ => elem_lt _ _ _⟩,  -- vmov
      List.forall_mem_nil _⟩
  obtain ⟨g, hexec, hlanes⟩ := word
  have hready : DestReady s f (g (voAct f s) vs).mask := hd.imp_left hlanes.full
  exact ⟨_, _, _, hexec.trans (congrArg _ (vPure_ready hs hready)), hlanes⟩

/-- Settles O16: each word makes of its sources and the active lanes the result that its row names, and lands it. -/
theorem vectorResults : Obligations.VectorResults := by
  unfold Obligations.VectorResults
  intro f s t vs i src u lat r act a b c seg at' hi hs hd
  have word : MakesResult s f vs (· = ·) (i, src, u, lat, r) := by
    refine (?_ : ∀ row ∈ _, MakesResult s f vs (· = ·) row) _ hi
    simp only [List.forall_mem_cons]
    exact ⟨
      ⟨_, rfl, rfl⟩, ⟨_, rfl, rfl⟩, ⟨_, rfl, rfl⟩,  -- vfma, vfms, vfnma
      ⟨_, rfl, rfl⟩, ⟨_, rfl, rfl⟩,  -- vmax, vmin
      ⟨_, rfl, rfl⟩, ⟨_, rfl, rfl⟩, ⟨_, rfl, rfl⟩,  -- vabs, vneg, vcpsg
      ⟨_, rfl, rfl⟩, ⟨_, rfl, rfl⟩, ⟨_, rfl, rfl⟩, ⟨_, rfl, rfl⟩, ⟨_, rfl, rfl⟩,  -- vexp2, vlog2, vrcp, vrsqrt, vtanh
      ⟨_, rfl, rfl⟩, ⟨_, rfl, rfl⟩,  -- vcxc, vunpk
      ⟨_, rfl, rfl⟩, ⟨_, rfl, rfl⟩, ⟨_, rfl, rfl⟩, ⟨_, rfl, rfl⟩, ⟨_, rfl, rfl⟩,  -- vrsum, vrmax, vrmin, vramax, virsum
      List.forall_mem_nil _⟩
  obtain ⟨g, hexec, rfl⟩ := word
  exact hexec.trans (congrArg _ (vPure_ready hs hd))

end Sys2Proof.Machine
end

section
/-! Bits and lanes summed into a number at their places, and what a vector word does once its sources are read, whatever it does with
them (R172, R173). -/
namespace Sys2Proof.Machine

/-! ### Sums of elements -/

/-- A fold that adds to a number the element of each place in turn puts the elements side by side. -/
theorem foldl_sideBySide {β : Type} {w : Nat} {d : Nat → Nat} {sum : β → Nat} {step : β → Nat → β} {init : β}
    (hinit : sum init = 0) (hstep : ∀ r k, sum (step r k) = sum r + d k <<< (w * k)) (n : Nat) :
    sum ((List.range n).foldl step init) = sideBySide w n d := by
  induction n with
  | zero => exact hinit
  | succ n ih =>
    rw [List.range_succ, List.foldl_append, List.foldl_cons, List.foldl_nil, hstep, ih]
    rfl

/-- The digits of a number, side by side, are the number. -/
theorem sideBySide_digits (w n x : Nat) : sideBySide w n (fun k => x / 2 ^ (w * k) % 2 ^ w) = x % 2 ^ (w * n) := by
  induction n with
  | zero => exact (Nat.mod_one x).symm
  | succ n ih => rw [sideBySide_succ, ih, Nat.mul_succ, Nat.pow_add, Nat.mod_mul, Nat.mul_comm (2 ^ (w * n))]

/-- The bits of a word, side by side, are the word. -/
theorem sideBySide_bits (v : Word) : sideBySide 1 64 (fun k => (v.getLsbD k).toNat) = v.toNat := by
  have hbit : (fun k => (v.getLsbD k).toNat) = fun k => v.toNat / 2 ^ (1 * k) % 2 ^ 1 := by
    funext k
    rw [Nat.one_mul]
    exact Nat.toNat_testBit v.toNat k
  rw [hbit, sideBySide_digits]
  exact Nat.mod_eq_of_lt v.isLt

theorem sideBySide_bit {n k : Nat} {on : Nat → Bool} (hk : k < n) :
    (sideBySide 1 n fun k => (on k).toNat).testBit k = on k := by
  rw [sideBySide_testBit Nat.one_pos (fun k => Bool.toNat_lt (on k)) (by rwa [Nat.one_mul]), Nat.div_one, Nat.mod_one]
  cases on k
  · rfl
  · rfl

/-! ### A word with its sources read -/

section
variable {s t : State} {f : VO} {units w : Nat} {src : List (BitVec 11)} {vs : List VReg}

theorem vOp_ready (hs : Sources (s.charge units 0) f.file w src t vs) (k : State → List VReg → State) :
    vOp s f units w src k = k t vs :=
  readSrcs_ready hs k

theorem Sources.lat {file : Bool} (hs : Sources s file w src t vs) : t.lat = s.lat := by
  obtain ⟨held, cid⟩ := hs.held
  exact (held.keeps cid).2.1

theorem Sources.voAct (hs : Sources (s.charge units 0) f.file w src t vs) : Machine.voAct f t = Machine.voAct f s :=
  congrArg (fun c : Ctx => actBits (c.qreg f.file f.qp.toNat) f.pn) hs.me

end

end Sys2Proof.Machine
end

section
/-! Compares, predicate words and moves between the files (R195–R197, R208, R209). -/
namespace Sys2Proof.Machine

/-! ### Predicates -/

/-- The predicate that a word names: q0 reads as all true (R195). -/
theorem qreg_named (c : Ctx) (file : Bool) (n : BitVec 11) :
    c.qreg file n.toNat = if n = 0 then BitVec.allOnes 64 else tget 0 (c.vf file).q n.toNat := by
  have hzero : n.toNat = 0 ↔ n = 0 := BitVec.toNat_inj (y := 0)
  simp only [Ctx.qreg, hzero]

/-- A compare writes one bit for each active lane (R197). -/
theorem vCmp_mask (cc : Nat) (fmt : BitVec 4) (any : Bool) (act : Word) (a b : VReg) : (vCmp cc fmt any act a b).mask = act.toNat := by
  rw [← sideBySide_bits act]
  refine foldl_sideBySide (sum := VRes.mask) rfl (fun r k => ?_) 64
  cases act.getLsbD k with
  | false => simp
  | true => simp [Nat.shiftLeft_eq]

/-- `qset nz` tells the lanes that are not zero (R196). -/
theorem laneNz_bit (a : VReg) {k : Nat} (hk : k < 64) : (laneNz a).testBit k = decide (a.extractLsb' (32 * k) 32 ≠ 0) := by
  have hsum : laneNz a = sideBySide 1 64 fun k => (decide (a.extractLsb' (32 * k) 32 ≠ 0)).toNat := by
    refine foldl_sideBySide (sum := id) rfl (fun z k => ?_) 64
    have hlane : lane a k = 0 ↔ a.extractLsb' (32 * k) 32 = 0#32 := BitVec.toNat_inj (x := a.extractLsb' (32 * k) 32) (y := 0#32)
    by_cases h : a.extractLsb' (32 * k) 32 = 0#32
    · simp [hlane, h]
    · simp [hlane, h, Nat.shiftLeft_eq]
  rw [hsum, sideBySide_bit hk]

/-- The predicate words of two sources write all 64 bits (R196). -/
theorem qOp_named (f : VO) (s : State) (g : Word → Word → Word) :
    let q := fun (n : BitVec 11) => if n = 0 then BitVec.allOnes 64 else tget 0 (s.me.vf f.file).q n.toNat
    qOp f s g = (s.charge 1 0).eff (.land ⟨.q f.file f.d.toNat, s.me.n + s.lat.valu, (g (q f.a) (q f.b)).zeroExtend 2048,
      (BitVec.allOnes 64).zeroExtend 2048, false, none, false, false⟩) := by
  unfold qOp
  rw [qreg_named, qreg_named]
  rfl

section
variable {s t : State} {f : VO} {w : Nat} {src : List (BitVec 11)} {vs : List VReg}

/-- A predicate result of a word lands at the word's own time. -/
theorem landQ_ready {units : Nat} (hs : Sources (s.charge units 0) f.file w src t vs) (v m : Word) :
    landQ t f.file f.d.toNat v m t.lat.valu = t.eff
      (.land ⟨.q f.file f.d.toNat, s.me.n + s.lat.valu, v.zeroExtend 2048, m.zeroExtend 2048, false, none, false, false⟩) := by
  unfold landQ
  rw [hs.me, hs.lat]
  rfl

/-- What a compare lands once its sources are read: its bits in the active lanes, and its flags. -/
theorem vCompare_ready {cc : Nat} (hs : Sources (s.charge 1 0) f.file (fmtW f.fmt) [f.a, f.b] t vs) :
    let r := vCmp cc f.fmt (f.c == 1) (voAct f s) (vs.getD 0 0) (vs.getD 1 0)
    let z := t.eff (.land ⟨.q f.file f.d.toNat, s.me.n + s.lat.valu, (wd r.val).zeroExtend 2048, (voAct f s).zeroExtend 2048,
      false, none, false, false⟩)
    vCompare f s cc = if r.fl = 0 then z else z.eff (.flags (if f.file then 1 else 0) (r.fl.zeroExtend 64)) := by
  intro r z
  have hmask : wd r.mask = voAct f s := by
    rw [vCmp_mask]
    exact BitVec.ofNat_toNat 64 (voAct f s) |>.trans (BitVec.setWidth_eq _)
  unfold vCompare
  rw [vOp_ready hs, hs.voAct]
  dsimp only
  rw [landQ_ready hs, hmask]

/-! ### Moves -/

/-- What `xmv` moves lands after the next STOP bundle, at the word's own time (R208). -/
theorem landX_ready {units : Nat} (hs : Sources (s.charge units 0) f.file w src t vs) (d : Dst) (v m : VReg) :
    landX t d v m = t.eff (.land ⟨d, s.me.n + s.lat.vxmv, v, m, false, none, true, true⟩) := by
  unfold landX
  rw [hs.me, hs.lat]
  rfl

end

theorem vWord_eq (v : VReg) (k : Nat) : vWord v k = (v.extractLsb' (64 * k) 64).zeroExtend 2048 :=
  BitVec.ofNat_toNat 2048 (v.extractLsb' (64 * k) 64)

/-- A scalar in every 64-bit element (R208). -/
theorem replicate_word (x : Word) {k : Nat} (hk : k < 32) : (BitVec.replicate 32 x).extractLsb' (64 * k) 64 = x := by
  refine BitVec.eq_of_getLsbD_eq fun i hi => ?_
  have hplace : 64 * k + i < 64 * 32 := by omega
  rw [BitVec.getLsbD_extractLsb', BitVec.getLsbD_replicate, Nat.mul_add_mod, Nat.mod_eq_of_lt hi]
  simp [hi, hplace]

/-! ### The statement -/

/-- Settles O18: a compare's mask is the active lanes, the predicate words write every bit, and each move lands what it read. -/
theorem predicatesAndMoves : Obligations.PredicatesAndMoves := by
  unfold Obligations.PredicatesAndMoves
  refine ⟨fun f s t vs => ⟨fun i cc hi hs => ?_, fun i v hi => ?_, fun hs => ?_⟩, fun f s t v => ⟨fun hs => ?_, ?_, ?_, ?_⟩⟩
  · have word : exec i s = .next (vCompare f s cc) := by
      refine (?_ : ∀ row ∈ _, exec row.1 s = .next (vCompare f s row.2)) (i, cc) hi
      simp only [List.forall_mem_cons]
      exact ⟨rfl, rfl, rfl, rfl, rfl, rfl, List.forall_mem_nil _⟩
    exact ⟨vCmp_mask _ _ _ _ _ _, word.trans (congrArg _ (vCompare_ready hs))⟩
  · have word : ∃ g : Word → Word → Word, exec i s = .next (qOp f s g) ∧
        g (if f.a = 0 then BitVec.allOnes 64 else tget 0 (s.me.vf f.file).q f.a.toNat)
          (if f.b = 0 then BitVec.allOnes 64 else tget 0 (s.me.vf f.file).q f.b.toNat) = v := by
      refine (?_ : ∀ row ∈ _, ∃ g : Word → Word → Word, exec row.1 s = .next (qOp f s g) ∧ g _ _ = row.2) (i, v) hi
      simp only [List.forall_mem_cons]
      exact ⟨⟨_, rfl, rfl⟩, ⟨_, rfl, rfl⟩, ⟨_, rfl, rfl⟩, ⟨_, rfl, rfl⟩,  -- qand, qor, qxor, qnot
        ⟨_, rfl, rfl⟩, ⟨_, rfl, rfl⟩, ⟨_, rfl, rfl⟩,  -- qset none, all, first
        List.forall_mem_nil _⟩
    obtain ⟨g, hexec, rfl⟩ := word
    exact hexec.trans (congrArg _ (qOp_named f s g))
  · refine ⟨wd (laneNz (vs.getD 0 0)), fun k hk => ?_, congrArg _ ((vOp_ready hs _).trans (landQ_ready hs _ _))⟩
    rw [BitVec.getLsbD_ofNat, decide_eq_true hk, Bool.true_and, laneNz_bit _ hk]
  · rw [← vWord_eq]
    exact ⟨congrArg _ ((vOp_ready hs _).trans (landX_ready hs _ _ _)), congrArg _ ((vOp_ready hs _).trans (landX_ready hs _ _ _)),
      congrArg _ ((vOp_ready hs _).trans (landX_ready hs _ _ _))⟩
  · rw [← qreg_named]
    rfl
  · rw [← qreg_named]
    rfl
  · refine ⟨BitVec.replicate 32 (tget 0 (if s.me.group.isEmpty then s.me.s else s.me.sg) f.a.toNat), fun k hk => ?_, ?_⟩
    · rw [replicate_word _ hk]
      cases s.me.group with
      | nil => rfl
      | cons x l => rfl
    · exact congrArg (fun v => Host.Outcome.next (landX (s.charge 1 0) (.v f.file f.d.toNat) v (BitVec.allOnes 2048)))
        (BitVec.setWidth_eq (BitVec.replicate 32 _))

end Sys2Proof.Machine
end

section
/-! Vector loads and stores, gather and scatter (R210, R211): what each word does once its sources are read. -/
namespace Sys2Proof.Machine

/-! ### Lanes -/

/-- What a word writes under the mask of the active lanes, it writes exactly there (R172). -/
theorem laneMask_lanes (act : Word) (val : Nat) : Lanes 32 act val (laneMask act) fun k => val / 2 ^ (32 * k) % 2 ^ 32 := by
  have hones : ∀ k, (if act.getLsbD k then 0xFFFFFFFF else 0) < 2 ^ 32 := fun k => by
    split
    · decide
    · decide
  have hsum : laneMask act = sideBySide 32 64 fun k => if act.getLsbD k then 0xFFFFFFFF else 0 :=
    foldl_sideBySide (sum := id) rfl (fun z k => by cases act.getLsbD k <;> simp) 64
  refine ⟨?_, fun i hi => ?_, fun _ _ _ => rfl⟩
  · have hfull : 2048 = 32 * 64 := rfl
    rw [hsum, hfull]
    exact sideBySide_lt hones 64
  · rw [hsum, sideBySide_testBit (by decide) hones hi]
    cases act.getLsbD (i / 32) with
    | false => exact Nat.zero_testBit _
    | true => exact (Nat.testBit_two_pow_sub_one 32 _).trans (decide_eq_true (Nat.mod_lt i (by decide)))

theorem laneMask_testBit (act : Word) : ∀ i, i < 2048 → (laneMask act).testBit i = act.getLsbD (i / 32) := by
  obtain ⟨-, hbits, -⟩ := laneMask_lanes act 0
  exact hbits

/-- A word that writes its active lanes and no flag lands, where all lanes are active or its destination is not expired. -/
theorem landV_lanes {s t : State} {f : VO} {act : Word} (lat val : Nat) (gens : List (BitVec 16)) (hme : t.me = s.me)
    (hnow : t.now = s.now) (hfree : act = BitVec.allOnes 64 ∨ expired s (s.me.vf f.file) f.d.toNat = false) :
    landV t f lat { val := val, mask := laneMask act, fl := 0, gens := gens } = vLands t f lat (fmtBits f.fmt val) (laneMask act) 0 := by
  have hready : DestReady t f (laneMask act) := by
    unfold DestReady expired State.cycle
    rw [hme, hnow]
    exact hfree.imp_left (laneMask_lanes act 0).full
  exact landV_ready (r := { val := val, mask := laneMask act, fl := 0, gens := gens }) lat hready

/-! ### One register (R210) -/

/-- The address of a vector load or store: a base and a signed count of registers. -/
def regsAddr (f : VO) (vs : List VReg) : Nat := ((vs.getD 0 0).setWidth 64 + 256 * (f.c.extractLsb' 6 5).signExtend 64).toNat

theorem regsAddr_eq (f : VO) (vs : List VReg) :
    (vAddr (vs.getD 0 0) + (f.c.extractLsb' 6 5).signExtend 64 * 256).toNat = regsAddr f vs := by
  rw [BitVec.mul_comm]
  rfl

section
variable {s t : State} {f : VO} {vs : List VReg}

theorem vld_reads {w : Word} {u : State} {bs : List Byte} (hs : Sources (s.charge 1 0) f.file 32 [f.a] t vs)
    (halign : regsAddr f vs % 64 = 0) (hfree : voAct f s = BitVec.allOnes 64 ∨ expired s (s.me.vf f.file) f.d.toNat = false)
    (hsat : SatReady t [wfOf f.c] w) (hread : L1Reads t accLoad (regsAddr f vs) 256 w u bs) :
    exec (.vld f) s = .next (vLands (u.charge 0 4) f s.lat.vld (fmtBits f.fmt (leNat bs)) (laneMask (voAct f s)) 0) := by
  obtain ⟨held, hiss⟩ := hread.held
  have hcid : u.iss.cid = t.iss.cid := congrArg Issue.cid hiss
  obtain ⟨hme, hlat, -, -⟩ := held.keeps hcid
  have hact : voAct f u = voAct f s := (congrArg (fun c : Ctx => actBits (c.qreg f.file f.qp.toNat) f.pn) hme).trans hs.voAct
  refine congrArg Host.Outcome.next ((vOp_ready hs _).trans ?_)
  dsimp only
  rw [regsAddr_eq, if_neg (not_not_intro halign), withSat_ready hsat, slotRead_ready hread, hact, hlat, hs.lat]
  exact landV_lanes _ _ _ (hme.trans hs.me) (held.now.trans hs.held.1.now) hfree

theorem vld_misaligned (hs : Sources (s.charge 1 0) f.file 32 [f.a] t vs) (hmis : regsAddr f vs % 64 ≠ 0) :
    exec (.vld f) s = .next (t.faultAt .align (regsAddr f vs)) := by
  refine congrArg Host.Outcome.next ((vOp_ready hs _).trans ?_)
  dsimp only
  rw [regsAddr_eq, if_pos hmis]

theorem vst_misaligned (hs : Sources (s.charge 1 0) f.file 32 [f.a, f.b] t vs) (hmis : regsAddr f vs % 64 ≠ 0) :
    exec (.vst f) s = .next (t.faultAt .align (regsAddr f vs)) := by
  refine congrArg Host.Outcome.next ((vOp_ready hs _).trans ?_)
  dsimp only
  rw [regsAddr_eq, if_pos hmis]

/-- A store with an active lane starts with the bytes of its active lanes. -/
theorem vst_stores {w : Word} {u : State} {segs : List Seg} (hs : Sources (s.charge 1 0) f.file 32 [f.a, f.b] t vs)
    (halign : regsAddr f vs % 64 = 0) (hact : voAct f s ≠ 0) (hwin : InReady t [wfOf f.c] w)
    (hwrite : WriteMay t accStore (regsAddr f vs) 256 u segs) :
    exec (.vst f) s = .next ((u.charge 0 4).start w (wfOf f.d) (.store ⟨false, wd (regsAddr f vs),
      piecesAt segs (regsAddr f vs) (laneRuns (voAct f s) (regsAddr f vs) (leBytes 256 (vs.getD 1 0).toNat)), 0, 0⟩)).2 := by
  refine congrArg Host.Outcome.next ((vOp_ready hs _).trans ?_)
  dsimp only
  rw [regsAddr_eq, if_neg (not_not_intro halign), withWin_ready hwin, hs.voAct, if_neg hact, slotWrite_ready hwrite]
  rfl

/-- A store with no active lane stores nothing, where its address may be written. -/
theorem vst_noLanes {w : Word} {segs : List Seg} (hs : Sources (s.charge 1 0) f.file 32 [f.a, f.b] t vs)
    (halign : regsAddr f vs % 64 = 0) (hact : voAct f s = 0) (hwin : InReady t [wfOf f.c] w)
    (hreach : resolve t (t.who t.iss.cid) accStore false (regsAddr f vs) 256 = .ok segs) :
    exec (.vst f) s = .next (t.nullWit (wfOf f.d)) := by
  refine congrArg Host.Outcome.next ((vOp_ready hs _).trans ?_)
  dsimp only
  rw [regsAddr_eq, if_neg (not_not_intro halign), withWin_ready hwin, hs.voAct, if_pos hact, hreach]

end

/-! ### Elements (R211) -/

/-- Of the first two of some faults the one with the higher address does not count. -/
theorem lowest_cons_cons (x y : Code × Nat) (l : List (Code × Nat)) :
    lowest (x :: y :: l) = lowest ((if y.2 < x.2 then y else x) :: l) := by
  unfold lowest
  rw [List.foldl_cons, List.foldl_cons, List.foldl_cons]
  by_cases hlt : y.2 < x.2
  · simp only [if_pos hlt]
  · simp only [if_neg hlt]

/-- Among some faults one has the lowest address. -/
theorem lowest_least (l : List (Code × Nat)) (x : Code × Nat) :
    ∃ z ∈ x :: l, lowest (x :: l) = some z ∧ ∀ y ∈ x :: l, z.2 ≤ y.2 := by
  induction l generalizing x with
  | nil => exact ⟨x, List.mem_singleton.mpr rfl, rfl, fun y hy => Nat.le_of_eq (congrArg Prod.snd (List.mem_singleton.mp hy).symm)⟩
  | cons y l ih =>
    rw [lowest_cons_cons]
    by_cases hlt : y.2 < x.2
    · rw [if_pos hlt]
      obtain ⟨z, hz, hlow, hle⟩ := ih y
      exact ⟨z, List.mem_cons_of_mem x hz, hlow,
        List.forall_mem_cons.mpr ⟨Nat.le_trans (hle y List.mem_cons_self) (Nat.le_of_lt hlt), hle⟩⟩
    · rw [if_neg hlt]
      obtain ⟨z, hz, hlow, hle⟩ := ih x
      obtain ⟨hx, hl⟩ := List.forall_mem_cons.mp hle
      refine ⟨z, ?_, hlow, List.forall_mem_cons.mpr ⟨hx, List.forall_mem_cons.mpr ⟨Nat.le_trans hx (Nat.not_lt.mp hlt), hl⟩⟩⟩
      rcases List.mem_cons.mp hz with rfl | hz
      · exact List.mem_cons_self
      · exact List.mem_cons_of_mem x (List.mem_cons_of_mem y hz)

/-- Where the other elements may be reached, the fault of some elements is that of the lowest misaligned one. -/
theorem lowest_misaligned {t : State} {acc : Acc} {l : List (Nat × Nat)} {p : Nat × Nat} (hp : p ∈ l) (hmis : p.2 % 4 ≠ 0)
    (hleast : ∀ q ∈ l, q.2 % 4 ≠ 0 → p.2 ≤ q.2) (hreach : ∀ q ∈ l, q.2 % 4 = 0 → elemFault t acc q.2 = none) :
    lowest (l.filterMap fun q => elemFault t acc q.2) = some (.align, p.2) := by
  have hfault : ∀ a, a % 4 ≠ 0 → elemFault t acc a = some (.align, a) := fun a ha => if_pos ha
  have hmem : (Code.align, p.2) ∈ l.filterMap fun q => elemFault t acc q.2 := List.mem_filterMap.mpr ⟨p, hp, hfault _ hmis⟩
  obtain ⟨y, rest, hfaults⟩ := List.exists_cons_of_ne_nil (List.ne_nil_of_mem hmem)
  obtain ⟨x, hx, hlow, hle⟩ := lowest_least rest y
  rw [← hfaults] at hx hlow hle
  obtain ⟨q, hq, hqx⟩ := List.mem_filterMap.mp hx
  have hqmis : q.2 % 4 ≠ 0 := fun h => by
    rw [hreach q hq h] at hqx
    cases hqx
  rw [hfault _ hqmis] at hqx
  obtain rfl := Option.some.inj hqx
  have heq : q.2 = p.2 := Nat.le_antisymm (hle _ hmem) (hleast q hq hqmis)
  rw [hlow, heq]

/-- Reading the elements of a gather changes only what loads may change before commit. -/
theorem gatherAll_keeps (s : State) (win : Word) (l : List (Nat × Nat)) :
    Held s (gatherAll s win l).1 ∧ (gatherAll s win l).1.iss = s.iss := by
  induction l generalizing s with
  | nil => exact ⟨Held.refl s, rfl⟩
  | cons p l ih =>
    obtain ⟨k, a⟩ := p
    have held := (Held.touchXlat s (s.who s.iss.cid) a 4).trans
      (Held.l1Read _ (coreOf s.iss.cid) win (elemSegs s accLoad a))
    have hiss := (l1Read_iss (touchXlat s (s.who s.iss.cid) a 4) (coreOf s.iss.cid) win (elemSegs s accLoad a)).trans
      (touchXlat_iss s (s.who s.iss.cid) a 4)
    have rest := ih (l1Read (touchXlat s (s.who s.iss.cid) a 4) (coreOf s.iss.cid) win (elemSegs s accLoad a)).1
    have all := And.intro (held.trans rest.1) (rest.2.trans hiss)
    unfold gatherAll
    dsimp only
    split
    · exact all
    · exact all
    · exact all

section
variable {s t : State} {f : VO} {vs : List VReg} {l : List (Nat × Nat)}

/-- The lowest misaligned element of a gather faults, where its elements may be read otherwise. -/
theorem vgth_misaligned {w : Word} {p : Nat × Nat} (hs : Sources (s.charge 4 0) f.file 32 [f.a, f.b] t vs)
    (hl : elemAddrs (voAct f s) (vs.getD 0 0) (vs.getD 1 0) = l) (hp : p ∈ l) (hmis : p.2 % 4 ≠ 0)
    (hleast : ∀ q ∈ l, q.2 % 4 ≠ 0 → p.2 ≤ q.2) (hsat : SatReady t [wfOf f.c] w)
    (hreach : ∀ q ∈ l, elemBad t accLoad q.2 = none ∧ (q.2 % 4 = 0 → elemFault t accLoad q.2 = none)) :
    exec (.vgth f) s = .next (t.faultAt .align p.2) := by
  have hlow := lowest_misaligned hp hmis hleast fun q hq => (hreach q hq).2
  have hsome : (l.filterMap fun q => elemFault t accLoad q.2).isEmpty = false := by
    rw [List.isEmpty_eq_false_iff]
    intro h
    rw [h] at hlow
    cases hlow
  have hdata : (l.filterMap fun q => elemBad t accLoad q.2) = [] := List.filterMap_eq_nil_iff.mpr fun q hq => (hreach q hq).1
  refine congrArg Host.Outcome.next ((vOp_ready hs _).trans ?_)
  dsimp only
  rw [hs.voAct, hl, withSat_ready hsat]
  simp only [hsome, hdata, List.append_nil, hlow, Bool.not_false, if_true]

/-- A gather whose elements may all be read lands them in its active lanes. -/
theorem vgth_reads {w : Word} (hs : Sources (s.charge 4 0) f.file 32 [f.a, f.b] t vs)
    (hl : elemAddrs (voAct f s) (vs.getD 0 0) (vs.getD 1 0) = l)
    (hfree : voAct f s = BitVec.allOnes 64 ∨ expired s (s.me.vf f.file) f.d.toNat = false) (hsat : SatReady t [wfOf f.c] w)
    (hreach : ∀ p ∈ l, elemFault t accLoad p.2 = none ∧ fillPages t.me p.2 4 = [])
    (hwait : readBlocked t (coreOf t.iss.cid) w (l.flatMap fun p => elemSegs t accLoad p.2) = false)
    (hfaults : (gatherAll t w l).2.2.1 = []) (hlines : (gatherAll t w l).2.2.2 = []) :
    exec (.vgth f) s = .next (vLands ((gatherAll t w l).1.charge 0 l.length) f s.lat.vld
      (fmtBits f.fmt ((gatherAll t w l).2.1.foldl (fun z p => z + p.2 <<< (32 * p.1)) 0)) (laneMask (voAct f s)) 0) := by
  obtain ⟨held, hiss⟩ := gatherAll_keeps t w l
  have hme := held.me (congrArg Issue.cid hiss)
  have hnone : (l.filterMap fun p => elemFault t accLoad p.2) = [] := List.filterMap_eq_nil_iff.mpr fun p hp => (hreach p hp).1
  have hfills : (l.flatMap fun p => fillPages t.me p.2 4) = [] := List.flatMap_eq_nil_iff.mpr fun p hp => (hreach p hp).2
  refine congrArg Host.Outcome.next ((vOp_ready hs _).trans ?_)
  dsimp only
  rw [hs.voAct, hl, withSat_ready hsat]
  simp only [hnone, hfills, hwait, hfaults, hlines, lowest, List.foldl_nil, List.isEmpty_nil, Bool.not_true, Bool.false_eq_true, if_false]
  rw [hs.lat]
  exact landV_lanes _ _ _ (hme.trans hs.me) (held.now.trans hs.held.1.now) hfree

/-- The lowest misaligned element of a scatter faults, where its other elements may be reached. -/
theorem vsct_misaligned {p : Nat × Nat} (hs : Sources (s.charge 4 0) f.file 32 [f.a, f.b, f.c] t vs)
    (hl : elemAddrs (voAct f s) (vs.getD 0 0) (vs.getD 1 0) = l) (hp : p ∈ l) (hmis : p.2 % 4 ≠ 0)
    (hleast : ∀ q ∈ l, q.2 % 4 ≠ 0 → p.2 ≤ q.2) (hreach : ∀ q ∈ l, q.2 % 4 = 0 → elemFault t accStore q.2 = none) :
    exec (.vsct f) s = .next (t.faultAt .align p.2) := by
  have hsome : l.isEmpty = false := List.isEmpty_eq_false_iff.mpr (List.ne_nil_of_mem hp)
  refine congrArg Host.Outcome.next ((vOp_ready hs _).trans ?_)
  dsimp only
  rw [hs.voAct, hl]
  simp only [hsome, Bool.false_eq_true, if_false, lowest_misaligned hp hmis hleast hreach]

/-- A scatter whose elements may all be written starts its store. -/
theorem vsct_stores (hs : Sources (s.charge 4 0) f.file 32 [f.a, f.b, f.c] t vs)
    (hl : elemAddrs (voAct f s) (vs.getD 0 0) (vs.getD 1 0) = l) (hsome : l ≠ [])
    (hreach : ∀ p ∈ l, elemFault t accStore p.2 = none ∧ heldPages t t.iss.cid p.2 4 = [] ∧ fillPages t.me p.2 4 = [])
    (hpath : noPath t (l.flatMap fun p => elemSegs t accStore p.2) = false) (hmode : fusing t (coreOf t.iss.cid) = false) :
    let u := l.foldl (fun u p => touchXlat u (u.who u.iss.cid) p.2 4) t
    let left := l.flatMap fun p => piecesOf (elemSegs u accStore p.2) (leBytes 4 ((vs.getD 2 0).extractLsb' (32 * p.1) 32).toNat)
    exec (.vsct f) s = .next ((u.charge 0 l.length).start 0 (wfOf f.d)
      (.store ⟨false, wd ((l.head?.map (·.2)).getD 0), left, 0, 0⟩)).2 := by
  have hlane : l.isEmpty = false := List.isEmpty_eq_false_iff.mpr hsome
  have hnone : (l.filterMap fun p => elemFault t accStore p.2) = [] := List.filterMap_eq_nil_iff.mpr fun p hp => (hreach p hp).1
  have hheld : (l.any fun p => !(heldPages t t.iss.cid p.2 4).isEmpty) = false :=
    List.any_eq_false.mpr fun p hp => by simp [(hreach p hp).2.1]
  have hfills : (l.flatMap fun p => fillPages t.me p.2 4) = [] := List.flatMap_eq_nil_iff.mpr fun p hp => (hreach p hp).2.2
  refine congrArg Host.Outcome.next ((vOp_ready hs _).trans ?_)
  dsimp only
  rw [hs.voAct, hl]
  simp only [hlane, hnone, hheld, hfills, hpath, hmode, lowest, List.foldl_nil, List.isEmpty_nil, Bool.not_true, Bool.or_false,
    Bool.false_eq_true, if_false]
  rfl

/-- A scatter with no active lane stores nothing. -/
theorem vsct_noLanes (hs : Sources (s.charge 4 0) f.file 32 [f.a, f.b, f.c] t vs)
    (hl : elemAddrs (voAct f s) (vs.getD 0 0) (vs.getD 1 0) = []) : exec (.vsct f) s = .next (t.nullWit (wfOf f.d)) := by
  refine congrArg Host.Outcome.next ((vOp_ready hs _).trans ?_)
  dsimp only
  rw [hs.voAct, hl]
  rfl

end

end Sys2Proof.Machine
end

section
/-! The configuration and the skip of operand ports (R184, R185, R191, R192), and the statement on vector memory. -/
namespace Sys2Proof.Machine

/-! ### The bundle's address, which reading leaves alone -/

theorem Pops.pc {s t : State} {file : Bool} {n : Nat} {v : VReg} (h : Pops s file n t v) : t.iss.pc = s.iss.pc := by
  obtain ⟨-, h⟩ := h
  revert h
  cases (pStep (s.portNow file n)).1 with
  | none =>
    rintro ⟨-, rfl⟩
    rfl
  | some j =>
    rintro ⟨u, bs, hread, -, rfl⟩
    have hiss : u.iss = s.iss := by
      revert hread
      split
      · rintro ⟨-, rfl, -⟩
        rfl
      · exact fun hread => hread.held.2
    rw [← hiss]
    dsimp only
    split
    · rfl
    · rfl

theorem Source.pc {s t : State} {file : Bool} {w : Nat} {x : BitVec 11} {v : VReg} (h : Source s file w x t v) :
    t.iss.pc = s.iss.pc := by
  rcases h with ⟨-, -, -, rfl, -⟩ | ⟨-, -, hpop⟩ | ⟨-, rfl, -⟩ | ⟨-, rfl, -⟩
  · rfl
  · exact hpop.pc
  · rfl
  · rfl

theorem Sources.pc {s t : State} {file : Bool} {w : Nat} {l : List (BitVec 11)} {vs : List VReg} (h : Sources s file w l t vs) :
    t.iss.pc = s.iss.pc := by
  induction l generalizing s vs with
  | nil =>
    obtain ⟨rfl, -⟩ := h
    rfl
  | cons x l ih =>
    obtain ⟨u, v, vs', hx, hl, -⟩ := h
    exact (ih hl).trans hx.pc

/-! ### The record of a port (R184, R185, R191) -/

/-- What `pcfg` makes of a record and the word that it is relative to: the port is configured, or the record's fault is the bundle's. -/
def latchPort (f : VO) (win : Word) (x : Nat) (s : State) (rel : Word) : State :=
  match portRecord (BitVec.ofNat 512 x) rel with
  | .ok p => s.eff (.port f.file (f.d.toNat - 1536) { p with wit := win })
  | .error c => s.faultB c

theorem latchPort_ok {f : VO} {win : Word} {x : Nat} {s : State} {rel : Word} {p : Port}
    (h : portRecord (BitVec.ofNat 512 x) rel = .ok p) :
    latchPort f win x s rel = s.eff (.port f.file (f.d.toNat - 1536) { p with wit := win }) := by
  unfold latchPort
  rw [h]

theorem latchPort_error {f : VO} {win : Word} {x : Nat} {s : State} {rel : Word} {c : Code} {pc : Word} (hpc : s.iss.pc = pc)
    (h : portRecord (BitVec.ofNat 512 x) rel = .error c) : latchPort f win x s rel = s.faultAt c pc.toNat := by
  unfold latchPort
  rw [h, ← hpc]
  rfl

section
variable {s t u : State} {f : VO} {a : VReg} {w : Word} {x : Nat}

/-- `pcfg` with its record read. -/
theorem pcfg_record (hs : Sources (s.charge 2 0) f.file 32 [f.a] t [a]) (hsat : SatReady t [wfOf f.c] w)
    (hrec : RecordReads t 64 (a.setWidth 64).toNat 64 w u x) :
    exec (.pcfg f) s = .next (if fld x 291 291 = 1 then readSrc u f.file f.b 32 fun v b => latchPort f w x v (b.setWidth 64)
      else latchPort f w x u 0) := by
  refine congrArg Host.Outcome.next ((vOp_ready hs _).trans ?_)
  dsimp only
  rw [withSat_ready hsat]
  exact slotRecord_ready hrec _

/-- A record that stands alone is latched with its own base. -/
theorem pcfg_absolute (hs : Sources (s.charge 2 0) f.file 32 [f.a] t [a]) (hsat : SatReady t [wfOf f.c] w)
    (hrec : RecordReads t 64 (a.setWidth 64).toNat 64 w u x) (hrel : fld x 291 291 = 0) :
    exec (.pcfg f) s = .next (latchPort f w x u 0) := by
  rw [pcfg_record hs hsat hrec, if_neg (by rw [hrel]; decide)]

/-- A relative record is latched relative to the word of the register that it is given. -/
theorem pcfg_relative {v : State} {b : VReg} (hs : Sources (s.charge 2 0) f.file 32 [f.a] t [a]) (hsat : SatReady t [wfOf f.c] w)
    (hrec : RecordReads t 64 (a.setWidth 64).toNat 64 w u x) (hrel : fld x 291 291 = 1) (hb : Source u f.file 32 f.b v b) :
    exec (.pcfg f) s = .next (latchPort f w x v (b.setWidth 64)) := by
  rw [pcfg_record hs hsat hrec, if_pos hrel, readSrc_ready hb]

end

/-! ### The positions of a port (R188, R192) -/

/-- A port after `n` positions. -/
def skipped (p : Port) (n : Nat) : Port := (List.range n).foldl (fun (p : Port) _ => { p with pos := (pStep p).2 }) p

theorem skipped_succ (p : Port) (n : Nat) : skipped p (n + 1) = { skipped p n with pos := (pStep (skipped p n)).2 } := by
  unfold skipped
  rw [List.range_succ, List.foldl_append]
  rfl

theorem pTotal_pos (r : BitVec 512) : 0 < pTotal r :=
  Nat.mul_pos (Nat.mul_pos (Nat.mul_pos (Nat.succ_pos _) (Nat.succ_pos _)) (Nat.succ_pos _)) (Nat.succ_pos _)

section
variable {p : Port} {q : Nat}

/-- Without LOOP a port stops at its end. -/
theorem pStep_once (hq : q ≤ pTotal p.rcd) (hloop : p.rcd.getLsbD 290 = false) :
    (pStep { p with pos := q }).2 = min (pTotal p.rcd) (q + 1) := by
  unfold pStep
  by_cases hlt : q < pTotal p.rcd
  · simp only [hlt, if_true]
    omega
  · simp only [hlt, hloop, Bool.false_eq_true, if_false]
    omega

/-- With LOOP a port at its end starts again. -/
theorem pStep_loop (hq : q ≤ pTotal p.rcd) (hloop : p.rcd.getLsbD 290 = true) :
    (pStep { p with pos := q }).2 = q % pTotal p.rcd + 1 := by
  unfold pStep
  by_cases hlt : q < pTotal p.rcd
  · simp only [hlt, if_true, Nat.mod_eq_of_lt]
  · have hend : q = pTotal p.rcd := Nat.le_antisymm hq (Nat.not_lt.mp hlt)
    simp only [hend, hloop, Nat.lt_irrefl, if_false, if_true, Nat.mod_self]

theorem skipped_once (hpos : p.pos ≤ pTotal p.rcd) (hloop : p.rcd.getLsbD 290 = false) (n : Nat) :
    skipped p n = { p with pos := min (pTotal p.rcd) (p.pos + n) } := by
  induction n with
  | zero =>
    rw [Nat.add_zero, Nat.min_eq_right hpos]
    rfl
  | succ n ih =>
    have hend : min (pTotal p.rcd) (min (pTotal p.rcd) (p.pos + n) + 1) = min (pTotal p.rcd) (p.pos + (n + 1)) := by omega
    rw [skipped_succ, ih, pStep_once (Nat.min_le_left _ _) hloop, hend]

theorem skipped_loop (hpos : p.pos ≤ pTotal p.rcd) (hloop : p.rcd.getLsbD 290 = true) (n : Nat) :
    skipped p (n + 1) = { p with pos := (p.pos + n) % pTotal p.rcd + 1 } := by
  induction n with
  | zero =>
    rw [skipped_succ]
    exact congrArg (fun q => { p with pos := q }) (pStep_loop hpos hloop)
  | succ n ih =>
    have hstep := pStep_loop (q := (p.pos + n) % pTotal p.rcd + 1) (Nat.mod_lt _ (pTotal_pos _)) hloop
    rw [skipped_succ, ih, hstep, Nat.mod_add_mod, Nat.add_assoc]

end

theorem charge_portNow (s : State) (u m : Nat) (file : Bool) (n : Nat) : (s.charge u m).portNow file n = s.portNow file n := rfl

theorem pskip_configured {s : State} {f : VO} (hconf : (s.portNow f.file (f.d.toNat - 1536)).conf = true) :
    exec (.pskip f) s = .next ((s.charge 1 0).eff
      (.port f.file (f.d.toNat - 1536) (skipped (s.portNow f.file (f.d.toNat - 1536)) f.c.toNat))) :=
  congrArg Host.Outcome.next (if_neg (by simp [charge_portNow, hconf]))

theorem pskip_unconfigured {s : State} {f : VO} (hconf : (s.portNow f.file (f.d.toNat - 1536)).conf = false) :
    exec (.pskip f) s = .next ((s.charge 1 0).faultAt .illenc s.iss.pc.toNat) :=
  congrArg Host.Outcome.next (if_pos (by simp [charge_portNow, hconf]))

/-! ### The statement -/

/-- Settles O19: each word, once its sources are read, does what its case says; a gather and a scatter fault at the least of their
faults, and a port's positions follow from one step of it. -/
theorem vectorMemory : Obligations.VectorMemory := by
  unfold Obligations.VectorMemory
  refine ⟨fun f s t vs => ⟨fun halign => ?_, fun hmis => ?_, fun p hp hmis hleast => ?_, ?_⟩,
    fun f s t a _ => ⟨fun hs w u x hsat hrec => ?_, fun hconf hpos hloop => ?_, fun hconf hpos hloop => ?_, pskip_unconfigured⟩⟩
  · exact ⟨fun hs hfree w u bs hsat hread => ⟨_, laneMask_testBit _, vld_reads hs halign hfree hsat hread⟩,
      fun hs hact w u segs hwin hwrite => vst_stores hs halign hact hwin hwrite,
      fun hs hact w segs hwin hreach => vst_noLanes hs halign hact hwin hreach⟩
  · exact ⟨fun hs => vld_misaligned hs hmis, fun hs => vst_misaligned hs hmis⟩
  · exact ⟨fun w hs hsat hreach => vgth_misaligned hs rfl hp hmis hleast hsat hreach,
      fun hs hreach => vsct_misaligned hs rfl hp hmis hleast hreach⟩
  · exact ⟨fun hs hfree w hsat hreach hwait hfaults hlines =>
        ⟨_, laneMask_testBit _, vgth_reads hs rfl hfree hsat hreach hwait hfaults hlines⟩,
      fun hs hsome hreach hpath hmode => vsct_stores hs rfl hsome hreach hpath hmode,
      fun hs hnone => vsct_noLanes hs hnone⟩
  · have hpc : u.iss.pc = s.iss.pc := (congrArg Issue.pc hrec.held.2).trans hs.pc
    exact ⟨fun hrel p hp => (pcfg_absolute hs hsat hrec hrel).trans (congrArg _ (latchPort_ok hp)),
      fun hrel v b p hb hp => (pcfg_relative hs hsat hrec hrel hb).trans (congrArg _ (latchPort_ok hp)),
      fun hrel c hc => (pcfg_absolute hs hsat hrec hrel).trans (congrArg _ (latchPort_error hpc hc)),
      fun hrel v b c hb hc => (pcfg_relative hs hsat hrec hrel hb).trans (congrArg _ (latchPort_error (hb.pc.trans hpc) hc))⟩
  · rw [pskip_configured hconf, skipped_once hpos hloop]
  · rw [pskip_configured hconf]
    by_cases hc : f.c = 0
    · rw [if_pos hc, hc]
      rfl
    · obtain ⟨n, hn⟩ := Nat.exists_eq_succ_of_ne_zero fun h : f.c.toNat = 0 => hc (BitVec.eq_of_toNat_eq h)
      rw [if_neg hc, hn, skipped_loop hpos hloop]
      rfl

end Sys2Proof.Machine
end

section
/-! The words of the M slot (R215–R233): descriptors, scale loads, and the operations that the matrix engine takes while it has room. -/
namespace Sys2Proof.Machine

/-! ### What a word leaves of its bundle before commit -/

/-- `t` is `s` before commit with the bundle, its index and its units as they were: what checking, translating and capturing leave. -/
structure SameBundle (s t : State) : Prop where
  held : Held s t
  cid : t.iss.cid = s.iss.cid
  pc : t.iss.pc = s.iss.pc
  j : t.iss.j = s.iss.j
  ci : t.iss.ci = s.iss.ci

namespace SameBundle

theorem of_iss {s t : State} (held : Held s t) (hiss : t.iss = s.iss) : SameBundle s t :=
  ⟨held, congrArg Issue.cid hiss, congrArg Issue.pc hiss, congrArg Issue.j hiss, congrArg Issue.ci hiss⟩

theorem refl (s : State) : SameBundle s s := of_iss (Held.refl s) rfl

theorem trans {s t u : State} (h : SameBundle s t) (k : SameBundle t u) : SameBundle s u :=
  ⟨h.held.trans k.held, k.cid.trans h.cid, k.pc.trans h.pc, k.j.trans h.j, k.ci.trans h.ci⟩

theorem eff (s : State) (e : Eff) : SameBundle s (s.eff e) := ⟨Held.eff s e, rfl, rfl, rfl, rfl⟩

theorem me {s t : State} (h : SameBundle s t) : t.me = s.me := h.held.me h.cid

theorem lat {s t : State} (h : SameBundle s t) : t.lat = s.lat := by
  obtain ⟨-, hlat, -, -⟩ := h.held.keeps h.cid
  exact hlat

theorem touchXlat (s : State) (w : Who) (va len : Nat) : SameBundle s (Machine.touchXlat s w va len) :=
  of_iss (Held.touchXlat s w va len) (touchXlat_iss s w va len)

theorem mStart (s : State) (w : Word) (wo : WF) (k : OpKind) : SameBundle s (Machine.mStart s w wo k).2 := by
  unfold Machine.mStart
  split
  · exact ⟨Held.wait s, rfl, rfl, rfl, rfl⟩
  · exact ⟨Held.start s w wo k, rfl, rfl, rfl, rfl⟩

theorem checkTd (s : State) (r : BitVec 4) : SameBundle s (Machine.checkTd s r) := by
  unfold Machine.checkTd
  split
  · exact mStart s _ _ _
  · exact refl s

theorem checkImg (f : MO) (s : State) : SameBundle s (Machine.checkImg f s) := by
  unfold Machine.checkImg
  split
  · exact checkTd s _
  · exact refl s

theorem takeScale (s : State) (on : Bool) (e : BitVec 3) : SameBundle s (Machine.takeScale s on e).2 := by
  unfold Machine.takeScale
  dsimp only
  split
  · exact refl s
  · split
    · exact eff s _
    · exact refl s

end SameBundle

/-! ### The engine's room (R215) -/

/-- Fewer than eight M operations of the core are in flight. -/
def EngineRoom (s : State) : Prop := (mInFlight s (coreOf s.iss.cid)).length < 8

/-- Before commit no operation joins those in flight. -/
theorem EngineRoom.held {s t : State} (hroom : EngineRoom s) (held : Held s t) (hcid : t.iss.cid = s.iss.cid) : EngineRoom t := by
  unfold EngineRoom mInFlight
  rw [held.ops, hcid]
  exact hroom

theorem mStart_room {s : State} (hroom : EngineRoom s) (w : Word) (wo : WF) (k : OpKind) : mStart s w wo k = s.start w wo k :=
  if_neg (Nat.not_le.mpr hroom)

/-! ### Descriptors (R218, R220–R222) -/

/-- The image of a descriptor with a bit that R218 forbids. -/
abbrev ForbiddenTd (x : Nat) : Prop := fld x 143 130 ≠ 0 ∨ fld x 127 12 ≠ 0 ∨ fld x 129 128 = 3 ∨ fld x 159 144 % 32 ≠ 0

section
variable {f : MO} {s u : State} {w : Word} {bs : List Byte}

theorem tdld_misaligned (hsat : SatReady s [f.wi1, f.wi2, f.wi3] w) (hmis : (imgAddr f s).toNat % 32 ≠ 0) :
    exec (.tdld f) s = .next (((s.charge 1 0).charge 0 1).faultAt .align (imgAddr f s).toNat) :=
  congrArg Host.Outcome.next ((withSat_ready (s := (s.charge 1 0).charge 0 1) hsat _).trans (if_pos hmis))

theorem tdld_read (hsat : SatReady s [f.wi1, f.wi2, f.wi3] w) (halign : (imgAddr f s).toNat % 32 = 0)
    (hread : HomeReads (checkImg f ((s.charge 1 0).charge 0 1)) accRec (imgAddr f s).toNat 32 w u bs) :
    exec (.tdld f) s = .next (if ForbiddenTd (leNat bs) then u.faultB .illenc
      else landTd u f.tda (BitVec.ofNat 256 (leNat bs)) (BitVec.allOnes 256) u.lat.vld) :=
  congrArg Host.Outcome.next ((withSat_ready (s := (s.charge 1 0).charge 0 1) hsat _).trans
    ((if_neg (not_not_intro halign)).trans (slotHome_ready hread _ true)))

/-- Reading the image leaves the bundle as it was. -/
theorem HomeReads.sameBundle {a len : Nat} (hread : HomeReads (checkImg f ((s.charge 1 0).charge 0 1)) accRec a len w u bs) :
    u.me = s.me ∧ u.lat = s.lat ∧ u.iss.pc = s.iss.pc := by
  obtain ⟨held, hiss⟩ := hread.held
  have same := (SameBundle.checkImg f ((s.charge 1 0).charge 0 1)).trans (.of_iss held hiss)
  exact ⟨same.me, same.lat, same.pc⟩

end

/-- The bits [hi:lo] of a descriptor, as a result covers them. -/
theorem tdMask_bit {hi lo k : Nat} (hlo : lo ≤ hi) (hhi : hi < 256) :
    ((tdMask hi lo).zeroExtend 2048).getLsbD k = decide (lo ≤ k ∧ k ≤ hi) := by
  rw [BitVec.zeroExtend, BitVec.getLsbD_setWidth, tdMask, BitVec.getLsbD_ofNat, Nat.testBit_shiftLeft, Nat.testBit_two_pow_sub_one,
    Bool.eq_iff_iff]
  simp only [Bool.and_eq_true, decide_eq_true_eq]
  omega

/-- A value at its place in a descriptor, as a result holds it. -/
theorem tdField_bit {v lo k : Nat} (hlo : lo ≤ k) (hk : k < 256) :
    ((BitVec.ofNat 256 (v <<< lo)).zeroExtend 2048).getLsbD k = v.testBit (k - lo) := by
  rw [BitVec.zeroExtend, BitVec.getLsbD_setWidth, BitVec.getLsbD_ofNat, Nat.testBit_shiftLeft, decide_eq_true hlo, decide_eq_true hk,
    decide_eq_true (by omega : k < 2048)]
  simp

/-- A word that sets a field lands in the bits of the field (R222). -/
theorem setTd_lands (f : MO) (s : State) {hi lo : Nat} (v : Nat) (hlo : lo ≤ hi) (hhi : hi < 256) :
    ∃ l : Landing, setTd f s hi lo v = .next ((checkTd (s.charge 1 0) f.tda).eff (.land l)) ∧ l.dst = .td f.tda.toNat ∧
      l.due = s.me.n + s.lat.valu ∧ (∀ k, k < 2048 → l.mask.getLsbD k = decide (lo ≤ k ∧ k ≤ hi)) ∧
      ∀ k, lo ≤ k → k ≤ hi → l.val.getLsbD k = v.testBit (k - lo) := by
  have same := SameBundle.checkTd (s.charge 1 0) f.tda
  refine ⟨_, rfl, rfl, ?_, fun k _ => tdMask_bit hlo hhi, fun k hl hk => tdField_bit hl (Nat.lt_of_le_of_lt hk hhi)⟩
  exact congrArg (fun c : Ctx => c.n + s.lat.valu) same.me

/-! ### Scale loads (R220, R224) -/

section
variable {f : MO} {s : State} {w : Word}

theorem mscl_misaligned (hwin : InReady s [f.wi1, f.wi2, f.wi3] w) (hmis : (imgAddr f s).toNat % 64 ≠ 0) :
    exec (.mscl f) s = .next ((s.charge 1 16).faultAt .align (imgAddr f s).toNat) :=
  congrArg Host.Outcome.next ((withWin_ready (s := s.charge 1 16) hwin _).trans (if_pos hmis))

theorem mscl_starts {segs : List Seg} (hwin : InReady s [f.wi1, f.wi2, f.wi3] w) (halign : (imgAddr f s).toNat % 64 = 0)
    (hroom : EngineRoom s)
    (hreach : resolve (s.charge 1 16) (s.who s.iss.cid) accRec false (imgAddr f s).toNat 1024 = .ok segs)
    (hfills : fillPages s.me (imgAddr f s).toNat 1024 = []) :
    exec (.mscl f) s = .next ((touchXlat (checkImg f (s.charge 1 16)) (s.who s.iss.cid) (imgAddr f s).toNat 1024).start w none
      (.mscl f.ea.toNat (wd (imgAddr f s).toNat) segs (s.me.n + s.lat.vld) [])).2 := by
  have same : SameBundle (s.charge 1 16) (touchXlat (checkImg f (s.charge 1 16)) (s.who s.iss.cid) (imgAddr f s).toNat 1024) :=
    (SameBundle.checkImg f _).trans (SameBundle.touchXlat _ _ _ _)
  have hroom' := hroom.held ((Held.charge s 1 16).trans same.held) same.cid
  refine congrArg Host.Outcome.next ((withWin_ready (s := s.charge 1 16) hwin _).trans ((if_neg (not_not_intro halign)).trans ?_))
  have hreach' : resolve (s.charge 1 16) ((s.charge 1 16).who (s.charge 1 16).iss.cid) accRec false
      (imgAddr f (s.charge 1 16)).toNat 1024 = .ok segs := hreach
  have hfills' : fillPages (s.charge 1 16).me (imgAddr f (s.charge 1 16)).toNat 1024 = [] := hfills
  rw [hreach']
  dsimp only
  rw [hfills']
  refine (congrArg Prod.snd (mStart_room hroom' _ _ _)).trans ?_
  have hdue : ∀ u, SameBundle (s.charge 1 16) u → u.me.n + u.lat.vld = s.me.n + s.lat.vld := fun u h => by
    rw [h.me, h.lat]
    rfl
  exact congrArg (fun due => (State.start _ w none (.mscl f.ea.toNat (wd (imgAddr f s).toNat) segs due [])).2) (hdue _ same)

end

/-! ### Operand lines (R219, R226, R243) -/

theorem lineErrs_append (k l : List (Nat × Except (Code × Nat) (List Seg))) : lineErrs (k ++ l) = lineErrs k ++ lineErrs l :=
  List.filterMap_append

/-- The translations of some lines used. -/
def linesUsed (s : State) (l : List (Nat × Except (Code × Nat) (List Seg))) (len : Nat) : State :=
  l.foldl (fun s p => touchXlat s (s.who s.iss.cid) p.1 len) s

theorem SameBundle.linesUsed (s : State) (l : List (Nat × Except (Code × Nat) (List Seg))) (len : Nat) :
    SameBundle s (Machine.linesUsed s l len) :=
  .of_iss (Held.foldl l _ fun t p => Held.touchXlat t _ p.1 len) (foldl_iss l _ (fun t p => touchXlat_iss t _ p.1 len) s)

theorem SameBundle.inReady {s t : State} {l : List WF} {w : Word} (h : SameBundle s t) (hwin : InReady s l w) : InReady t l w := by
  unfold InReady DataReady State.wregs
  rw [h.me]
  exact hwin

theorem SameBundle.linesReady {s t : State} {l : List (Nat × Except (Code × Nat) (List Seg))} {len : Nat} (h : SameBundle s t)
    (hlines : LinesReady s l len) : LinesReady t l len := by
  unfold LinesReady
  rw [h.me]
  exact hlines

theorem withLines_ready {s : State} {l : List (Nat × Except (Code × Nat) (List Seg))} {len : Nat} (h : LinesReady s l len)
    (k : State → List (List Seg) → State) : withLines s l len k = k (linesUsed s l len) (lineOks l) := by
  obtain ⟨herrs, hfills⟩ := h
  have hpages : (l.flatMap fun p => fillPages s.me p.1 len) = [] := List.flatMap_eq_nil_iff.mpr hfills
  unfold withLines
  rw [herrs, hpages]
  rfl

/-- The sectors that some lines touch (R117). -/
def lineSectors (l : List (Nat × Except (Code × Nat) (List Seg))) (len : Nat) : Nat :=
  (l.map fun p => sectors p.1 len).foldl (· + ·) 0

/-- The bytes of a line of an operand. -/
def lineLen (a : BitVec 256) (fmt : BitVec 4) : Nat := tdBlks a * bpb fmt

/-! ### Rows stored and loaded (R232) -/

section
variable (f : MO) (s : State) (st : Bool)

/-- The lines that `mst` and `mld` move. -/
def moveLines : List (Nat × Except (Code × Nat) (List Seg)) :=
  tileLines s (s.tdreg f.tda) st (tdKorg (s.tdreg f.tda)) (bpb f.fa)

/-- The state in which `mst` and `mld` start their operation: translations used, units and sectors charged. -/
def moveState : State :=
  (linesUsed s (moveLines f s st) (lineLen (s.tdreg f.tda) f.fa)).charge (if st then 2 else 1)
    (lineSectors (moveLines f s st) (lineLen (s.tdreg f.tda) f.fa))

/-- The operation of `mst` and `mld`. -/
def moveOp : MOp :=
  { kind := if st then .mst else .mld, acc := f.acc.toNat, tda := s.tdreg f.tda, fa := f.fa, sat := f.fn.getLsbD 0,
    linesA := lineOks (moveLines f s st), ue := tdBad (moveState f s st) [f.tda] }

variable {f s st}

theorem moveState_held : Held s (moveState f s st) :=
  (SameBundle.linesUsed s _ _).held.trans (Held.charge _ _ _)

theorem moveState_units : (moveState f s st).iss.ci = s.iss.ci + if st then 2 else 1 :=
  congrArg (· + _) (SameBundle.linesUsed s (moveLines f s st) (lineLen (s.tdreg f.tda) f.fa)).ci

theorem tileMove_starts {w : Word} (hroom : EngineRoom s) (hwin : InReady s [f.wi1, f.wi2, f.wi3] w)
    (hrows : tdKorg (s.tdreg f.tda) / 32 + tdBlks (s.tdreg f.tda) ≤ 2)
    (hlines : LinesReady s (moveLines f s st) (lineLen (s.tdreg f.tda) f.fa)) :
    tileMove f s st = ((moveState f s st).start w f.wo (.m (moveOp f s st))).2 := by
  have same := SameBundle.linesUsed s (moveLines f s st) (lineLen (s.tdreg f.tda) f.fa)
  refine (if_neg (Nat.not_lt.mpr hrows)).trans ((withLines_ready hlines _).trans ((withWin_ready (same.inReady hwin) _).trans ?_))
  exact congrArg Prod.snd (mStart_room (hroom.held moveState_held same.cid) _ _ _)

end

/-! ### Multiplies (R225–R227) -/

section
variable (f : MO) (s : State)

/-- The lines of the first operand of a multiply. -/
def mmaLinesA : List (Nat × Except (Code × Nat) (List Seg)) :=
  tileLines s (s.tdreg f.tda) false (kOrigin s f (s.tdreg f.tda)) (bpb f.fa)

/-- The lines of the second operand of a multiply. -/
def mmaLinesB : List (Nat × Except (Code × Nat) (List Seg)) :=
  tileLines s (s.tdreg f.tdb) false (kOrigin s f (s.tdreg f.tdb)) (bpb f.fb)

/-- The translations of both operands used. -/
def mmaReached : State :=
  linesUsed (linesUsed s (mmaLinesA f s) (lineLen (s.tdreg f.tda) f.fa)) (mmaLinesB f s) (lineLen (s.tdreg f.tdb) f.fb)

/-- The first scale register captured (R216). -/
def mmaScaleA : List Byte × State := takeScale (mmaReached f s) (f.fn.getLsbD 0) f.ea

/-- Then the second. -/
def mmaScaleB : List Byte × State := takeScale (mmaScaleA f s).2 (f.fn.getLsbD 1) f.eb

/-- The state in which a multiply starts its operation. -/
def mmaState : State :=
  (mmaScaleB f s).2.charge (tdBlks (s.tdreg f.tda))
    (lineSectors (mmaLinesA f s) (lineLen (s.tdreg f.tda) f.fa) + lineSectors (mmaLinesB f s) (lineLen (s.tdreg f.tdb) f.fb))

/-- A descriptor or scale register that a multiply captures has an uncorrectable error (R444). -/
def mmaUe : Bool :=
  tdBad (mmaScaleB f s).2 [f.tda, f.tdb] || (f.fn.getLsbD 0 && (mmaScaleB f s).2.me.eUe.contains f.ea.toNat) ||
    (f.fn.getLsbD 1 && (mmaScaleB f s).2.me.eUe.contains f.eb.toNat)

/-- The operation of a multiply; `z` tells `mmaz`. -/
def mmaOp (z : Bool) : MOp :=
  { kind := if z then .mmaz else .mma, acc := f.acc.toNat, tda := s.tdreg f.tda, tdb := s.tdreg f.tdb, sa := (mmaScaleA f s).1,
    sb := (mmaScaleB f s).1, fa := f.fa, fb := f.fb, zero := z && (!f.stk || s.iss.j == 0), j := s.iss.j,
    ka := kOrigin s f (s.tdreg f.tda), kb := kOrigin s f (s.tdreg f.tdb), linesA := lineOks (mmaLinesA f s),
    linesB := lineOks (mmaLinesB f s), ue := mmaUe f s }

/-- The form and the descriptors of a multiply are legal (R225, R226): scales only with the MX formats, and no number for a scale register
that is off. -/
structure MmaLegal : Prop where
  mx : 11 ≤ f.fa ∧ 11 ≤ f.fb ∨ f.fn = 0
  fn2 : f.fn.getLsbD 2 = false
  ea : f.fn.getLsbD 0 = true ∨ f.ea = 0
  eb : f.fn.getLsbD 1 = true ∨ f.eb = 0
  lines : tdLines (s.tdreg f.tdb) ≤ 64
  blocks : tdBlks (s.tdreg f.tda) = tdBlks (s.tdreg f.tdb)
  ka : kOrigin s f (s.tdreg f.tda) ≤ 65504
  kb : kOrigin s f (s.tdreg f.tdb) ≤ 65504

variable {f s}

theorem mmaReached_same : SameBundle s (mmaReached f s) := (SameBundle.linesUsed s _ _).trans (SameBundle.linesUsed _ _ _)

theorem mmaScaleA_same : SameBundle s (mmaScaleA f s).2 := mmaReached_same.trans (SameBundle.takeScale _ _ _)

theorem mmaScaleB_same : SameBundle s (mmaScaleB f s).2 := mmaScaleA_same.trans (SameBundle.takeScale _ _ _)

theorem mmaState_held : Held s (mmaState f s) := mmaScaleB_same.held.trans (Held.charge _ _ _)

theorem mmaState_cid : (mmaState f s).iss.cid = s.iss.cid := mmaScaleB_same.cid

theorem mmaState_units : (mmaState f s).iss.ci = s.iss.ci + tdBlks (s.tdreg f.tda) := congrArg (· + _) mmaScaleB_same.ci

/-- A captured scale register holds what it held at the word (R216). -/
theorem takeScale_bytes {t : State} (same : SameBundle s t) {on : Bool} (hon : on = true) (e : BitVec 3) :
    (takeScale t on e).1 = (List.range 1024).map fun i => tget 0 s.me.e (e.toNat * 1024 + i) := by
  simp only [takeScale, hon, Bool.not_true, Bool.false_eq_true, if_false, same.me]

theorem mmaAt_starts {w : Word} (z : Bool) (hroom : EngineRoom s) (hwin : InReady s [f.wi1, f.wi2, f.wi3] w) (hlegal : MmaLegal f s)
    (hlinesA : LinesReady s (mmaLinesA f s) (lineLen (s.tdreg f.tda) f.fa))
    (hlinesB : LinesReady s (mmaLinesB f s) (lineLen (s.tdreg f.tdb) f.fb)) :
    mmaAt f s z = ((mmaState f s).start w f.wo (.m (mmaOp f s z))).2 := by
  obtain ⟨mx, fn2, ea, eb, hlines, hblocks, hka, hkb⟩ := hlegal
  have hform : ¬ ((f.fn.getLsbD 0 ∧ ¬ (11 ≤ f.fa ∧ 11 ≤ f.fb)) ∨ (f.fn.getLsbD 1 ∧ ¬ (11 ≤ f.fa ∧ 11 ≤ f.fb)) ∨ f.fn.getLsbD 2 ∨
      (!f.fn.getLsbD 0 ∧ f.ea ≠ 0) ∨ (!f.fn.getLsbD 1 ∧ f.eb ≠ 0)) := by
    rintro (⟨h0, hmx⟩ | ⟨h1, hmx⟩ | h2 | ⟨h0, hea⟩ | ⟨h1, heb⟩)
    · exact mx.elim hmx fun hfn => by simp [hfn] at h0
    · exact mx.elim hmx fun hfn => by simp [hfn] at h1
    · exact Bool.false_ne_true (fn2.symm.trans h2)
    · exact ea.elim (fun hon => by rw [hon] at h0; cases h0) hea
    · exact eb.elim (fun hon => by rw [hon] at h1; cases h1) heb
  have hshape : ¬ (64 < tdLines (s.tdreg f.tdb) ∨ tdBlks (s.tdreg f.tda) ≠ tdBlks (s.tdreg f.tdb) ∨
      65504 < kOrigin s f (s.tdreg f.tda) ∨ 65504 < kOrigin s f (s.tdreg f.tdb)) := by
    simp only [hblocks, ne_eq, not_true_eq_false, false_or, not_or, Nat.not_lt]
    exact ⟨hlines, hka, hkb⟩
  have herrs : lowestErr (lineErrs (mmaLinesA f s ++ mmaLinesB f s)) = none := by
    obtain ⟨herrsA, -⟩ := hlinesA
    obtain ⟨herrsB, -⟩ := hlinesB
    rw [lineErrs_append, herrsA, herrsB]
    rfl
  have sameA := SameBundle.linesUsed s (mmaLinesA f s) (lineLen (s.tdreg f.tda) f.fa)
  refine (if_neg hform).trans ((if_neg hshape).trans ?_)
  dsimp only
  split
  · next c x hfault => exact absurd (herrs.symm.trans hfault) (by simp)
  · refine (withLines_ready hlinesA _).trans ((withLines_ready (sameA.linesReady hlinesB) _).trans
      ((withWin_ready (mmaReached_same.inReady hwin) _).trans ?_))
    rw [mmaOp, ← (mmaScaleB_same (f := f) (s := s)).j]
    exact congrArg Prod.snd (mStart_room (hroom.held mmaState_held mmaState_cid) _ _ _)

end

/-! ### Drains and tiles (R231, R233) -/

section
variable {f : MO} {s : State}

/-- The row of a tile that a drain names at the slot's sticky index (R62, R231). -/
def drainRow (f : MO) (s : State) : Nat := f.tda.toNat * 16 + f.tdb.toNat + s.iss.j * f.kstep.toNat

/-- The operation of a drain. -/
def drainOp (f : MO) (s : State) : MOp := { kind := .mdrn, acc := f.acc.toNat, row := drainRow f s, clr := f.fn.getLsbD 0 }

theorem mdrn_starts (hroom : EngineRoom s) (hrow : drainRow f s ≤ 127) :
    exec (.mdrn f) s = .next (((s.charge 1 0).start 0 none (.m (drainOp f s))).2.eff
      (.land ⟨.mrow, s.me.n + s.lat.mdrn, 0, BitVec.allOnes 2048, false, some s.nextId, false, false⟩)) := by
  refine congrArg Host.Outcome.next ((if_neg (Nat.not_lt.mpr hrow)).trans ?_)
  rw [mStart_room (s := s.charge 1 0) hroom]
  rfl

theorem mdrn_outside (hrow : 127 < drainRow f s) : exec (.mdrn f) s = .next ((s.charge 1 0).faultAt .illenc s.iss.pc.toNat) :=
  congrArg Host.Outcome.next (if_pos hrow)

theorem mzero_starts (hroom : EngineRoom s) :
    exec (.mzero f) s = .next ((s.charge 1 0).start 0 none (.m { kind := .mzero, acc := f.acc.toNat })).2 :=
  congrArg (Host.Outcome.next ∘ Prod.snd) (mStart_room (s := s.charge 1 0) hroom _ _ _)

theorem mmov_starts (hroom : EngineRoom s) :
    exec (.mmov f) s = .next ((s.charge 1 0).start 0 none (.m { kind := .mmov, acc := f.acc.toNat, acc2 := f.tda.toNat })).2 :=
  congrArg (Host.Outcome.next ∘ Prod.snd) (mStart_room (s := s.charge 1 0) hroom _ _ _)

end

/-! ### The statement -/

/-- Settles O20: each word by its own lemma; what checking, translating and capturing leave of the bundle (`SameBundle`) keeps the room
in the engine and the registers that an operation captures. -/
theorem matrixWords : Obligations.MatrixWords := by
  unfold Obligations.MatrixWords
  refine ⟨fun f s => ⟨fun w u bs hsat halign hread h1 h2 h3 h4 => ?_, fun w hsat => ⟨tdld_misaligned hsat, fun u bs halign hread hbad => ?_⟩,
      fun i hi lo v hword => ?_, fun w segs hwin => ⟨mscl_misaligned hwin, fun halign hroom hreach hfills =>
        mscl_starts hwin halign hroom hreach hfills⟩⟩,
    fun f s hroom => ⟨fun w hwin hmx hfn2 hea heb hlines hblocks hka hkb hlinesA hlinesB i z hword => ?_,
      ⟨mdrn_starts hroom, mdrn_outside⟩, fun w hwin hrows i st hword hlines => ?_, mzero_starts hroom, mmov_starts hroom⟩⟩
  · have hallowed : ¬ ForbiddenTd (leNat bs) := by
      simp only [ForbiddenTd, h1, h2, h3, h4, ne_eq, not_true_eq_false, or_self, not_false_eq_true]
    obtain ⟨hme, hlat, -⟩ := hread.sameBundle
    rw [tdld_read hsat halign hread, if_neg hallowed, landTd, hme, hlat]
  · obtain ⟨-, -, hpc⟩ := hread.sameBundle
    rw [tdld_read hsat halign hread, if_pos hbad, State.faultB, hpc]
  · have hset : exec i s = setTd f s hi lo v ∧ lo ≤ hi ∧ hi < 256 := by
      simp only [List.mem_cons, List.not_mem_nil, or_false, Prod.mk.injEq] at hword
      rcases hword with ⟨rfl, rfl, rfl, rfl⟩ | ⟨rfl, rfl, rfl, rfl⟩ | ⟨rfl, rfl, rfl, rfl⟩ | ⟨rfl, rfl, rfl, rfl⟩ | ⟨rfl, rfl, rfl, rfl⟩ |
        ⟨rfl, rfl, rfl, rfl⟩ | ⟨rfl, rfl, rfl, rfl⟩ <;> exact ⟨rfl, by decide, by decide⟩
    obtain ⟨hexec, hlo, hhi⟩ := hset
    rw [hexec]
    exact setTd_lands f s v hlo hhi
  · have hexec : exec i s = .next (mmaAt f s z) := by
      simp only [List.mem_cons, List.not_mem_nil, or_false, Prod.mk.injEq] at hword
      rcases hword with ⟨rfl, rfl⟩ | ⟨rfl, rfl⟩ <;> rfl
    refine ⟨mmaState f s, mmaOp f s z, mmaState_held, mmaState_cid, ?_, rfl, rfl, rfl, rfl, rfl, rfl, rfl, rfl, rfl, rfl, rfl,
      fun hon => takeScale_bytes mmaReached_same hon _, fun hon => takeScale_bytes mmaScaleA_same hon _, mmaState_units⟩
    rw [hexec, mmaAt_starts z hroom hwin ⟨hmx, hfn2, hea, heb, hlines, hblocks, hka, hkb⟩ hlinesA hlinesB]
  · have hexec : exec i s = .next (tileMove f s st) := by
      simp only [List.mem_cons, List.not_mem_nil, or_false, Prod.mk.injEq] at hword
      rcases hword with ⟨rfl, rfl⟩ | ⟨rfl, rfl⟩ <;> rfl
    refine ⟨moveState f s st, moveOp f s st, moveState_held, ?_, rfl, rfl, rfl, rfl, rfl, rfl, moveState_units⟩
    rw [hexec, tileMove_starts hroom hwin hrows hlines]

end Sys2Proof.Machine
end

section
/-! The die's power (R228, R229, R235–R239, R437–R439): the request of the next block, the decision of a die, and the start of a period. -/
namespace Sys2Proof.Machine

/-! ### The request of the next block (R215, R228, R229) -/

/-- All that a fetch of one line can do: nothing, since it waits already or has the line; wait; or have one line more. -/
theorem fetchLine_cases (x : Fetch) (n : Nat) :
    (fetchLine x n = x ∧ (x.wait = true ∨ n ∈ x.got)) ∨ (fetchLine x n).wait = true ∨
      (x.wait = false ∧ (fetchLine x n).got = x.got ++ [n]) := by
  unfold fetchLine
  by_cases hidle : (x.wait || x.got.contains n) = true
  · rw [if_pos hidle]
    exact .inl ⟨rfl, by simpa using hidle⟩
  · rw [if_neg hidle]
    dsimp only
    generalize (if l2Full x.s.l2 n then x.pins.filter fun k => l2Key k == l2Key n else []) = mine
    split
    · exact .inr (.inl rfl)
    · simp only [Bool.or_eq_true, not_or, Bool.not_eq_true] at hidle
      obtain ⟨hwait, -⟩ := hidle
      exact .inr (.inr ⟨hwait, rfl⟩)

/-- A fetch that need not wait has the line, and what it had before. -/
theorem fetchLine_got {x : Fetch} {n : Nat} (h : (fetchLine x n).wait = false) :
    x.wait = false ∧ n ∈ (fetchLine x n).got ∧ ∀ k ∈ x.got, k ∈ (fetchLine x n).got := by
  rcases fetchLine_cases x n with ⟨hsame, hidle⟩ | hwait | ⟨hwait, hgot⟩
  · rw [hsame] at h ⊢
    exact ⟨h, hidle.resolve_left (by simp [h]), fun k hk => hk⟩
  · rw [h] at hwait
    cases hwait
  · rw [hgot]
    exact ⟨hwait, List.mem_append_right _ (List.mem_singleton.mpr rfl), fun k hk => List.mem_append_left _ hk⟩

/-- A fetch of some lines that need not wait has them all. -/
theorem foldl_fetchLine_got {x : Fetch} {l : List Nat} (h : (l.foldl fetchLine x).wait = false) :
    x.wait = false ∧ (∀ n ∈ l, n ∈ (l.foldl fetchLine x).got) ∧ ∀ k ∈ x.got, k ∈ (l.foldl fetchLine x).got := by
  induction l generalizing x with
  | nil => exact ⟨h, fun n hn => absurd hn List.not_mem_nil, fun k hk => hk⟩
  | cons n l ih =>
    obtain ⟨hfirst, hrest, hkept⟩ := ih h
    obtain ⟨hwait, hn, hx⟩ := fetchLine_got hfirst
    exact ⟨hwait, List.forall_mem_cons.mpr ⟨hkept n hn, hrest⟩, fun k hk => hkept k (hx k hk)⟩

theorem fetchBlock_got {s : State} {m : MOp} (h : (fetchBlock s m).wait = false) :
    ∀ n ∈ devLines ((nextBlock m).1 ++ (nextBlock m).2), n ∈ (fetchBlock s m).got := by
  obtain ⟨-, hgot, -⟩ := foldl_fetchLine_got h
  exact hgot

/-- The operation that the array is at is a multiply. -/
theorem arrayOp_onArray {s : State} {core : Nat} {o : Op} {m : MOp} (h : arrayOp s core = some (o, m)) : m.onArray = true := by
  obtain ⟨p, -, hp⟩ := List.exists_of_findSome?_eq_some h
  split at hp
  · split at hp
    · next hcond =>
      simp only [Option.some.injEq, Prod.mk.injEq] at hp
      obtain ⟨-, rfl⟩ := hp
      simp only [Bool.and_eq_true] at hcond
      obtain ⟨⟨-, honArray⟩, -⟩ := hcond
      exact honArray
    · cases hp
  · cases hp

/-- The next block is not fetched: it is asked for or ready, there is none, or something holds it up. -/
def RequestIdle (s : State) (o : Op) (m : MOp) : Prop :=
  m.asked ≠ none ∨ (m.blk < m.granted ∧ blockHere m = true) ∨ m.blocks ≤ m.blk ∨ tileFree s o m = false ∨ regBad s o m = true ∨
    badBlock s m ≠ none ∨ readOpen s o ((nextBlock m).1 ++ (nextBlock m).2).flatten = false

section
variable {s : State} {o : Op} {m : MOp}

theorem requestIdle_iff (h : m.onArray = true) : RequestIdle s o m ↔
    (m.asked.isSome || (m.blk < m.granted && blockHere m) || m.blocks ≤ m.blk || !tileFree s o m || regBad s o m ||
      (badBlock s m).isSome || !readOpen s o (readsNext m)) = true := by
  have hreads : readsNext m = ((nextBlock m).1 ++ (nextBlock m).2).flatten := if_pos h
  simp only [RequestIdle, hreads, Bool.or_eq_true, Bool.and_eq_true, decide_eq_true_eq, Bool.not_eq_true', Option.isSome_iff_ne_none,
    or_assoc]

theorem request_none (h : arrayOp s s.arg.a = none) : exec .matrixBlockPowerRequest s = .next s := by
  change execMatrixBlockPowerRequest s = _
  rw [execMatrixBlockPowerRequest, h]

theorem request_idle (h : arrayOp s s.arg.a = some (o, m)) (hidle : RequestIdle s o m) : exec .matrixBlockPowerRequest s = .next s := by
  change execMatrixBlockPowerRequest s = _
  rw [execMatrixBlockPowerRequest, h]
  exact congrArg Host.Outcome.next (if_pos ((requestIdle_iff (arrayOp_onArray h)).mp hidle))

theorem request_fetches (h : arrayOp s s.arg.a = some (o, m)) (hidle : ¬ RequestIdle s o m) :
    exec .matrixBlockPowerRequest s = .next ((fetchBlock s m).s.setOp o.id
      (.m (if (fetchBlock s m).wait = true ∨ m.blk < m.granted then { m with pins := (fetchBlock s m).pins, got := (fetchBlock s m).got }
        else { m with
          asked := some (askUnits s m), askTick := s.now, heldPeriods := 0, pins := (fetchBlock s m).pins, got := (fetchBlock s m).got }))) := by
  change execMatrixBlockPowerRequest s = _
  rw [execMatrixBlockPowerRequest, h]
  refine congrArg Host.Outcome.next ((if_neg (mt (requestIdle_iff (arrayOp_onArray h)).mpr hidle)).trans ?_)
  simp only [Bool.or_eq_true, decide_eq_true_eq]
  rfl

end

/-! ### The task of an operation (R236) -/

/-- Changing the task of an operation changes contexts and what is kept of tasks that have ended, and nothing else. -/
theorem modOwner_eq (s : State) (o : Op) (f : Ctx → Ctx) : ∃ c g, modOwner s o f = { s with ctxs := c, gone := g } := by
  unfold modOwner
  split
  · exact ⟨_, _, rfl⟩
  · split
    · exact ⟨_, _, rfl⟩
    · exact ⟨_, _, rfl⟩

theorem countHeld_eq (s : State) (o : Op) (m : MOp) : ∃ c g, countHeld s o m = { s with ctxs := c, gone := g } := by
  unfold countHeld
  split
  · exact ⟨_, _, rfl⟩
  · exact modOwner_eq s o _

theorem modOwner_ctx {s : State} {o : Op} (h : s.holds? o.own = true) (f : Ctx → Ctx) :
    (modOwner s o f).ctx o.own.cid = f (s.ctx o.own.cid) := by
  rw [modOwner, if_pos h]
  exact modCtx_ctx _ _ _

/-- A context with other counts of its power: a rule of its own, so that the counts are never computed to see what stays. -/
def setPower (c : Ctx) (held : Nat) (pwr : Word) : Ctx := { c with mxHeld := held, mxPwr := pwr }

theorem setPower_task (c : Ctx) (held : Nat) (pwr : Word) : (setPower c held pwr).uid = c.uid ∧ (setPower c held pwr).st = c.st := ⟨rfl, rfl⟩

/-- THR after `n` more cycles held (R236). -/
def addHeld (n : Nat) (c : Ctx) : Ctx :=
  setPower c (c.mxHeld + n) (wd (min ((c.mxHeld + n) / 1024) 0xFFFF * 2 ^ 48 + c.mxPwr.toNat % 2 ^ 48))

/-- A context after the cycles that a block was held are counted. -/
def counted (s : State) (m : MOp) (c : Ctx) : Ctx := if m.asked.isNone then c else addHeld (s.cycle - m.askTick * 9 / 20) c

theorem countHeld_ctx {s : State} {o : Op} (h : s.holds? o.own = true) (m : MOp) :
    (countHeld s o m).ctx o.own.cid = counted s m (s.ctx o.own.cid) := by
  unfold countHeld counted
  split
  · rfl
  · exact modOwner_ctx h _

theorem counted_task (s : State) (m : MOp) (c : Ctx) : (counted s m c).uid = c.uid ∧ (counted s m c).st = c.st := by
  unfold counted
  split
  · exact ⟨rfl, rfl⟩
  · exact setPower_task _ _ _

/-- Counting leaves the task where it is. -/
theorem countHeld_holds {s : State} {o : Op} (h : s.holds? o.own = true) (m : MOp) : (countHeld s o m).holds? o.own = true := by
  obtain ⟨huid, hst⟩ := counted_task s m (s.ctx o.own.cid)
  unfold State.holds?
  dsimp only
  rw [countHeld_ctx h, huid, hst]
  exact h

/-! ### The fields of `mx.pwr` (R236) -/

theorem pwrWord_toNat {thr tot last : Nat} (hthr : thr < 2 ^ 16) (htot : tot < 2 ^ 32) (hlast : last < 2 ^ 16) :
    (wd (thr * 2 ^ 48 + tot * 2 ^ 16 + last)).toNat = thr * 2 ^ 48 + tot * 2 ^ 16 + last := by
  rw [BitVec.toNat_ofNat]
  omega

theorem fld_lt (x hi lo : Nat) : fld x hi lo < 2 ^ (hi + 1 - lo) := Nat.mod_lt _ (Nat.two_pow_pos _)

/-- A granted block joins TOT, and THR stays. -/
theorem chargePower_pwr (c : Ctx) (u : Nat) :
    (chargePower c u).mxPwr.toNat / 2 ^ 16 % 2 ^ 32 = min (c.mxPwr.toNat / 2 ^ 16 % 2 ^ 32 + u) (2 ^ 32 - 1) ∧
    (chargePower c u).mxPwr.toNat / 2 ^ 48 = c.mxPwr.toNat / 2 ^ 48 := by
  have hword : (chargePower c u).mxPwr = wd (fld c.mxPwr.toNat 63 48 * 2 ^ 48 +
      min (fld c.mxPwr.toNat 47 16 + u) (2 ^ 32 - 1) * 2 ^ 16 + fld c.mxPwr.toNat 15 0) := rfl
  have htot : min (fld c.mxPwr.toNat 47 16 + u) (2 ^ 32 - 1) < 2 ^ 32 := by omega
  have hthr : fld c.mxPwr.toNat 63 48 = c.mxPwr.toNat / 2 ^ 48 := Nat.mod_eq_of_lt (by have := c.mxPwr.isLt; omega)
  have hlast := fld_lt c.mxPwr.toNat 15 0
  rw [hword, pwrWord_toNat (fld_lt _ _ _) htot hlast, hthr]
  have hold : c.mxPwr.toNat / 2 ^ 16 % 2 ^ 32 = fld c.mxPwr.toNat 47 16 := rfl
  rw [hold]
  omega

/-- The cycles held join THR, and TOT stays. -/
theorem addHeld_pwr (c : Ctx) (n : Nat) :
    (addHeld n c).mxPwr.toNat / 2 ^ 16 % 2 ^ 32 = c.mxPwr.toNat / 2 ^ 16 % 2 ^ 32 ∧
    (addHeld n c).mxPwr.toNat / 2 ^ 48 = min ((c.mxHeld + n) / 1024) 65535 := by
  have hword : (addHeld n c).mxPwr.toNat = min ((c.mxHeld + n) / 1024) 65535 * 2 ^ 48 + c.mxPwr.toNat % 2 ^ 48 := by
    refine (BitVec.toNat_ofNat _ _).trans (Nat.mod_eq_of_lt ?_)
    omega
  rw [hword]
  omega

/-! ### The decision of a die (R439) -/

/-- One request of a die decided: granted and charged if the remainder covers it. -/
def grantOne (d : Nat) (s : State) (p : Op × MOp × Nat) : State :=
  if (s.die d).left < p.2.2 then s
  else (modOwner (countHeld (s.modDie d fun x => { x with left := x.left - p.2.2 }) p.1 p.2.1) p.1 fun c => chargePower c p.2.2).setOp
    p.1.id (.m { p.2.1 with asked := none, granted := p.2.1.blk + 1, units := p.2.1.units + p.2.2 })

theorem exec_powerGrantDecision (s : State) :
    exec .powerGrantDecision s = .next ((dieAsks s s.arg.a).foldl (grantOne s.arg.a) s) := rfl

theorem grantOne_short {d : Nat} {s : State} {p : Op × MOp × Nat} (h : (s.die d).left < p.2.2) : grantOne d s p = s := if_pos h

/-- A grant takes its units off the remainder, and touches no memory and no other operation. -/
theorem grantOne_covered {d : Nat} {s : State} {p : Op × MOp × Nat} (h : p.2.2 ≤ (s.die d).left) :
    ((grantOne d s p).die d).left = (s.die d).left - p.2.2 ∧ (grantOne d s p).mem = s.mem ∧
      (grantOne d s p).ops = (s.setOp p.1.id (.m { p.2.1 with asked := none, granted := p.2.1.blk + 1, units := p.2.1.units + p.2.2 })).ops := by
  have hdie := congrArg Die.left (modDie_die s d fun x => { x with left := x.left - p.2.2 })
  obtain ⟨c, g, hcount⟩ := countHeld_eq (s.modDie d fun x => { x with left := x.left - p.2.2 }) p.1 p.2.1
  obtain ⟨c', g', howner⟩ := modOwner_eq (countHeld (s.modDie d fun x => { x with left := x.left - p.2.2 }) p.1 p.2.1) p.1
    fun c => chargePower c p.2.2
  rw [grantOne, if_neg (Nat.not_lt.mpr h), howner, hcount]
  exact ⟨hdie, rfl, rfl⟩

theorem foldl_grantOne (d : Nat) (l : List (Op × MOp × Nat)) (s : State) :
    ((l.foldl (grantOne d) s).die d).left = l.foldl (fun n p => if n < p.2.2 then n else n - p.2.2) (s.die d).left ∧
      (l.foldl (grantOne d) s).mem = s.mem := by
  induction l generalizing s with
  | nil => exact ⟨rfl, rfl⟩
  | cons p l ih =>
    obtain ⟨hleft, hmem⟩ := ih (grantOne d s p)
    rw [List.foldl_cons, List.foldl_cons, hleft, hmem]
    by_cases hshort : (s.die d).left < p.2.2
    · rw [grantOne_short hshort, if_pos hshort]
      exact ⟨rfl, rfl⟩
    · obtain ⟨hleft, hmem, -⟩ := grantOne_covered (Nat.not_lt.mp hshort)
      rw [hleft, hmem, if_neg hshort]
      exact ⟨rfl, rfl⟩

/-- Requests that the remainder does not cover stay as they are. -/
theorem foldl_grantOne_short {d : Nat} {l : List (Op × MOp × Nat)} {s : State} (h : ∀ p ∈ l, (s.die d).left < p.2.2) :
    l.foldl (grantOne d) s = s := by
  induction l with
  | nil => rfl
  | cons p l ih =>
    obtain ⟨hp, hl⟩ := List.forall_mem_cons.mp h
    rw [List.foldl_cons, grantOne_short hp, ih hl]

/-- A grant charges the context that holds its task: the cycles that the block was held, then its units. -/
theorem grantOne_ctx {d : Nat} {s : State} {p : Op × MOp × Nat} (h : p.2.2 ≤ (s.die d).left) (hholds : s.holds? p.1.own = true) :
    (grantOne d s p).ctx p.1.own.cid = chargePower (counted s p.2.1 (s.ctx p.1.own.cid)) p.2.2 := by
  have hholds' : (s.modDie d fun x => { x with left := x.left - p.2.2 }).holds? p.1.own = true := hholds
  rw [grantOne, if_neg (Nat.not_lt.mpr h)]
  refine (modOwner_ctx (countHeld_holds hholds' _) _).trans ?_
  exact congrArg (chargePower · p.2.2) (countHeld_ctx hholds' _)

/-- What a grant makes of TOT and, where the block was asked for, of THR (R236). -/
theorem grantOne_pwr {d : Nat} {s : State} {p : Op × MOp × Nat} (h : p.2.2 ≤ (s.die d).left) (hholds : s.holds? p.1.own = true) :
    let x := s.ctx p.1.own.cid
    let y := (grantOne d s p).ctx p.1.own.cid
    let held := x.mxHeld + (s.cycle - p.2.1.askTick * 9 / 20)
    y.mxPwr.toNat / 2 ^ 16 % 2 ^ 32 = min (x.mxPwr.toNat / 2 ^ 16 % 2 ^ 32 + p.2.2) (2 ^ 32 - 1) ∧
      (p.2.1.asked ≠ none → y.mxHeld = held ∧ y.mxPwr.toNat / 2 ^ 48 = min (held / 1024) 65535) := by
  dsimp only
  rw [grantOne_ctx h hholds]
  obtain ⟨htot, hthr⟩ := chargePower_pwr (counted s p.2.1 (s.ctx p.1.own.cid)) p.2.2
  rw [htot, hthr]
  cases hasked : p.2.1.asked with
  | none =>
    have hcounted : counted s p.2.1 (s.ctx p.1.own.cid) = s.ctx p.1.own.cid := if_pos (by rw [hasked]; rfl)
    rw [hcounted]
    exact ⟨rfl, fun h => absurd rfl h⟩
  | some a =>
    have hcounted : counted s p.2.1 (s.ctx p.1.own.cid) = addHeld (s.cycle - p.2.1.askTick * 9 / 20) (s.ctx p.1.own.cid) :=
      if_neg (by rw [hasked]; exact Bool.false_ne_true)
    obtain ⟨htot, hthr⟩ := addHeld_pwr (s.ctx p.1.own.cid) (s.cycle - p.2.1.askTick * 9 / 20)
    rw [hcounted, htot, hthr]
    exact ⟨rfl, fun _ => ⟨rfl, rfl⟩⟩

/-! ### The start of a period (R437, R438) -/

/-- The last of the requests that are due gives the envelope. -/
theorem foldl_envelope (l : List (Nat × Nat)) (e : Nat) : l.foldl (fun _ x => x.1) e = (l.getLast?.map (·.1)).getD e := by
  rcases List.eq_nil_or_concat l with rfl | ⟨l, x, rfl⟩
  · rfl
  · simp

/-- What a period's start does to the blocks still held changes contexts, tasks that have ended and operations alone. -/
theorem holdPeriod_eq (s : State) (d : Nat) : ∃ c g l, holdPeriod s d = { s with ctxs := c, gone := g, ops := l } := by
  unfold holdPeriod
  generalize dieAsks s d = asks
  induction asks generalizing s with
  | nil => exact ⟨_, _, _, rfl⟩
  | cons p asks ih =>
    obtain ⟨c, g, hcount⟩ := countHeld_eq s p.1 p.2.1
    obtain ⟨c', g', l, hrest⟩ := ih ((countHeld s p.1 p.2.1).setOp p.1.id
      (.m { p.2.1 with heldPeriods := p.2.1.heldPeriods + 1, askTick := s.now }))
    rw [List.foldl_cons, hrest, hcount]
    exact ⟨_, _, _, rfl⟩

/-- The state with the envelope that is in force as the present period begins. -/
def periodState (s : State) : State := s.modPlat (dueEnvelopes (periodTick (s.cycle / 1024)))

/-- The envelopes whose requests are due as the period begins (R437). -/
def envelopesDue (s : State) : List (Nat × Nat) := s.plat.envNext.filter fun x => decide (x.2 + 4000000 ≤ periodTick (s.cycle / 1024))

theorem periodState_envelope (s : State) :
    (periodState s).plat.envelope = ((envelopesDue s).getLast?.map (·.1)).getD s.plat.envelope :=
  foldl_envelope _ _

/-- The requests that are not due stay. -/
theorem periodState_envNext (s : State) : ∀ x ∈ (periodState s).plat.envNext, x ∈ s.plat.envNext ∧ x ∉ envelopesDue s := by
  intro x hx
  obtain ⟨hmem, hlater⟩ := List.mem_filter.mp hx
  refine ⟨hmem, fun hdue => ?_⟩
  obtain ⟨-, hnow⟩ := List.mem_filter.mp hdue
  rw [hnow] at hlater
  cases hlater

theorem holdPeriod_none {s : State} {d : Nat} (h : dieAsks s d = []) : holdPeriod s d = s := by
  rw [holdPeriod, h]
  rfl

/-- The units of a period (R438, R440). -/
def periodBudget (p : Platform) : Nat := if p.arrays then envelopeUnits p.envelope * p.eighths / 8 else 0

theorem period_idle {s : State} (h : 4 ≤ s.arg.a ∨ s.cycle / 1024 ≤ (s.die s.arg.a).period) : exec .accountingPeriodStart s = .next s :=
  congrArg Host.Outcome.next (if_pos h)

theorem period_starts {s : State} (hd : s.arg.a < 4) (hk : (s.die s.arg.a).period < s.cycle / 1024) :
    exec .accountingPeriodStart s = .next ((holdPeriod (periodState s) s.arg.a).modDie s.arg.a fun x =>
      { x with budget := periodBudget (periodState s).plat, left := periodBudget (periodState s).plat, period := s.cycle / 1024 }) :=
  congrArg Host.Outcome.next (if_neg (by omega))

/-! ### The statement -/

/-- Settles O39: the request by the cases of its fetch; the decision by its step for one request, which the requests that the remainder
does not cover leave alone; the period by what its step writes. -/
theorem power : Obligations.Power := by
  unfold Obligations.Power
  intro s
  refine ⟨request_none, fun o m harray => ⟨request_idle harray, fun hidle hstop => ?_, fun hidle hwait hgranted => ⟨fetchBlock_got hwait, ?_⟩⟩,
    ⟨_, exec_powerGrantDecision s, ?_, ?_⟩, fun hshort => ?_, fun o m u rest hasks hcovered hshort hholds => ?_, ?_⟩
  · rw [request_fetches harray hidle, if_pos hstop]
  · rw [request_fetches harray hidle, if_neg (by simp [hwait, hgranted])]
  · obtain ⟨-, hmem⟩ := foldl_grantOne s.arg.a (dieAsks s s.arg.a) s
    exact hmem
  · obtain ⟨hleft, -⟩ := foldl_grantOne s.arg.a (dieAsks s s.arg.a) s
    exact hleft
  · rw [exec_powerGrantDecision, foldl_grantOne_short hshort]
  · obtain ⟨hleft, -, hops⟩ := grantOne_covered (p := (o, m, u)) hcovered
    have hrest : rest.foldl (grantOne s.arg.a) (grantOne s.arg.a s (o, m, u)) = grantOne s.arg.a s (o, m, u) :=
      foldl_grantOne_short fun p hp => hleft ▸ hshort p hp
    obtain ⟨htot, hthr⟩ := grantOne_pwr (p := (o, m, u)) hcovered hholds
    refine ⟨grantOne s.arg.a s (o, m, u), ?_, hleft, hops, htot, hthr⟩
    rw [exec_powerGrantDecision, hasks, List.foldl_cons, hrest]
  · intro k due env
    have henvelope : (periodState s).plat.envelope = env := by
      have hdue : envelopesDue s = due := rfl
      rw [periodState_envelope, hdue]
      dsimp only [env]
      cases due.getLast? with
      | none => rfl
      | some x => rfl
    refine ⟨period_idle, fun hd hk => ⟨_, period_starts hd hk, ?_⟩⟩
    obtain ⟨c, g, l, hhold⟩ := holdPeriod_eq (periodState s) s.arg.a
    rw [modDie_die, modDie_plat, modDie_mem, modDie_ops, hhold]
    refine ⟨rfl, henvelope, periodState_envNext s, rfl, rfl, fun hnone => ?_, fun harrays => ?_, fun w n hwn henv harrays => ?_⟩
    · have hops := congrArg State.ops (hhold.symm.trans (holdPeriod_none (s := periodState s) hnone))
      exact hops
    · exact if_neg (Bool.eq_false_iff.mp harrays)
    · have hunits : envelopeUnits w = n := by
        simp only [List.mem_cons, List.not_mem_nil, or_false, Prod.mk.injEq] at hwn
        rcases hwn with ⟨rfl, rfl⟩ | ⟨rfl, rfl⟩ | ⟨rfl, rfl⟩ <;> rfl
      have hbudget : periodBudget (periodState s).plat = envelopeUnits (periodState s).plat.envelope * s.plat.eighths / 8 := if_pos harrays
      exact hbudget.trans (by rw [henvelope, henv, hunits])

end Sys2Proof.Machine
end
